-- ==== Sys2Proof/Word.lean ====
section
/-! DEFINITION. Word.lean: the byte, the byte string and the sparse map, as types only.

Every operation on them (reading and writing a map, bit fields, byte order, checksums) stands in
`Sys2Proof/Machine/Bits.lean`. -/

namespace Sys2Proof

/-- One byte. -/
abbrev Byte := BitVec 8

/-- A string of bytes, lowest address first (00_scope R7: little-endian fields). -/
abbrev Bytes := List Byte

/-- A sparse table: pairs of a key and a value, keys strictly rising, no pair whose value equals the
table's default. Its operations are in `Sys2Proof/Machine/Bits.lean`. -/
abbrev SMap (α : Type) := List (Nat × α)

end Sys2Proof
end

