-- ==== Sys2Proof/Syntax.lean ====
section
/-! DEFINITION. Syntax.lean: the commands and events of the block, one constructor for each row of
`spec/opcode_table.json`, in the table's order.

A descriptor command (MATMUL to SAFETY_SELFTEST) names the ACCEPTED COMMAND it runs: the number that
DESCRIPTOR_ACCEPT gave it. Its descriptor, parameter block and operand table were read at acceptance
(05_command_rings R192). An event carries what the environment brings with it: a register write its
function, offset, width and value; a sensor its reading; a model that the manual does not define its
output. -/

namespace Sys2Proof

/-- A hardware thread of a general core: fret 0 to 47, core 0 or 1, thread 0 to 7
(06_streaming_and_fusion R219). -/
structure ThreadId where
  fret : Nat
  core : Nat
  thread : Nat
  deriving DecidableEq, Repr

/-- What one general-core instruction does, other than the custom ones
(06_streaming_and_fusion R220, R226, R227). -/
inductive GOp where
  /-- A load of `len` bytes at device virtual address `addr` into register `rd`. -/
  | load (rd addr len : Nat)
  /-- A store of `data` at device virtual address `addr`. -/
  | store (addr : Nat) (data : Bytes)
  /-- Any other instruction: it writes `value` to register `rd`. -/
  | other (rd value : Nat)
  /-- A word in the custom-0 major opcode (R222): the model decodes it. -/
  | custom (word : Nat)
  /-- An encoding that RV64GC and V leave out. -/
  | illegal
  deriving DecidableEq, Repr

/-- An instruction that a general core issues, and the address at which its thread goes on. -/
structure Issue where
  op : GOp
  next : Nat
  deriving DecidableEq, Repr

/-- A place of a fret at which a slice runs: its array, or its gate edge beside it, where POOL runs (09_image_operators R332, R333). -/
structure FretPart where
  fret : Nat
  edge : Bool := false
  deriving DecidableEq, Repr

/-- What of a fret an error strikes: no slice, the one of its array, or the one of its gate edge. -/
inductive Struck where
  | nothing
  | array
  | edge
  deriving DecidableEq, Repr

/-- The fret faults of 01_architecture R25, without the watchdog, which is a row of its own. -/
inductive FretFaultKind where
  /-- A double-bit error in bank `bank` of the fret's SRAM, and the slice that it strikes. -/
  | sramDouble (bank : Nat) (struck : Struck)
  /-- An internal error of the fret DMA, and the slice that it strikes. -/
  | dma (struck : Struck)
  /-- Loss of the fret's clock or power while a slice runs. -/
  | clockOrPower
  deriving DecidableEq, Repr

/-- A unit with an ECC corrected-error counter (01_architecture R22). -/
inductive EccUnit where
  | fret (n : Nat)
  | string (n : Nat)
  deriving DecidableEq, Repr

/-- How a die-page read ended (02_memory_tiers R82, 03_weight_store R123, R124). -/
inductive ReadOutcome where
  /-- LDPC decoded it at this retry level, 0 to 15. -/
  | ldpc (retryLevel : Nat)
  /-- Another replica gave the data. -/
  | replica
  /-- The stripe parity gave the data. -/
  | rebuilt
  /-- Every step failed. -/
  | failed
  deriving DecidableEq, Repr

/-- A die-page of a block: the block by die × 1,024 + index, and the page in it (03_weight_store R92). -/
structure DiePage where
  block : Nat
  page : Nat
  deriving DecidableEq, Repr

/-- What a die-page read was for. -/
inductive ReadFor where
  /-- A unit of a streaming pass. -/
  | unit (pass unit : Nat)
  /-- A migration copy of a region of the unified range. -/
  | migration (region : Nat)
  /-- A relocation copying the block. -/
  | relocation
  /-- A DDR5 copy or a hot load that this MODEL_PLACE makes (02_memory_tiers R57, R82). -/
  | place (id : Nat)
  /-- A read back of installed data. -/
  | other
  deriving DecidableEq, Repr

/-- What strikes a command at its end (01_architecture R41; 05_command_rings R206). -/
inductive EndFault where
  | none
  /-- A fault during the commit. -/
  | commit
  /-- A DDR5 read of other data than a copy of weights was uncorrectable: the locator of its address. -/
  | ddr (locator : Nat)
  /-- An internal fault of the bridge, a controller or another unit. -/
  | internal
  deriving DecidableEq, Repr

/-- A power domain's bring-up outcome in its memory phase (13_power_domains R424, R434, R440). -/
structure MemoryPhase where
  /-- Retained banks in which a word held a double-bit error, one bit each (R424). -/
  lostBanks : Nat
  /-- DDR: the saved values held their CRC and the eyes verified (R440). -/
  savedTrainingOk : Bool
  /-- DDR: the stack temperature in °C. -/
  stackTemp : Int
  deriving DecidableEq, Repr

/-- A camera packet's line payload and how it arrived (12_camera_pipeline R399, R405). -/
structure LinePacket where
  vc : Nat
  dtype : Nat
  payload : Bytes
  /-- A single-bit header error was corrected. -/
  hdrCorrected : Bool
  /-- The header could not be corrected. -/
  hdrUncorrectable : Bool
  /-- The payload CRC-16 did not match. -/
  crcError : Bool
  /-- The receiver FIFO overflowed in this line; `payload` holds what was kept. -/
  fifoOverflow : Bool
  deriving DecidableEq, Repr

/-- One beam's detector scores in a frame (11_listening_wake R372). -/
structure BeamScores where
  beam : Nat
  scores : List Nat
  deriving DecidableEq, Repr

/-- The bits of one ball PDM_DATA_n, oldest first: those at the rising edges of PDM_CLK and those at the falling edges
(11_listening_wake R366). -/
structure PdmEdges where
  rising : List Bool
  falling : List Bool
  deriving DecidableEq, Repr

/-- A frame of the detector (11_listening_wake R366, R372): the bits of the balls since the drone took the last ones, the scores of
the beams, and the microseconds from the frame's features to its scores. -/
structure Heard where
  balls : List PdmEdges
  scores : List BeamScores
  scoredUs : Nat
  deriving DecidableEq, Repr

/-- A frame that the luma tap of CSI-2 port 0 takes: data type, width in pixels, and the payloads of its lines (11_listening_wake R379). -/
structure TapFrame where
  dtype : Nat
  width : Nat
  lines : List Bytes
  deriving DecidableEq, Repr

/-- The capo's estimates for one string, in mW (14_capo_thermal_supply R444). -/
structure StringPower where
  dynMw : Nat
  leakMw : Nat
  deriving DecidableEq, Repr

/-- A job of the safety frame sequencer (15_functional_safety R474). -/
structure SafetyJob where
  /-- False: channel A. True: the Keaster channel. -/
  keaster : Bool
  /-- True for the golden job of the frame. -/
  golden : Bool
  deriving DecidableEq, Repr

/-- A PLL of 19_clocks_startup R571, R572. -/
inductive Pll where
  | root | ddr | flash | pcieA | pcieB | safety
  deriving DecidableEq, Repr

/-- What a PCIe configuration request writes, as far as the manual gives it an effect
(18_host_ports R552, R554, R559, R561, R562, R564, R568). -/
inductive CfgWrite where
  | read
  | busMaster (on : Bool)
  | powerState (d3hot : Bool)
  | pmeEnable (on : Bool)
  | msixEnable (on : Bool)
  | msixFunctionMask (on : Bool)
  | tag10Enable (on : Bool)
  | maxPayload (mps : Nat)
  | aspmL1 (on : Bool)
  | ltr (on : Bool)
  | ptmEnable (on : Bool)
  | bar4Size (log2 : Nat)
  deriving DecidableEq, Repr

/-- What a failed completion was for (18_host_ports R560). -/
inductive ReadTarget where
  /-- A descriptor fetch or a record write of a ring. -/
  | ring (ring : Nat)
  /-- A read of command data of an accepted command. -/
  | command (id : Nat)
  deriving DecidableEq, Repr

/-- The payload of CONF_SET (16_security R516). -/
structure ConfRequest where
  winVa : Nat
  winSize : Nat
  hostBase : Nat
  tagBase : Nat
  /-- The reserved bytes are 0. -/
  reservedZero : Bool
  deriving DecidableEq, Repr

/-- What SAFETY_SELFTEST found (15_functional_safety R492): the first failing test, if one failed, and
the first and second golden runs of each channel, one vector of eight FP32 words for each golden input. -/
structure SelftestRun where
  failed : Option Nat
  firstA : List (List Nat)
  secondA : List (List Nat)
  firstB : List (List Nat)
  secondB : List (List Nat)
  deriving DecidableEq, Repr

/-- The commands and events of the ZH4820, one constructor for each row of `spec/opcode_table.json`.
Each docstring names the table's row and the rule that governs it. -/
inductive Instr where
  /-- MATMUL (R189): Matrix product command: output tiles are computed with group arithmetic, staged, then committed. -/
  | matmul (id : Nat)
  /-- ATTENTION (R257): Attention over the KV caches of the length-table entries, with blockwise online softmax and optional KV write. -/
  | attention (id : Nat)
  /-- ATTENTION_BWD (R271): Recomputes probabilities from the row statistics and forms the query, key and value gradients. -/
  | attentionBwd (id : Nat)
  /-- RECURRENT (R290): Runs LSTM or GRU cells step by step, with the state held in accumulator lanes. -/
  | recurrent (id : Nat)
  /-- SCAN (R298): Runs an element-wise linear recurrence as a chunked parallel scan, honouring reset marks. -/
  | scan (id : Nat)
  /-- CONV (R318): Convolution in the dense, block-diagonal or diagonal mapping, with optional regrouping of input and output. -/
  | conv (id : Nat)
  /-- POOL (R329): Maximum or average pooling run on the gate edge. -/
  | pool (id : Nat)
  /-- REGROUP (R334): Moves pixels between space and channels on the fret DMAs. -/
  | regroup (id : Nat)
  /-- GCORE_RUN (R225): Loads a program onto the chosen frets and runs it on general-core threads 4 to 7. -/
  | gcoreRun (id : Nat)
  /-- VISION_PASS (R412): Memory pass of the image pipeline from a raw frame to up to three outputs. -/
  | visionPass (id : Nat)
  /-- STREAM_MODEL (R193): Streams the window units of a model's layers, starting a pass or joining one that is under way. -/
  | streamModel (id : Nat)
  /-- COPY (R193): Copies bytes between device virtual addresses. -/
  | copy (id : Nat)
  /-- FILL (R193): Writes a 64-bit pattern over a range. -/
  | fill (id : Nat)
  /-- MODEL_PLACE (R56): Applies the placement entries of a model handle and makes the DDR5 copies and hot-set loads they require. -/
  | modelPlace (id : Nat)
  /-- BARRIER (R207): Completes once every command accepted on the listed rings before it has completed. -/
  | barrier (id : Nat)
  /-- FENCE_SIGNAL (R207): After every earlier command of its ring has completed, writes a value to an address. -/
  | fenceSignal (id : Nat)
  /-- POWER_HINT (R245): Records an announced heavy phase, for setpoint raising and lifting of the ramp limit. -/
  | powerHint (id : Nat)
  /-- FUSED_GROUP (R197): Runs a chain of operator stages as one command, with hand-over by credits or through memory. -/
  | fusedGroup (id : Nat)
  /-- NOP (R168): Command with no body and no effect. -/
  | nop (id : Nat)
  /-- SESSION_OPEN (R248): Opens a session with its KV region layout, bound to a model version. -/
  | sessionOpen (id : Nat)
  /-- SESSION_CLOSE (R255): Marks a session closing and, once earlier commands have completed, frees its entry and pages. -/
  | sessionClose (id : Nat)
  /-- SESSION_TRUNCATE (R254): Lowers every layer fill to a new length and returns the pages beyond it. -/
  | sessionTruncate (id : Nat)
  /-- PREFIX_ATTACH (R278): Looks up chained prefix blocks and maps the hits read-only into an empty session. -/
  | prefixAttach (id : Nat)
  /-- PREFIX_PUBLISH (R277): Hashes a session's blocks and enters them into the prefix table. -/
  | prefixPublish (id : Nat)
  /-- PREFIX_DROP (R280): Removes prefix entries that the issuing function published. -/
  | prefixDrop (id : Nat)
  /-- CAMERA_BIND (R398): Binds a virtual channel and data type of a camera port to frame slots or to the in-line path. -/
  | cameraBind (id : Nat)
  /-- CAMERA_UNBIND (R403): Releases a bind and discards its frame in progress. -/
  | cameraUnbind (id : Nat)
  /-- DRONE_CONFIG (R382): Configures capture, beams, detector, pre-roll and sensors; an audio-changing configuration takes effect at a block boundary. -/
  | droneConfig (id : Nat)
  /-- WAKE_PLAN_SET (R383): Sets, enables or disables a wake plan. -/
  | wakePlanSet (id : Nat)
  /-- PREROLL_REPLAY (R392): Copies a span of beam or microphone audio from the pre-roll or live capture to memory. -/
  | prerollReplay (id : Nat)
  /-- INSTALL_BEGIN (R536): Opens an install, unwraps the envelope, reserves capacity and returns a transfer ID. -/
  | installBegin (id : Nat)
  /-- INSTALL_DATA (R537): Delivers an image block into the install buffer, and resumes a suspended install. -/
  | installData (id : Nat)
  /-- INSTALL_COMMIT (R539): Checks the manifest and commits the new version of the model handle. -/
  | installCommit (id : Nat)
  /-- INSTALL_CANCEL (R540): Cancels an unfinished install and releases its blocks, reservation and key slot. -/
  | installCancel (id : Nat)
  /-- MODEL_RELEASE (R87): Removes an installed model from the weight store. -/
  | modelRelease (id : Nat)
  /-- FW_WRITE (R528): Writes one block of a firmware image into the inactive slot. -/
  | fwWrite (id : Nat)
  /-- FW_ACTIVATE (R529): Starts the live hand-over to the image in the inactive slot. -/
  | fwActivate (id : Nat)
  /-- DOMAIN_SET (R427): Sets the issuing port's targets for the power domains. -/
  | domainSet (id : Nat)
  /-- SAFETY_CONFIGURE (R489): SAFETY_CONFIG CONFIGURE: forms the partition, loads model_b and sets up the verdict ring and tolerances. -/
  | safetyConfigure (id : Nat)
  /-- SAFETY_RUN (R488): SAFETY_CONFIG RUN: starts the safety stream, which stays outstanding while it runs. -/
  | safetyRun (id : Nat)
  /-- SAFETY_STOP (R488): SAFETY_CONFIG STOP: ends a running stream and returns it to TESTED. -/
  | safetyStop (id : Nat)
  /-- SAFETY_CLEAR (R488): SAFETY_CONFIG CLEAR: returns a latched stream to CONFIGURED. -/
  | safetyClear (id : Nat)
  /-- SAFETY_GOLDEN_SET (R490): Copies the golden inputs into the device-reserved region. -/
  | safetyGoldenSet (id : Nat)
  /-- SAFETY_SELFTEST (R492): Runs the start-up self-tests and captures the golden references. -/
  | safetySelftest (id : Nat) (run : SelftestRun)
  /-- SUBMISSION_DOORBELL (R175): Host writes the tail index of a submission ring. -/
  | submissionDoorbell (func offset width value : Nat)
  /-- HEAD_DOORBELL (R175): Host writes the head index of a completion or event ring, freeing its entries. -/
  | headDoorbell (func offset width value : Nat)
  /-- DESCRIPTOR_ACCEPT (R176): Once a completion entry can be reserved, the device copies the next descriptor in and validates it. -/
  | descriptorAccept (ring : Nat)
  /-- DESCRIPTOR_FETCH_ERROR (R184): A descriptor fetch ends in a PCIe error and the ring enters ERROR. -/
  | descriptorFetchError (ring : Nat)
  /-- RECORD_WRITE_ERROR (R184): A write of a completion, event record or head shadow ends in a PCIe error. -/
  | recordWriteError (ring : Nat)
  /-- FENCED_COMMAND_START (R207): A fenced command starts once every earlier command of its ring has completed. -/
  | fencedCommandStart (id : Nat)
  /-- COMMAND_COMPLETE (R204): A command's last failing step passes or a failure ends it; it commits if it succeeded, then its completion is written. -/
  | commandComplete (id : Nat) (fault : EndFault)
  /-- INTERRUPT_COALESCE_TIMEOUT (R181): coal_us after the first uncounted entry, the ring raises its MSI-X vector. -/
  | interruptCoalesceTimeout (ring : Nat)
  /-- EVENT_LOST_RECORD (R203): When event-ring space returns, writes one EVENT_LOST record with the dropped count. -/
  | eventLostRecord (func : Nat)
  /-- RING_ENABLE (R182): HIF_RING_CTRL op ENABLE: enables a ring if its configuration is valid. -/
  | ringEnable (func : Nat)
  /-- RING_DRAIN (R182): HIF_RING_CTRL op DRAIN: stops acceptance and lets accepted commands finish. -/
  | ringDrain (func : Nat)
  /-- RING_ABORT (R183): HIF_RING_CTRL op ABORT: kills accepted commands that have not begun to commit. -/
  | ringAbort (func : Nat)
  /-- RING_DISABLE (R185): HIF_RING_CTRL op DISABLE: returns a stopped or errored ring to DISABLED. -/
  | ringDisable (func : Nat)
  /-- HIF_VERSION_WRITE (R170): A write of host_max negotiates the interface version. -/
  | hifVersionWrite (func hostMax : Nat)
  /-- HIF_FUNC_RINGS_WRITE (R214): Assigns a function's ring ID range, subject to the range checks. -/
  | hifFuncRingsWrite (func n value : Nat)
  /-- REGISTER_WRITE (R15): A write to a register field with no behaviour of its own, under the access codes, range rule and locks. -/
  | registerWrite (func offset width value : Nat)
  /-- SLICE_COMPLETE (R346): A slice ends and its fret falls free for the next dispatch. -/
  | sliceComplete (part : FretPart) (cycles : Nat)
  /-- PREEMPT_GRACE_EXPIRY (R352): grace_us expires for a pre-empting waiting slice and a victim is killed. -/
  | preemptGraceExpiry (id : Nat)
  /-- SLICE_WATCHDOG_EXPIRY (R26): A slice's watchdog count reaches four times the slice length, which is a fret fault. -/
  | sliceWatchdogExpiry (part : FretPart)
  /-- FRET_FAULT (R27): An SRAM double error, a fret DMA error or a loss of clock or power discards the slice staging for a rerun. -/
  | fretFault (fret : Nat) (kind : FretFaultKind)
  /-- SRAM_CORRECTED_WRITEBACK (R22): In the next free bank cycle, writes back a word corrected for a single-bit error. -/
  | sramCorrectedWriteback (unit : EccUnit) (offset : Nat) (word : Bytes)
  /-- STRING_BUFFER_DOUBLE_ERROR (R34): A string-buffer double-bit error issues a refetch of the affected 4 KiB. -/
  | stringBufferDoubleError (string offset : Nat)
  /-- WINDOW_REFETCH_DONE (R34): Refetched bytes are in the buffer and the consuming slices are rerun. -/
  | windowRefetchDone (string offset : Nat)
  /-- PASS_START (R232): A waiting pass starts when fewer than 8 passes are active. -/
  | passStart (pass : Nat)
  /-- UNIT_FETCH_ISSUE (R61): When string-buffer space allows, the stream engine issues the fetch of the next window unit. -/
  | unitFetchIssue (pass : Nat)
  /-- UNIT_PART_ARRIVE (R66): One tier's part of a unit is complete in the string buffers, and the unit is ready once all parts are. -/
  | unitPartArrive (pass unit : Nat) (fromStore : Bool)
  /-- LATE_BUDGET_EXPIRY (R84): A unit's weight-store part misses its late budget and the command completes with FLASH_LATE. -/
  | lateBudgetExpiry (pass unit : Nat)
  /-- WEIGHT_STORE_READ_DONE (R82): A die-page read returns and goes through LDPC, replica and parity recovery. -/
  | weightStoreReadDone (at_ : DiePage) (outcome : ReadOutcome) (use : ReadFor)
  /-- CHUNK_DECODE_DONE (R75): A stream decoder finishes a packed chunk and writes it at out_offset, or fails under R74. -/
  | chunkDecodeDone (pass unit string base : Nat) (chunk : Bytes) (rebuilt : Bool)
  /-- DDR_COPY_REREAD_DONE (R41): After an uncorrectable DDR5 weight copy is reread from the store, the copy is rewritten and the slice rerun. -/
  | ddrCopyRereadDone (addr : Nat) (data : Bytes)
  /-- MIGRATION_EPOCH_EXPIRY (R77): At the end of each epoch every migration counter is halved. -/
  | migrationEpochExpiry
  /-- MIGRATION_PROMOTE (R78): A region's counter reaches promote_threshold, and the region is promoted into a cache slot. -/
  | migrationPromote (region : Nat)
  /-- MIGRATION_COPY_DONE (R78): A migration copy completes and its tag is set valid. -/
  | migrationCopyDone (slot : Nat)
  /-- MIGRATION_SLOT_REUSE (R79): An evicted slot is reused after every read issued to it has completed. -/
  | migrationSlotReuse (slot : Nat)
  /-- REFRESH_LIMIT_REACHED (R107): A block's rd_pages reaches the refresh limit and a relocation is queued. -/
  | refreshLimitReached (block : Nat)
  /-- RELOCATION_RAISE (R109): At 1.25 times the limit, the relocation is raised to priority 7. -/
  | relocationRaise (block : Nat)
  /-- DISTURB_OVERRUN (R110): A block reaches twice its refresh limit; disturb_overrun is set. -/
  | disturbOverrun (block : Nat)
  /-- RELOCATION_COPY_DONE (R108): The last word line of a relocation destination is programmed and the REMAP record is written. -/
  | relocationCopyDone (block : Nat)
  /-- JOURNAL_RECORD_DURABLE (R101): A journal record becomes durable and its change takes effect for reads. -/
  | journalRecordDurable
  /-- PROGRAM_DONE (R125): A flash program completes, or fails and the block is retired. -/
  | programDone (block : Nat) (ok : Bool)
  /-- ERASE_PENDING_ERASE (R105): Erases an ERASE_PENDING block once every read issued to it has completed. -/
  | erasePendingErase (block : Nat)
  /-- BLOCK_ERASE_DONE (R114): An erase completes, adds wear, and the block becomes FREE or is retired. -/
  | blockEraseDone (block : Nat) (ok : Bool)
  /-- PATROL_DUE (R120): A block's age reaches the patrol interval and patrol reads six die-pages. -/
  | patrolDue (block ber : Nat)
  /-- JOURNAL_CHECKPOINT_TRIGGER (R102): The journal passes 75 % full and a checkpoint is written. -/
  | journalCheckpointTrigger
  /-- BSTATE_DELTA_TIMER (R102): Every 60 s, writes BSTATE_DELTA and TEMP_HIST records for changed entries. -/
  | bstateDeltaTimer
  /-- AGE_CLOCK_MINUTE (R118): Each minute the equivalent-age clock advances by the hottest bin's factor. -/
  | ageClockMinute
  /-- DIE_FAILED (R127): A die failing every read and poll for 1 s is marked failed. -/
  | dieFailed (die : Nat)
  /-- START_PATROL (R128): WST_MAINT_CTRL start_patrol starts a patrol pass over every DATA and PARITY block. -/
  | startPatrol (func : Nat)
  /-- START_COMPACTION (R128): WST_MAINT_CTRL start_compaction starts journal compaction. -/
  | startCompaction (func : Nat)
  /-- START_SCRUB (R128): WST_MAINT_CTRL start_scrub starts a DDR5 patrol scrub pass. -/
  | startScrub (func : Nat)
  /-- ZH_DMAQ (R222): Custom instruction queuing a fret DMA request and returning a ticket. -/
  | zhDmaq (t : ThreadId) (rd rs1 : Nat)
  /-- ZH_DMAW (R222): Custom instruction waiting for a DMA ticket to complete. -/
  | zhDmaw (t : ThreadId) (rd rs1 : Nat)
  /-- ZH_INFO (R222): Custom instruction returning a thread, fret or time item. -/
  | zhInfo (t : ThreadId) (rd rs1 : Nat)
  /-- ZH_EXIT (R222): Custom instruction ending the thread with an exit code. -/
  | zhExit (t : ThreadId) (rs1 : Nat)
  /-- FRET_DMA_DONE (R223): A fret DMA request completes and its ticket is released. -/
  | fretDmaDone (fret ticket : Nat)
  /-- GCORE_BUDGET_EXPIRY (R227): budget_us expires before every thread has exited and GCORE_RUN fails. -/
  | gcoreBudgetExpiry (id : Nat)
  /-- POWER_HINT_PREPARE (R243): At start + lead_us − 100 µs the VDD_CORE setpoint is raised. -/
  | powerHintPrepare (hint : Nat)
  /-- POWER_HINT_PHASE_START (R243): At the phase start the ramp limit is lifted on the named strings. -/
  | powerHintPhaseStart (hint : Nat)
  /-- POWER_HINT_RESTORE (R243): 50 µs after the phase ends, the setpoint and ramp limit are restored. -/
  | powerHintRestore (hint : Nat)
  /-- BOW_PORT_SPLIT_WRITE (R342): A proposal of a_share; equal proposals change k if the usage fits. -/
  | bowPortSplitWrite (func value : Nat)
  /-- BOW_HOTSET_CTRL_WRITE (R361): Writes the policy or the banks count of the hot set. -/
  | bowHotsetCtrlWrite (func value : Nat)
  /-- HOTSET_RESIZE (R361): Once hot-set slices end, evicts unpinned entries and reloads the pinned ones at the new size. -/
  | hotsetResize
  /-- BOW_HOT_PIN_WRITE (R359): Pins a model handle's hot entry and loads it. -/
  | bowHotPinWrite (func n value : Nat)
  /-- HOT_SWITCH_DONE (R360): The last byte of a hot entry is loaded and its slices dispatch. -/
  | hotSwitchDone (entry : Nat)
  /-- DETECTOR_FRAME (R372): Every 10 ms: features, class scores and the detector state transitions. -/
  | detectorFrame (heard : Heard) (tdm : List (List Nat))
  /-- DETECTOR_CANDIDATE_QUIET (R373): 30 consecutive frames below the pre level return the detector to IDLE. -/
  | detectorCandidateQuiet
  /-- DETECTOR_CANDIDATE_TIMEOUT (R373): 1.5 s in CANDIDATE returns the detector to IDLE. -/
  | detectorCandidateTimeout
  /-- DETECTOR_HOLDOFF_EXPIRY (R373): holdoff_ms elapses and the detector returns to IDLE. -/
  | detectorHoldoffExpiry
  /-- PREROLL_BLOCK_BOUNDARY (R376): Every 16 ms a pre-roll block of each beam is completed and stored. -/
  | prerollBlockBoundary (balls : List PdmEdges)
  /-- DRONE_CONFIG_TAKE_EFFECT (R388): A deferred or audio-changing configuration takes effect at a block boundary. -/
  | droneConfigTakeEffect
  /-- VIB_SAMPLE (R378): A duty-cycled vibration sample over SPI, compared with the plans' peak triggers. -/
  | vibSample (miso : Bytes)
  /-- LEVEL_SAMPLE (R378): A duty-cycled microphone level sample, compared with lvl_q88. -/
  | levelSample (bits : List Bool)
  /-- CAMERA_MOTION_SAMPLE (R379): Samples one CSI-2 port 0 frame for block-mean motion. -/
  | cameraMotionSample (frame : TapFrame)
  /-- CAM_SAMPLE_TIMEOUT (R379): No frame end within 100 ms; the sample is dropped and cam_fault is set. -/
  | camSampleTimeout
  /-- VIB_FAULT (R393): TDM frame sync lost for 10 ms, or an SPI read not done within its period. -/
  | vibFault
  /-- PDM_FAULT (R393): An enabled microphone delivers constant data for 10 ms. -/
  | pdmFault (mic : Nat)
  /-- DRN_PLAN_KICK (R384): Register write meeting the trigger of host-triggered plans. -/
  | drnPlanKick (func value : Nat)
  /-- DRN_PLAN_ACK (R433): Acknowledges an ACCEPTED plan; its domains become host ON targets. -/
  | drnPlanAck (func value : Nat)
  /-- PLAN_HOLD_EXPIRY (R384): hold_ms after acceptance, the plan releases its requests and returns to ARMED. -/
  | planHoldExpiry (plan : Nat)
  /-- VERIFIER_SCORE (R386): The verifier produces a score, which accepts or rejects the plan. -/
  | verifierScore (plan score : Nat)
  /-- PRELOAD_START (R385): Once DDR, FLASH and a string are up, the preload opens a pass on the preload model. -/
  | preloadStart (plan : Nat)
  /-- CSI_FRAME_START (R401): A frame-start packet begins a frame of a bind and releases the golden job of the in-line frame. -/
  | csiFrameStart (port vc frameNo : Nat)
  /-- CSI_LINE_PACKET (R399): A line packet is checked and stored into the slot or the in-line buffer. -/
  | csiLinePacket (port : Nat) (line : LinePacket)
  /-- CSI_FRAME_END (R401): A frame-end packet ends the frame, and its record is written. -/
  | csiFrameEnd (port vc frameNo : Nat)
  /-- FRAME_END_TIMEOUT (R405): No frame end within fe_timeout_ms; the frame ends TRUNCATED. -/
  | frameEndTimeout (bind : Nat)
  /-- FRAME_RING_DOORBELL (R400): Host writes the frame ring head, releasing slots. -/
  | frameRingDoorbell (func offset width value : Nat)
  /-- PIPELINE_LINE_BOUNDARY (R416): At each line boundary the pipeline takes an in-line line or a memory-pass line. -/
  | pipelineLineBoundary
  /-- MEMORY_PASS_START (R417): The next queued VISION_PASS starts when the memory context is free and CAMERA is on. -/
  | memoryPassStart
  /-- INLINE_OUTPUTS_COMPLETE (R474): The in-line frame's outputs are complete in their windows and the frame jobs are released. -/
  | inlineOutputsComplete
  /-- SAFETY_JOB_END (R474): A frame or golden job ends on a channel; at the last one the verdict is decided. -/
  | safetyJobEnd (job : SafetyJob) (vector : List Nat)
  /-- FRAME_DEADLINE_EXPIRY (R474): The frame deadline passes and the verdict is decided with the late channels. -/
  | frameDeadlineExpiry
  /-- ABSENT_FRAME_TIMEOUT (R478): No frame end within frame_timeout_us counts an absent, invalid frame. -/
  | absentFrameTimeout
  /-- VERDICT_RING_DOORBELL (R486): Host writes the verdict ring head, freeing record entries. -/
  | verdictRingDoorbell (func offset width value : Nat)
  /-- LOCKSTEP_MISMATCH (R468): A lockstep pair mismatch latches the fault state. -/
  | lockstepMismatch (pair : Nat)
  /-- ISLAND_SRAM_DOUBLE_ERROR (R481): A double-bit error in island SRAM latches the fault state. -/
  | islandSramDoubleError (addr : Nat)
  /-- KEASTER_PARITY_ERROR (R481): A weight-register parity error in the Keaster engine latches the fault state. -/
  | keasterParityError
  /-- PARTITION_FORMED (R470): The safety partition is formed when the last foreign slice on its frets has ended. -/
  | partitionFormed
  /-- CAPO_TICK (R447): Every 1 µs, power is estimated and the bubble fractions are updated. -/
  | capoTick (strings : List StringPower) (outsideMw : Nat)
  /-- PGM_BUDGET_TICK (R451): Every 100 µs, pgm_dies_eff is recomputed. -/
  | pgmBudgetTick
  /-- DROOP_CROSSING (R452): A droop detector crosses a level and the string's clocks are stretched. -/
  | droopCrossing (string detector level : Nat)
  /-- DROOP_RECOVERY (R452): 64 cycles after the last detector recovers, the stretch ends. -/
  | droopRecovery (string : Nat)
  /-- DROOP_STUCK (R453): Level 2 asserted for 10 ms; the detector is stuck and its string quarantined. -/
  | droopStuck (string detector : Nat)
  /-- DROOP_SELF_CHECK (R453): Every 100 ms the pegs self-check the droop detectors. -/
  | droopSelfCheck (failed : List (Nat × Nat))
  /-- TEMP_SAMPLE (R455): A sensor reading is compared with the thermal levels and actions are entered. -/
  | tempSample (sensor : Nat) (deciC : Int)
  /-- THERMAL_CAP_STEP (R455): Every 10 ms under THROTTLE, the thermal cap is lowered or restored by 5 W. -/
  | thermalCapStep
  /-- THERMAL_LEVEL_EXIT (R455): A group 5 °C below its level for 10 ms ends the action. -/
  | thermalLevelExit (level : Nat)
  /-- SUPPLY_WARNING_CROSSING (R458): A rail crosses its warning level and a dip starts. -/
  | supplyWarningCrossing (rail mv : Nat)
  /-- SUPPLY_RECOVERED (R458): The rail stays 10 mV above warning for 1 µs; the hold-off starts. -/
  | supplyRecovered (rail mv minMv belowUs : Nat)
  /-- DIP_HOLDOFF_EXPIRY (R459): 50 µs hold-off ends: clamp released, programs resumed. -/
  | dipHoldoffExpiry
  /-- STORM_CAP_END (R461): 1 s with no dip ends the storm cap. -/
  | stormCapEnd
  /-- SUPPLY_RESET_CROSSING (R456): A rail reaches its reset level and the rail's action is taken. -/
  | supplyResetCrossing (rail mv : Nat)
  /-- POWER_GOOD (R434): A rail's power-good input arrives in the regulator phase. -/
  | powerGood (rail : Nat)
  /-- POWER_GOOD_TIMEOUT (R580): No power-good 50 ms after enable; the domain stays in BRINGUP with pg_missing. -/
  | powerGoodTimeout (rail : Nat)
  /-- CLOCK_LOCK (R434): The domain's PLL or divider reports lock. -/
  | clockLock (domain : Nat)
  /-- MEMORY_PHASE_DONE (R434): SRAM initialised or retained banks checked, or memory devices trained. -/
  | memoryPhaseDone (domain : Nat) (found : MemoryPhase)
  /-- LOGIC_PHASE_DONE (R434): Reset released and state restored; the domain is ON. -/
  | logicPhaseDone (domain : Nat) (saveCrcOk : Bool)
  /-- DOMAIN_POWER_DOWN_START (R435): A LEAVING domain has finished its held work and powers down. -/
  | domainPowerDownStart (domain : Nat)
  /-- POWER_DOWN_DONE (R435): Power-down completes and the domain reaches RETENTION or OFF. -/
  | powerDownDone (domain : Nat)
  /-- AUTO_IDLE_EXPIRY (R431): An AUTO domain unwanted for idle_ms leaves ON. -/
  | autoIdleExpiry (domain : Nat)
  /-- DDR_TRAIN_INVALIDATE (R440): PEG_DDR_TRAIN invalidate discards the saved training values. -/
  | ddrTrainInvalidate (func : Nat)
  /-- CLOCK_MONITOR_WINDOW (R576): Each 10 µs window, clock domains are counted against AON_CLK and faults are acted on. -/
  | clockMonitorWindow (off : List Nat)
  /-- AON_RTC_MONITOR_WINDOW (R576): Each 1 ms window, AON_CLK and RTC_CLK are counted against each other. -/
  | aonRtcMonitorWindow (aonOff rtcOff : Bool)
  /-- PLL_LOSS_OF_LOCK (R577): A PLL reports loss of lock, with the result of its clock. -/
  | pllLossOfLock (pll : Pll)
  /-- DEBUG_REQUEST (R512): SEC_DBG_CTRL request issues a 32-byte nonce. -/
  | debugRequest (func value : Nat)
  /-- DEBUG_SUBMIT (R512): SEC_DBG_CTRL submit starts the check of the signed response. -/
  | debugSubmit (func : Nat)
  /-- DEBUG_CHECK_DONE (R512): Signature checked; on success keys are erased, weights zeroed and the part UNLOCKED. -/
  | debugCheckDone
  /-- DEBUG_RESPONSE_TIMEOUT (R512): No response within 60 s returns the state to idle. -/
  | debugResponseTimeout
  /-- JTAG_EXTEST (R511): EXTEST holds the logic die in reset and erases every key slot. -/
  | jtagExtest
  /-- GET_CERTIFICATE (R514): SPDM request returning the slot 0 certificate chain. -/
  | getCertificate (func slot : Nat)
  /-- CHALLENGE (R514): SPDM challenge signed with the identity key. -/
  | challenge (func slot : Nat) (nonce : Bytes)
  /-- GET_MEASUREMENTS (R515): SPDM request returning the measurement blocks. -/
  | getMeasurements (func index : Nat)
  /-- KEY_EXCHANGE (R514): SPDM key exchange opening a secure session. -/
  | keyExchange (func slot : Nat) (exchange : Bytes)
  /-- END_SESSION (R521): Ends an SPDM session; a confidential function leaves confidential mode. -/
  | endSession (func session : Nat)
  /-- CONF_SET (R517): Vendor SPDM request putting a function into confidential mode. -/
  | confSet (func session : Nat) (request : ConfRequest)
  /-- CONF_EXIT (R521): Vendor SPDM request leaving confidential mode. -/
  | confExit (func session : Nat)
  /-- FWU_OPEN (R527): FWU_CTRL open erases the inactive slot and starts loading. -/
  | fwuOpen (func value : Nat)
  /-- FWU_ABORT (R527): FWU_CTRL abort empties the loading or loaded slot. -/
  | fwuAbort (func : Nat)
  /-- FWU_RAISE_SEC (R526): FWU_CTRL raise_sec raises min_sec_ver to the running image's version. -/
  | fwuRaiseSec (func : Nat)
  /-- SLOT_ERASE_DONE (R528): The inactive slot erase ends and waiting FW_WRITE commands proceed. -/
  | slotEraseDone
  /-- HANDOVER_BOOT_CHECK_DONE (R529): The standby core finishes reading and checking the new image. -/
  | handoverBootCheckDone (failed : Option Nat)
  /-- HANDOVER_FIRMWARE_READY (R529): New firmware is ready; the running firmware freezes and the snapshot is taken. -/
  | handoverFirmwareReady
  /-- HANDOVER_TAKEOVER (R529): New firmware restores the snapshot, takes charge and the gap ends. -/
  | handoverTakeover (snapshotCrcOk : Bool)
  /-- HANDOVER_TIMEOUT (R531): No takeover 190 ms after the freeze; the frozen image resumes. -/
  | handoverTimeout
  /-- INSTALL_GRANULE_DURABLE (R538): A granule is programmed and its INSTALL_EXTENT record is durable. -/
  | installGranuleDurable (xfer granule : Nat)
  /-- SUPPLIES_VALID (R579): Supplies become valid and the power-on reset starts a cold start. -/
  | suppliesValid
  /-- RESET_N_ASSERT (R544): RESET_N low for 1 µs starts a warm reset. -/
  | resetNAssert
  /-- RST_CTRL_WARM (R544): A keyed write of warm starts a warm reset. -/
  | rstCtrlWarm (func value : Nat)
  /-- PEG_WATCHDOG_EXPIRY (R544): The peg watchdog is unserviced for 1 s and a warm reset starts. -/
  | pegWatchdogExpiry
  /-- PERST_N_ASSERT (R564): PERST_N asserted starts a port reset and takes the link down. -/
  | perstNAssert (port : Nat)
  /-- PERST_N_RELEASE (R564): PERST_N released brings the port up and releases WAKE_N. -/
  | perstNRelease (port : Nat)
  /-- HOT_RESET (R544): A hot reset or link down of the port causes a port reset. -/
  | hotReset (port : Nat)
  /-- FUNCTION_LEVEL_RESET (R544): A PCIe FLR resets one function's rings, sessions, binds and passes. -/
  | functionLevelReset (func : Nat)
  /-- VF_ENABLE_CHANGE (R552): Clearing VF Enable or lowering NumVFs resets the removed virtual functions. -/
  | vfEnableChange (port : Nat) (enable : Bool) (numVfs : Nat)
  /-- RST_ENGINE_START (R546): RST_ENGINE start begins an engine reset of a fret or string, or is refused. -/
  | rstEngineStart (func value : Nat)
  /-- ENGINE_RESET_DONE (R546): Engine reset zeroes and tests the unit and returns it to service. -/
  | engineResetDone (passed : Bool)
  /-- START_FRET_TEST_DONE (R583): The start-up fret test ends and full function is reached. -/
  | startFretTestDone (failed : List Nat)
  /-- LINK_UP (R549): The link trains to L0 at its speed and width. -/
  | linkUp (port speed width : Nat)
  /-- LINK_RECOVERY (R549): The link enters Recovery and retrains. -/
  | linkRecovery (port : Nat)
  /-- PCIE_CORRECTABLE_ERROR (R560): A correctable link error is logged. -/
  | pcieCorrectableError (port : Nat)
  /-- UNSUPPORTED_REQUEST (R560): A request reaching no BAR or of an unsupported kind is discarded with UR. -/
  | unsupportedRequest (port : Nat)
  /-- POISONED_WRITE (R560): A poisoned or ECRC-failed write to a BAR is discarded. -/
  | poisonedWrite (func bar offset : Nat)
  /-- COMPLETION_ERROR (R560): An errored or timed-out completion for a device read fails the ring or the command. -/
  | completionError (target : ReadTarget) (code : Nat)
  /-- PCIE_FATAL_ERROR (R560): A fatal link or port error causes a port reset. -/
  | pcieFatalError (port : Nat)
  /-- BUS_MASTER_DISABLE (R561): Bus Master Enable cleared; the function's enabled rings enter ERROR. -/
  | busMasterDisable (func : Nat)
  /-- D3HOT_ENTRY (R561): The function enters D3hot; it issues no requests and its rings enter ERROR. -/
  | d3hotEntry (func : Nat)
  /-- ASPM_L1_REQUEST (R562): After 32 µs with nothing to send, the device requests L1. -/
  | aspmL1Request (port : Nat)
  /-- MSIX_UNMASK (R559): Clearing a mask sends the pending MSI-X message. -/
  | msixUnmask (func vector : Nat)
  /-- PTM_DIALOGUE (R568): Every interval_ms, a PTM dialogue records offset and rate. -/
  | ptmDialogue (port : Nat) (hostNs : Option Int)
  /-- HIF_PTM_STAMP_READ (R569): Read of HIF_PTM_STAMP latches offset and rate of the same dialogue. -/
  | hifPtmStampRead (func : Nat)
  /-- BAR4_WINDOW_READ (R554): Host read through BAR4 translated to a device virtual address. -/
  | bar4WindowRead (func offset len : Nat)
  /-- BAR4_WINDOW_WRITE (R554): Host write through BAR4 translated to a device virtual address. -/
  | bar4WindowWrite (func offset : Nat) (data : Bytes)
  /-- MMU_INVAL_PAGE (R284): MMU_INVAL scope 1 invalidates the page holding va. -/
  | mmuInvalPage (func window va : Nat)
  /-- MMU_INVAL_ALL (R284): MMU_INVAL scope 2 invalidates every translation of the function. -/
  | mmuInvalAll (func window : Nat)
  /-- MMU_INVAL_DONE (R284): Cached translations are gone and in-flight transactions landed; busy clears. -/
  | mmuInvalDone (target : Nat)
  /-- ATN_KEY_WRITE (R280): Writing a share group key removes the group's prefix entries. -/
  | atnKeyWrite (func g key : Nat)
  /-- GCORE_INSTRUCTION (R220): A general core issues one instruction of a ready thread: an ordinary load, store or other instruction, refused or faulting under R226 and R227. -/
  | gcoreInstruction (fret core : Nat) (issue : Issue)
  /-- DDR_MIG_CTRL_WRITE (R91): A write to DDR_MIG_CTRL starts or stops the migration engine, and disabling it zeroes the cache region under R510. -/
  | ddrMigCtrlWrite (func value : Nat)
  /-- DDR5_PATROL_SCRUB_DUE (R128): Firmware starts the DDR5 patrol scrub so that every 64-byte line is read, corrected and rewritten once per 24 h. -/
  | ddr5PatrolScrubDue
  /-- POWER_SWITCH_READY (R434): The on-die power switches of a domain report ready and end its regulator phase. -/
  | powerSwitchReady (domain : Nat)
  /-- SUSPEND_DIE_READY (R94): A die given a program or erase suspend becomes ready for reads. -/
  | suspendDieReady (die : Nat)
  /-- CSI_DESKEW (R395): A camera port receives the sensor's initial deskew sequence, sets deskew_done and begins taking data. -/
  | csiDeskew (port : Nat)
  /-- SOT_ERROR (R395): A start-of-transmission error on a camera lane is counted and the lane loses lanes_ok. -/
  | sotError (port lane : Nat)
  /-- CONFIGURATION_REQUEST (R564): A PCIe configuration read or write reaches a function: it completes with retry status until step 3, and it sets power state, Bus Master Enable, MSI-X enable and other capabilities. -/
  | configurationRequest (func : Nat) (write : CfgWrite)
  /-- LINK_L1_EXIT (R441): The host takes the link out of L1.2, which brings the HOST domain out of RETENTION and records wake source 5. -/
  | linkL1Exit (port : Nat)
  /-- AVS_CURRENT_CHECK (R604): Every 10 ms the pegs compare the VDD_CORE current reported over AVSBus with the estimator and scale P. -/
  | avsCurrentCheck (measuredMw : Nat)
  /-- NEGOTIATE_ALGORITHMS (R514): The SPDM responder answers version, capability and algorithm negotiation on the DOE mailbox. -/
  | negotiateAlgorithms (func : Nat)
  /-- KEY_UPDATE (R514): An SPDM KEY_UPDATE request updates the keys of a secure session. -/
  | keyUpdate (func session : Nat)
  /-- HEARTBEAT (R514): An SPDM HEARTBEAT request keeps a secure session alive. -/
  | heartbeat (func session : Nat)
  /-- SESSION_LOSS (R521): A secure session is lost without END_SESSION, as by heartbeat expiry, and a confidential function leaves confidential mode. -/
  | sessionLoss (func session : Nat)
  deriving DecidableEq, Repr

end Sys2Proof
end

