-- ==== Sys2Proof/Config.lean ====
section
/-! DEFINITION. Config.lean: what one part or one image fixes and the manual does not compute: the
free values (constants without a body, so no proof can see what they are) and the named cryptographic
functions of 16_security and 17_firmware_reset, which the manual takes from their standards. -/

namespace Sys2Proof.Config
open Sys2Proof

/-- A free value: the `n`-th value the model draws. Nothing constrains it. (DESIGN CHOICE, log entry 4.) -/
opaque freeNat : Nat → Nat
/-- The `n`-th free byte. (DESIGN CHOICE, log entry 4.) -/
opaque freeByte : Nat → Byte
/-- The `n`-th free integer, used for a rounding error inside the bound a rule states. (DESIGN CHOICE, log entry 5.) -/
opaque freeInt : Nat → Int

/-- One run of bytes of an image: where it stands in the image, whether it is a Ronzer packed stream
(02_memory_tiers R69), its chunks when packed, and its decoded length. -/
structure Extent where
  off : Nat
  packed : Bool
  chunks : Nat
  len : Nat
  deriving DecidableEq, Repr, Inhabited

/-- A tensor of a Guroth model image (02_memory_tiers R55, R65; 05_command_rings R191). -/
structure TensorInfo where
  layer : Nat
  index : Nat
  cls : Nat
  wfmt : Nat
  gsize : Nat
  k : Nat
  n : Nat
  weights : Extent
  scales : Extent
  zeros : Extent
  /-- The default placement: hint, split_mode, ddr_share. -/
  defHint : Nat
  defSplit : Nat
  defShare : Nat
  deriving DecidableEq, Repr, Inhabited

/-- A window unit (02_memory_tiers R60): its layer, the tensors it holds, its decoded bytes, and, when it is a column panel
of one matrix, the first of its output rows and their count. -/
structure UnitInfo where
  layer : Nat
  tensors : List Nat
  bytes : Nat
  panel : Option (Nat × Nat)
  deriving DecidableEq, Repr, Inhabited

/-- What an image's bytes say of it. The manual names these contents (02_memory_tiers, 03_weight_store
R116, 11_listening_wake, 15_functional_safety R495) and gives no byte layout for them (DESIGN CHOICE, log entry 6). -/
structure ImageInfo where
  /-- 0 model, 1 safety image for the frets, 2 safety image for the Keaster engine, 3 verifier. -/
  kind : Nat
  layers : Nat
  tensors : List TensorInfo
  units : List UnitInfo
  /-- Granules the image marks hot (03_weight_store R116). -/
  hotGranules : List Nat
  /-- Verifier threshold as the image states it (11_listening_wake R386). -/
  threshold : Nat
  deriving DecidableEq, Repr, Inhabited

/-- The contents of the image whose manifest digest this is. (DESIGN CHOICE, log entry 6.) -/
opaque imageInfo : Bytes → ImageInfo

/-- The granules that an image installed without an envelope marks hot, by its number: the manual does not say how the device learns
of the marks before the bytes have come (03_weight_store R116; DESIGN CHOICE, log entry 6). -/
opaque hotMarks : Nat → List Nat

/-- What the header of a detector image says (11_listening_wake R372). (DESIGN CHOICE, log entry 7.) -/
structure DetectorInfo where
  valid : Bool
  classes : Nat
  onsetLevel : Nat
  lagMs : Nat
  /-- Multiply-accumulates a frame of a beam needs. -/
  macs : Nat
  deriving DecidableEq, Repr, Inhabited

opaque detectorInfo : Bytes → DetectorInfo

/-! The listening path (11_listening_wake R367, R369 to R371): the manual gives figures of these filters and no coefficients (DESIGN
CHOICE, log entry 73). -/

/-- A microphone's 256 kHz sample before its saturation, from the newest bits of its line, newest first, at 6 or 12 bits a sample. -/
opaque pdmDecimate : (ratio : Nat) → (bits : List Bool) → Int
/-- A microphone's 48 kHz sample before its saturation, from the newest bits of its line, newest first. -/
opaque pdmWide : (bits : List Bool) → Int
/-- A 16 kHz sample of a beam before its saturation, from its newest 256 kHz sums in Q1.14, newest first. -/
opaque decimate : List Int → Int
/-- A sum of gains times samples that 32 bits do not hold. -/
opaque beamOverflow : Int → Int
/-- The log2 energy of 10 ms of the vibration channel from 100 Hz to 800 Hz, relative to full scale, in units of 1/256. -/
opaque vibEnergy : (samples : List Int) → Int
/-- The log2 energy of a mel band of 400 samples, newest first, in units of 1/256, before its floor. -/
opaque melBand : (samples : List Int) → (band : Nat) → Int

/-- The IR plane's value at a pixel of a frame whose mosaic has no IR sites: the settings block, x and y. The manual gives
the output and no value for it (12_camera_pipeline R408, R411; DESIGN CHOICE, log entry 4). -/
opaque noIrPlane : (block : Bytes) → (x y : Nat) → Nat

/-! Cryptographic functions, named by their standards (16_security R499 to R520). -/

opaque sha512 : Bytes → Bytes
opaque hkdf : (ikm salt info : Bytes) → Bytes
opaque hkdfExpand : (secret label : Bytes) → Bytes
opaque hmac512 : (key msg : Bytes) → Bytes
opaque keyWrap : (kek key : Bytes) → Bytes
opaque keyUnwrap : (kek wrapped : Bytes) → Option Bytes
opaque oaepDecrypt : (privateKey label cipher : Bytes) → Option Bytes
opaque xtsDecrypt : (key1 key2 : Bytes) → (unit : Nat) → (cipher : Bytes) → Bytes
opaque gcmSeal : (key iv aad plain : Bytes) → Bytes
opaque gcmTag : (key iv aad plain : Bytes) → Bytes
opaque gcmOpen : (key iv aad cipher tag : Bytes) → Option Bytes
opaque pssVerify : (modulus msg sig : Bytes) → Bool
opaque pssSign : (privateKey msg : Bytes) → (salt : Bytes) → Bytes
opaque ecdhShared : (own peer : Bytes) → Bytes
opaque ecdhPublic : (own : Bytes) → Bytes

/-! What manufacture put into the part (16_security R499, R500; 17_firmware_reset R524). (DESIGN CHOICE, log entry 8.) -/

opaque duk : Bytes
opaque identityPrivate : Bytes
opaque certChain : Bytes
opaque firmwareKey : Bytes
opaque firmwareSignDigest : Bytes
opaque debugKeyDigest : Bytes
opaque bootRomDigest : Bytes
opaque fuseDigest : Bytes

end Sys2Proof.Config
end

