-- ==== Sys2Proof/Machine/Bits.lean ====
section
/-! DEFINITION. Machine/Bits.lean: sparse tables, bit fields, byte order, checksums and the small
list helpers that every block uses. Everything here is a plain structural function. -/

namespace Sys2Proof.Machine
open Sys2Proof

/-! Sparse tables: keys strictly rising, no entry equal to the default. -/

/-- The value held for key `k`; `d` where no entry is listed. -/
def smGet {α : Type} (d : α) : SMap α → Nat → α
  | [], _ => d
  | (j, v) :: m, k => if j = k then v else smGet d m k

/-- Put `v` at key `k`, keeping the keys strictly rising; used only for a value other than the default. -/
def smPut {α : Type} (k : Nat) (v : α) : SMap α → SMap α
  | [] => [(k, v)]
  | (j, w) :: m => if j < k then (j, w) :: smPut k v m else if j = k then (k, v) :: m else (k, v) :: (j, w) :: m

/-- Remove key `k`. -/
def smDel {α : Type} (k : Nat) : SMap α → SMap α
  | [] => []
  | (j, w) :: m => if j = k then m else (j, w) :: smDel k m

/-- Set key `k` to `v`: the default value is stored by removing the entry, so equal tables are equal lists. -/
def smSet {α : Type} [DecidableEq α] (d : α) (k : Nat) (v : α) (m : SMap α) : SMap α :=
  if v = d then smDel k m else smPut k v m

/-- Apply `f` to the value at `k`. -/
def smMod {α : Type} [DecidableEq α] (d : α) (k : Nat) (f : α → α) (m : SMap α) : SMap α :=
  smSet d k (f (smGet d m k)) m

/-- Every key of the table above `lo`, and strictly rising. -/
def smRising {α : Type} : Nat → SMap α → Bool
  | _, [] => true
  | lo, (j, _) :: m => decide (lo ≤ j) && smRising (j + 1) m

/-- The canonical form of a table with default `d`. -/
def smWf {α : Type} [DecidableEq α] (d : α) (m : SMap α) : Bool :=
  smRising 0 m && m.all (fun p => decide (p.2 ≠ d))

/-- The entry of an option table. -/
def smFind {α : Type} (m : SMap α) (k : Nat) : Option α :=
  match m with
  | [] => none
  | (j, v) :: m => if j = k then some v else smFind m k

/-- Replace element `i` of a list (nothing happens past its end). -/
def setAt {α : Type} (i : Nat) (v : α) (l : List α) : List α := l.set i v

/-- Apply `f` to element `i` of a list. -/
def modAt {α : Type} (i : Nat) (f : α → α) : List α → List α
  | [] => []
  | x :: xs => match i with
    | 0 => f x :: xs
    | n + 1 => x :: modAt n f xs

/-- Element `i` of a list, or `d`. -/
def getD {α : Type} (d : α) (l : List α) (i : Nat) : α := l.getD i d

/-! Bit fields. -/

/-- Bits [hi:lo] of `v`. -/
def bf (v hi lo : Nat) : Nat := (v >>> lo) % 2 ^ (hi + 1 - lo)

/-- Bit `i` of `v`. -/
def bit (v i : Nat) : Bool := v.testBit i

/-- `x` placed at bit `lo`. -/
def at' (x lo : Nat) : Nat := x <<< lo

/-- A Bool as a bit. -/
def b2n (b : Bool) : Nat := if b then 1 else 0

/-- Bits of `v` cleared where `m` has a 1, within `w` bits (the W1C rule, 00_scope R15). -/
def clearBits (v m : Nat) : Nat := v ^^^ (v &&& m)

/-- Number of 1 bits among the low `n` bits. -/
def popcount (n v : Nat) : Nat := ((List.range n).filter (fun i => v.testBit i)).length

/-- Set or clear bit `i`. -/
def putBit (v i : Nat) (b : Bool) : Nat :=
  if b then v ||| 1 <<< i else clearBits v (1 <<< i)

/-- The two's complement value of the low `w` bits of `v`. -/
def toSigned (w v : Nat) : Int :=
  let u := v % 2 ^ w
  if w = 0 then 0 else if u < 2 ^ (w - 1) then (u : Int) else (u : Int) - (2 ^ w : Nat)

/-- The low `w` bits of an integer. -/
def ofSigned (w : Nat) (x : Int) : Nat := (x % (2 ^ w : Nat)).toNat

/-- Saturating addition below `2 ^ w`. -/
def satAdd (w v n : Nat) : Nat := min (v + n) (2 ^ w - 1)

/-- Wrapping addition in `w` bits. -/
def wrapAdd (w v n : Nat) : Nat := (v + n) % 2 ^ w

/-- Division rounding up. -/
def ceilDiv (a b : Nat) : Nat := (a + b - 1) / b

/-- `x` limited to `lo … hi`. -/
def clampInt (lo hi x : Int) : Int := max lo (min hi x)

/-- 64-bit rotation to the left (07_attention_kv R274). -/
def rotl64 (x n : Nat) : Nat :=
  let y := x % 2 ^ 64
  ((y <<< n) ||| (y >>> (64 - n))) % 2 ^ 64

/-! Bytes, little-endian (00_scope R7). -/

/-- The little-endian value of a byte string. -/
def leNat : Bytes → Nat
  | [] => 0
  | b :: bs => b.toNat + 256 * leNat bs

/-- `n` little-endian bytes of `v`. -/
def leBytes : Nat → Nat → Bytes
  | 0, _ => []
  | n + 1, v => BitVec.ofNat 8 v :: leBytes n (v / 256)

/-- The big-endian value of a byte string. -/
def beNat (bs : Bytes) : Nat := bs.foldl (fun a b => a * 256 + b.toNat) 0

/-- `n` big-endian bytes of `v`. -/
def beBytes (n v : Nat) : Bytes := (leBytes n v).reverse

/-- Byte `i` of a string; 0 past its end. -/
def byteAt (bs : Bytes) (i : Nat) : Nat := (bs.getD i 0).toNat

/-- The `len` bytes from `off`. -/
def slice (bs : Bytes) (off len : Nat) : Bytes := (bs.drop off).take len

/-- The little-endian field of `len` bytes at `off`. -/
def leAt (bs : Bytes) (off len : Nat) : Nat := leNat (slice bs off len)

/-- Every byte of `len` bytes at `off` is 0. -/
def zeroAt (bs : Bytes) (off len : Nat) : Bool := (slice bs off len).all (fun b => decide (b = 0))

/-- `n` zero bytes. -/
def zeros (n : Nat) : Bytes := List.replicate n 0

/-- A byte string cut or padded with zeros to `n` bytes. -/
def padTo (n : Nat) (bs : Bytes) : Bytes := (bs ++ zeros (n - bs.length)).take n

/-- Cut a list into pieces of `n` elements (the last may be shorter); `fuel` bounds their number. -/
def chunksOf {α : Type} (n : Nat) : Nat → List α → List (List α)
  | 0, _ => []
  | fuel + 1, l => if l.isEmpty then [] else l.take n :: chunksOf n fuel (l.drop n)

/-! Checksums. -/

/-- One bit of the CRC-32 of 03_weight_store R101: reflected, polynomial 0x04C1_1DB7. -/
def crc32Bit : Nat → Nat → Nat
  | 0, c => c
  | n + 1, c => crc32Bit n (if c % 2 = 1 then (c / 2) ^^^ 0xEDB88320 else c / 2)

/-- CRC-32 with the parameters of 03_weight_store R101. -/
def crc32 (bs : Bytes) : Nat :=
  (bs.foldl (fun c b => crc32Bit 8 (c ^^^ b.toNat)) 0xFFFFFFFF) ^^^ 0xFFFFFFFF

/-- One bit of the CRC-16 of 02_memory_tiers R69: polynomial 0x1021, no reflection. -/
def crc16Bit : Nat → Nat → Nat
  | 0, c => c
  | n + 1, c => crc16Bit n (if c < 32768 then c * 2 else ((c * 2) ^^^ 0x1021) % 65536)

/-- CRC-16 with initial value 0xFFFF (02_memory_tiers R69). -/
def crc16 (bs : Bytes) : Nat :=
  bs.foldl (fun c b => crc16Bit 8 (c ^^^ (b.toNat * 256))) 0xFFFF

/-! List helpers. -/

/-- Bits of a mask as a list of positions below `n`. -/
def maskBits (n v : Nat) : List Nat := (List.range n).filter (fun i => v.testBit i)

/-- The mask of a list of positions. -/
def ofBits (l : List Nat) : Nat := l.foldl (fun a i => a ||| 1 <<< i) 0

/-- Insert into a rising list without repeats. -/
def insertN (x : Nat) : List Nat → List Nat
  | [] => [x]
  | y :: ys => if x < y then x :: y :: ys else if x = y then y :: ys else y :: insertN x ys

/-- The smallest element, or `d`. -/
def minD (d : Nat) (l : List Nat) : Nat := l.foldl min d

/-- The first element of greatest key. -/
def argMax {α : Type} (key : α → Int) : List α → Option α
  | [] => none
  | x :: xs => match argMax key xs with
    | none => some x
    | some y => if key y > key x then some y else some x

end Sys2Proof.Machine
end

