-- ==== Sys2Proof/Machine/State.lean ====
section
/-! DEFINITION. Machine/State.lean: everything the manual gives the block, as plain data, block by block in
the manual's order; the faults and refusals of a step; and `State.reset`, the part held in power-on reset
before its supplies become valid (19_clocks_startup R579). Each field's rule and reset value is listed in
INVENTORY.md; a value the manual does not give is named in the log entry INVENTORY.md cites. -/

namespace Sys2Proof.Machine
open Sys2Proof

/-- Faults of a step. -/
inductive Fault where
  /-- A command names a fret, string, port, rail, sensor or other physical unit that the part does not have:
  no such event exists. Raised by every row that takes a unit's number, through `unit`. Safe: the hardware
  cannot receive such an event, so no run of it is lost. -/
  | noSuchUnit
  deriving DecidableEq, Repr

/-- Refusals of a step. -/
inductive Refusal where
  /-- The command has no meaning in this model yet; raised by its arm of `exec`. Safe. -/
  | notModelled (mnemonic : String)
  deriving DecidableEq, Repr

/-! ## Memory (01_architecture R43, 02_memory_tiers R49) -/

/-- A memory the block reads and writes by address: the host memory behind port A, the one behind port B,
and the device's own physical space (DDR5, fret SRAM and string buffers). -/
inductive Space where
  | hostA | hostB | dev
  deriving DecidableEq, Repr

/-- A run of bytes bound for one place. -/
structure Seg where
  space : Space
  addr : Nat
  data : Bytes
  /-- The confidential function whose sealed bounce window it lies in; `addr` is then its device virtual
  address (16_security R517). -/
  sealed : Option Nat := none
  /-- The page of the function's table that translated it: its base and its size (07_attention_kv R284). -/
  via : Option (Nat × Nat) := none
  deriving DecidableEq, Repr

/-- The three memories, each a canonical list of cells: an unlisted address reads 0 (DESIGN CHOICE, log entry 2). -/
structure Mem where
  hostA : List Host.Cell := []
  hostB : List Host.Cell := []
  dev : List Host.Cell := []
  deriving DecidableEq, Repr

/-! ## Rings and commands (05_command_rings) -/

/-- Ring states (R182). -/
inductive RingState where
  | disabled | active | draining | aborting | stopped | error
  deriving DecidableEq, Repr

/-- One ring: its configuration window, its indices and its interrupt count (R172 to R185, HIF_RING_*). -/
structure Ring where
  base : Nat := 0
  cqId : Nat := 0
  trace : Bool := false
  cls : Nat := 0
  sizeLog2 : Nat := 4
  typ : Nat := 0
  shadow : Nat := 0
  coalUs : Nat := 0
  coalCount : Nat := 0
  irqEn : Bool := false
  vector : Nat := 0
  state : RingState := .disabled
  err : Nat := 0
  /-- Fetch index of a submission ring, write index of the others. -/
  index : Nat := 0
  /-- The last value written to the doorbell. -/
  doorbell : Nat := 0
  /-- Tail of a submission ring, head of the others: the last index a doorbell gave since ENABLE. -/
  hostIndex : Nat := 0
  phase : Bool := true
  /-- Commands accepted and not completed. -/
  outstanding : Nat := 0
  /-- Entries of a completion ring reserved for accepted commands. -/
  reserved : Nat := 0
  /-- Entries written since the last interrupt. -/
  sinceIrq : Nat := 0
  /-- Acceptances since the last head-shadow write. -/
  sinceShadow : Nat := 0
  /-- Sealed entries that passed through the ring in the confidential session (16_security R518). -/
  sealN : Nat := 0
  deriving DecidableEq, Repr

/-- Where an accepted command stands. -/
inductive Phase where
  /-- Waits for the commands its fence or its barrier names (R207). -/
  | held
  /-- May run; its row has not run it yet. -/
  | ready
  /-- Runs; slices or other steps are outstanding. -/
  | running
  /-- Every step that can fail has passed: it may commit. -/
  | done
  /-- It has failed with this status and result; its completion is to be written. -/
  | failed (status result : Nat)
  deriving DecidableEq, Repr

/-- A slice of a command that waits to run, or to run again (01_architecture R27, R28; 10_scheduling_sharing R350, R354):
its next segment, and the frets that faulted on it. -/
structure Retry where
  idx : Nat
  seg : Nat := 0
  attempts : Nat
  kills : Nat
  tried : List Nat
  lastSram : Bool
  deriving DecidableEq, Repr

/-- A lane of a cell of the matrix array (04_fret_arithmetic R132): its FP32 accumulator, its 24-bit partial sum, and the latches of the
weight scale, the weight zero point, the activation scale and the activation zero point. -/
structure Lane where
  acc : Nat := 0
  part : Nat := 0
  wscale : Nat := 0
  wzero : Nat := 0
  ascale : Nat := 0
  azero : Nat := 0
  deriving DecidableEq, Repr

/-- What a slice leaves in the array of one fret: its lanes, by (row × 128 + column) × 4 + lane, and the compensation registers of its
cells, by row × 128 + column. -/
structure ArrayEnd where
  lanes : List (Nat × Lane) := []
  rems : List (Nat × Nat) := []
  deriving DecidableEq, Repr

/-- A stage of a row block of a fused group (06_streaming_and_fusion R236, R237): its tiles, its array time, the frets it
must have (0: by proportion), what it hands to the next stage, and what it leaves in its frets' arrays and work areas. -/
structure StagePlan where
  tiles : Nat
  cost : Nat
  must : Nat := 0
  data : List (BitVec 8) := []
  array : List ArrayEnd := []
  area : List (BitVec 8) := []
  deriving DecidableEq, Repr

/-- Output rows of a named tensor that a slice consumes: its model, its layer and number there, the first row, how many, and of how
many (01_architecture R33; 02_memory_tiers R66). -/
structure Need where
  handle : Nat
  layer : Nat
  tensor : Nat
  first : Nat
  count : Nat
  rows : Nat
  deriving DecidableEq, Repr

/-- A slice of a command (10_scheduling_sharing R349). -/
structure Work where
  /-- The column panel it belongs to: its row tiles go to frets of one string (06_streaming_and_fusion R218). -/
  panel : Nat := 0
  /-- The tile, counted from 1, of whose split reduction it is a part; 0 for a whole tile (04_fret_arithmetic R164). -/
  tile : Nat := 0
  /-- What the device saves where a segment ends behind each of its steps: rescale intervals, KV tiles, or steps of a sequence (R350;
  08_sequence_state R297). -/
  ends : List (List Nat) := [[]]
  /-- Array cycles of a step; 0: it is not cut. -/
  step : Nat := 0
  /-- What its frets' arrays hold behind each step, fret by fret (04_fret_arithmetic R132; 08_sequence_state R295, R300). -/
  array : List (List ArrayEnd) := []
  /-- What each of its frets holds at the start of its work area behind each step (08_sequence_state R296). -/
  area : List Bytes := []
  /-- Its state and its weights stay on its frets from one segment to the next (08_sequence_state R294, R297). -/
  stays : Bool := false
  /-- It runs on the gate edge alone, beside the array; or on the array and the gate edge (09_image_operators R332, R333). -/
  edge : Bool := false
  usesEdge : Bool := false
  /-- What stays of it in staging space until its command ends (08_sequence_state R304). -/
  keeps : List Nat := []
  /-- Bytes of weights, scales and zero points that the fret DMA moves for it (06_streaming_and_fusion R216). -/
  bytes : Nat := 0
  /-- The rows of named tensors that it consumes; `whole`: all of them, as a row block of a group does. -/
  needs : List Need := []
  whole : Bool := false
  /-- Frets it needs, and how many it takes when they are free (R351). -/
  frets : Nat := 1
  upTo : Nat := 1
  plan : List StagePlan := []
  deriving DecidableEq, Repr

/-- A session that a command reads or writes: its ID, the layer (`none`: every layer), whether the command writes
KV there, and the layer's fill at the command's acceptance (07_attention_kv R254, R265). -/
structure Use where
  session : Nat
  layer : Option Nat
  write : Bool
  fill : Nat
  deriving DecidableEq, Repr

/-- A placement entry (R55). -/
structure PlaceEntry where
  hint : Nat
  split : Nat
  share : Nat
  mask : Nat
  first : Nat
  last : Nat
  deriving DecidableEq, Repr

/-- A function's placement of a model handle, and its hot entry there: none while it has none (02_memory_tiers R57, R614). -/
structure Placed where
  handle : Nat
  version : Nat := 0
  entries : Option (List PlaceEntry) := none
  hot : Option Nat := none
  deriving DecidableEq, Repr

/-- What a command bound at acceptance (02_memory_tiers R57, R86; 05_command_rings R211; 07_attention_kv R265). -/
structure Bound where
  /-- Installed version of its model. -/
  version : Nat := 0
  uses : List Use := []
  /-- The sessions of its function at its acceptance, with their layer fills (07_attention_kv R265). -/
  fills : List (Nat × List Nat) := []
  /-- The tensors it names, by layer and index, when it uses its model's weights. -/
  tensors : List (Nat × Nat) := []
  usesWeights : Bool := false
  /-- The placement of each handle it names. -/
  places : List Placed := []
  deriving DecidableEq, Repr

/-- An accepted command (R176, R192, R204). -/
structure Cmd where
  id : Nat
  ring : Nat
  func : Nat
  /-- The bound completion ring, which holds an entry reserved. -/
  cq : Nat
  /-- True when it came from a Safety ring: it runs in domain 33 (R169). -/
  safety : Bool := false
  trace : Bool := false
  desc : Bytes := []
  params : Bytes := []
  table : List Nat := []
  stages : List Bytes := []
  stageTables : List (List Nat) := []
  stageParams : List Bytes := []
  prio : Nat := 0
  bound : Bound := {}
  phase : Phase := .ready
  /-- Commands this one waits for (R207). -/
  waits : List Nat := []
  accepted : Nat := 0
  /-- Results held in staging space (R204). -/
  staged : List Seg := []
  result : Nat := 0
  /-- The command's own numbers fixed while it ran (transfer id, pages, blocks entered). -/
  aux : List Nat := []
  /-- Its slices, in order; how many have been dispatched for the first time, and how many have ended. -/
  work : List Work := []
  slicesNext : Nat := 0
  slicesDone : Nat := 0
  retries : List Retry := []
  /-- Slices from each of these on start only when all before have ended (06_streaming_and_fusion R238, R241). -/
  barriers : List Nat := []
  /-- What a slice's last finished segment saved, by slice (10_scheduling_sharing R350; 08_sequence_state R297). -/
  saved : List (Nat × List Nat) := []
  /-- Intermediates of a group held in the device-reserved region (06_streaming_and_fusion R238, R241). -/
  inter : List Bytes := []
  /-- The window units that it consumes, in order: pass and unit. -/
  units : List (Nat × Nat) := []
  /-- The tensors that it streams: handle, layer and number. -/
  streams : List (Nat × Nat × Nat) := []
  /-- Where work that keeps together runs: the frets of a row tile of RECURRENT by its slice, a fret of the string of the parts of a tile
  by 2^32 + tile, and one of a group's string by 2^33 (04_fret_arithmetic R164; 06_streaming_and_fusion R236; 08_sequence_state R297). -/
  homes : SMap (List Nat) := []
  /-- The hot entry its slices need. -/
  hot : Option Nat := none
  deriving DecidableEq, Repr

/-- A function's own ring registers (HIF_VERSION, HIF_FUNC_RINGS_n, HIF_RING_SEL). -/
structure HifFunc where
  /-- `host_max`; `active` follows from it (R170, `activeVersion`). -/
  hostMax : Nat := 0
  base : Nat := 0
  count : Nat := 0
  sel : Nat := 0
  /-- Event records dropped and not yet reported (R203). -/
  dropped : Nat := 0
  deriving DecidableEq, Repr

/-- What the part reports of itself (HIF_ID; 00_scope R3; 16_security SEC_SERIAL). -/
structure Ident where
  /-- 0 ZH4820-S, 1 ZH4820-M, 2 ZH4820-L. -/
  variant : Nat := 2
  stepping : Nat := 0
  serial : Nat := 0
  fwMajor : Nat := 0
  fwMinor : Nat := 0
  fwBuild : Nat := 0
  deriving DecidableEq, Repr

structure Hif where
  funcs : List HifFunc
  rings : SMap Ring := []
  cmds : List Cmd := []
  nextId : Nat := 0
  deriving DecidableEq, Repr

/-- An MSI-X vector of a function (18_host_ports R559). -/
structure Vector where
  addr : Nat := 0
  data : Nat := 0
  masked : Bool := true
  pending : Bool := false
  deriving DecidableEq, Repr

/-- An MSI-X message sent: function, vector, message address and data. -/
structure Msg where
  func : Nat
  vector : Nat
  addr : Nat
  data : Nat
  deriving DecidableEq, Repr

structure Irq where
  /-- Vectors, indexed function × 2,048 + vector. -/
  vecs : SMap Vector := []
  /-- Messages sent since reset, newest first (DESIGN CHOICE, log entry 9). -/
  sent : List Msg := []
  deriving DecidableEq, Repr

/-! ## The MMU and the KV cache (07_attention_kv) -/

/-- A function's MMU registers (R285). -/
structure Mmu where
  root : Nat := 0
  enable : Bool := false
  busy : Bool := false
  /-- Commands that held translated writes when an invalidation was written (R284). -/
  inFlight : List Nat := []
  faultVa : Nat := 0
  faultRing : Nat := 0
  faultCause : Nat := 0
  faultLevel : Nat := 0
  faultWrite : Bool := false
  faultValid : Bool := false
  poolBase : Nat := 0
  poolPages : Nat := 0
  deriving DecidableEq, Repr

/-- A page of the KV aperture: the pool page that backs it and whether it is mapped shared (R279). -/
structure KvPage where
  page : Nat
  shared : Bool
  deriving DecidableEq, Repr

/-- A session entry (R247 to R251). -/
structure Session where
  func : Nat
  sid : Nat
  handle : Nat
  version : Nat
  kvBase : Nat
  maxLen : Nat
  layers : Nat
  kvHeads : Nat
  headDim : Nat
  kvFmt : Nat
  fills : List Nat
  /-- The number of the SESSION_OPEN that made it. -/
  opened : Nat := 0
  closing : Bool := false
  /-- Its version was released (02_memory_tiers R87). -/
  released : Bool := false
  deriving DecidableEq, Repr

/-- An entry of the prefix table (R276). -/
structure PrefixEntry where
  set : Nat
  hash : Nat
  group : Nat
  handle : Nat
  version : Nat
  layers : Nat
  kvHeads : Nat
  headDim : Nat
  kvFmt : Nat
  tokens : List Nat
  pages : List Nat
  pin : Bool
  publisher : Nat
  /-- The order of its last hit (R277: least recently hit). -/
  lastHit : Nat
  deriving DecidableEq, Repr

structure Atn where
  sessions : List Session := []
  /-- KV aperture maps: function × 2^48 + page number of the aperture. -/
  aperture : SMap (Option KvPage) := []
  /-- The function that took each pool page in use, plus 1; keyed by physical page. -/
  pageOwner : SMap Nat := []
  prefixes : List PrefixEntry := []
  /-- Share group field of each function. -/
  groups : List Nat
  /-- Hash key of each of the 16 share groups. -/
  keys : List Nat
  hits : List Nat := [0, 0]
  misses : List Nat := [0, 0]
  evictions : List Nat := [0, 0]
  clock : Nat := 0
  deriving DecidableEq, Repr

/-! ## Frets, strings and the bow (01_architecture, 10_scheduling_sharing) -/

/-- The input ring of a consuming fret: the credits taken, the tile that the fret runs now, and the pieces which that tile has taken. -/
structure InRing where
  fret : Nat
  held : Nat := 0
  tile : Nat := 0
  taken : Nat := 0
  deriving DecidableEq, Repr

/-- A hand-over from one stage of a row block to the next (06_streaming_and_fusion R237): the 4 KiB pieces of the producer's output, those
written so far, the tiles that each consuming fret runs on the row block, and the fret's rings. -/
structure HandOver where
  data : Bytes
  sent : Nat := 0
  tiles : Nat
  rings : List InRing
  deriving DecidableEq, Repr

/-- A slice running on a fret, or on several together. -/
structure Run where
  cmd : Nat
  idx : Nat
  /-- The steps done before this segment, and the step behind which it ends. -/
  seg : Nat := 0
  till : Nat := 1
  start : Nat
  attempts : Nat
  kills : Nat
  tried : List Nat
  frets : List Nat
  /-- Of a fused group: the frets of each stage, and the hand-overs between them. -/
  stages : List (List Nat) := []
  hands : List HandOver := []
  deriving DecidableEq, Repr

/-- A window piece in W0 or W1 (06_streaming_and_fusion R216): the slice and its piece, the piece's bytes, those that the
fret DMA has moved and those that the array has taken. -/
structure Win where
  cmd : Nat
  idx : Nat
  piece : Nat
  size : Nat
  filled : Nat := 0
  taken : Nat := 0
  deriving DecidableEq, Repr

structure Fret where
  quarantined : Bool := false
  /-- Fret faults since the last power-on or warm reset (R30). -/
  faults : Nat := 0
  lastFault : Option Nat := none
  corrected : Nat := 0
  run : Option Run := none
  /-- The slice of POOL that runs on its gate edge (09_image_operators R333). -/
  edge : Option Run := none
  /-- The pass whose unit it last served (06_streaming_and_fusion R233). -/
  lastPass : Option Nat := none
  /-- W0 and W1, the pieces of the running slice begun so far, and the slice queued behind it (06_streaming_and_fusion R216,
  R217). -/
  win : List (Option Win) := [none, none]
  begun : Nat := 0
  queued : Option (Nat × Retry) := none
  /-- The lanes of the array's 16,384 cells, and the cells' compensation registers, as the last slice left them (04_fret_arithmetic R132):
  one that is not listed holds 0, as at reset (DESIGN CHOICE, log entry 74). -/
  lanes : SMap Lane := []
  rems : SMap Nat := []
  /-- Out of service for an engine reset or a failed start-up test. -/
  held : Bool := false
  deriving DecidableEq, Repr

structure StringSt where
  quarantined : Bool := false
  cause : Nat := 0
  lastBufError : Option Nat := none
  corrected : Nat := 0
  held : Bool := false
  deriving DecidableEq, Repr

/-- BOW_QUOTA_n of one function (R338). -/
structure Quota where
  ddrMib : Nat := 0
  hotMib : Nat := 0
  sessions : Nat := 0
  maxPrio : Nat := 7
  weight : Nat := 16
  minFrets : Nat := 0
  deriving DecidableEq, Repr

/-- A hot entry (R358). -/
structure HotEntry where
  id : Nat
  handle : Nat
  version : Nat
  func : Nat
  /-- Bytes of its SRAM_HOT tensors. -/
  bytes : Nat
  /-- The fret SRAM banks held on each string, one bit each; all 0 while it holds none. -/
  banks : List Nat
  loaded : Bool
  switching : Bool
  lastUse : Nat
  /-- Made by this MODEL_PLACE, which has not committed. -/
  staged : Option Nat := none
  /-- Its placement was replaced, or its version: it serves only commands bound to it. -/
  old : Bool := false
  /-- An old entry stays for commands accepted before this ID. -/
  keep : Nat := 0
  /-- Its backing copy in the copy area. -/
  backing : Nat
  deriving DecidableEq, Repr

/-- A BOW_HOT_PIN_n. -/
structure HotPin where
  valid : Bool := false
  model : Nat := 0
  deriving DecidableEq, Repr

structure Bow where
  frets : List Fret
  strings : List StringSt
  sliceUs : Nat := 250
  graceUs : Nat := 20
  levels : Nat := 0xC0
  prop : List Nat := [8, 8]
  k : Nat := 8
  blocked : Bool := false
  policy : Nat := 0
  hotBanks : Nat := 4
  hotBanksNext : Option Nat := none
  hot : List HotEntry := []
  nextHot : Nat := 0
  pins : List HotPin
  switches : Nat := 0
  hits : Nat := 0
  lostUs : Nat := 0
  kills : Nat := 0
  quotas : List Quota
  /-- Virtual times in units of 1/`wfsScale` array cycles: level × 2 + port, level × 16 + function (R347). -/
  vport : List Nat
  vfunc : List Nat
  deriving DecidableEq, Repr

/-! ## Placement, streaming and migration (02_memory_tiers, 06_streaming_and_fusion) -/

/-- A function's placement of a handle (R614). -/
structure Placement where
  func : Nat
  handle : Nat
  version : Nat
  entries : List PlaceEntry
  deriving DecidableEq, Repr

/-- A DDR5 copy of weights or a hot entry's backing copy (R509), with the range it takes. -/
structure WCopy where
  func : Nat
  handle : Nat
  version : Nat
  layer : Nat
  tensor : Nat
  hot : Bool
  addr : Nat
  len : Nat
  /-- Made by this MODEL_PLACE, which has not committed. -/
  staged : Option Nat := none
  /-- Of an earlier placement, release or version: kept until the last command that uses it completes. -/
  old : Bool := false
  /-- An old copy stays for commands accepted before this ID. -/
  keep : Nat := 0
  deriving DecidableEq, Repr

/-- A member of a pass (R229). -/
structure Member where
  cmd : Nat
  func : Nat
  session : Nat
  first : Nat
  last : Nat
  mask : Nat
  look : Nat
  prio : Nat
  deriving DecidableEq, Repr

/-- A window unit of a pass. -/
structure PassUnit where
  layer : Nat
  tensors : List Nat
  /-- A column panel of one matrix: its first output row and their count (R65). -/
  panel : Option (Nat × Nat) := none
  bytes : Nat
  ddrBytes : Nat
  /-- Of each of its tensors, the bytes, and the fraction that comes from DDR5 (R64, R65). -/
  parts : List (Nat × Nat × Nat) := []
  issued : Option Nat := none
  ddrDone : Bool := false
  storeDone : Bool := false
  released : Bool := false
  /-- The part of each string, in bytes, fixed at the issue (R60), and the runs of its buffer that hold it: offset, length. -/
  shares : List Nat := []
  ranges : List (List (Nat × Nat)) := []
  /-- What its fetch takes from each tier, and the migration slots that it reads, fixed at the issue (R68, R79). -/
  fromDdr : Bool := false
  fromStore : Bool := false
  slots : List Nat := []
  deriving DecidableEq, Repr

/-- A 4 KiB line of a string buffer being refetched (01_architecture R34): its string, its line, the pass and unit it belongs
to, the tier it comes from, and when the refetch was issued. -/
structure Refetch where
  string : Nat
  line : Nat
  pass : Nat
  unit : Nat
  fromStore : Bool
  issued : Nat
  deriving DecidableEq, Repr

structure Pass where
  id : Nat
  /-- The command that opened it: passes are ordered by acceptance (06_streaming_and_fusion R232). -/
  opener : Nat
  func : Nat
  handle : Nat
  version : Nat
  budgetUs : Nat
  mask : Nat
  first : Nat
  last : Nat
  safety : Bool
  active : Bool
  members : List Member
  units : List PassUnit
  /-- Tensors used so far: member function × 65,536 + session, unit, tensor (R230). -/
  used : List (Nat × Nat × Nat)
  /-- Units before one that an accepted operator consumes: owner and unit (R230). -/
  past : List (Nat × Nat) := []
  deriving DecidableEq, Repr

/-- A slot of the migration cache (R78 to R80). -/
structure MigSlot where
  region : Nat
  valid : Bool
  pinned : Bool
  draining : Bool
  deriving DecidableEq, Repr

structure Mig where
  bwLimit : Nat := 0x0A
  threshold : Nat := 0x20
  epoch : Nat := 7
  enable : Bool := false
  base : Nat := 0
  size : Nat := 0
  owner : Nat := 0
  counters : SMap Nat := []
  lastRead : SMap Nat := []
  slots : SMap (Option MigSlot) := []
  evictions : Nat := 0
  promotions : Nat := 0
  storeReads : Nat := 0
  cacheReads : Nat := 0
  deriving DecidableEq, Repr

structure Stream where
  passes : List Pass := []
  nextPass : Nat := 0
  placements : List Placement := []
  copies : List WCopy := []
  /-- Window lines being refetched (01_architecture R34). -/
  refetch : List Refetch := []
  ddrCorrected : Nat := 0
  ddrUncorrected : Nat := 0
  storeWaitUs : Nat := 0
  ddrWaitUs : Nat := 0
  /-- The microsecond last counted in each of them, plus 1 (R68). -/
  storeSeen : Nat := 0
  ddrSeen : Nat := 0
  mig : Mig := {}
  deriving DecidableEq, Repr

/-! ## General cores and power hints (06_streaming_and_fusion) -/

/-- A fret DMA request under a ticket (R222, R223). -/
structure Ticket where
  num : Nat
  fret : Nat
  core : Nat
  thread : Nat
  src : Nat
  dst : Nat
  len : Nat
  ended : Option Nat := none
  deriving DecidableEq, Repr

/-- A hardware thread running a program of GCORE_RUN. -/
structure GThread where
  fret : Nat
  core : Nat
  thread : Nat
  cmd : Nat
  num : Nat
  count : Nat
  regs : List Nat
  /-- The address of its next instruction; it starts at `entry` (R224). -/
  pc : Nat := 0
  exited : Option Nat := none
  /-- The ticket it waits for and the register that takes the answer. -/
  waiting : Option (Nat × Nat) := none
  /-- A 17th DMA request that waits: rd and the request's fret SRAM address. -/
  stalled : Option (Nat × Nat) := none
  deriving DecidableEq, Repr

structure Gcore where
  threads : List GThread := []
  tickets : List Ticket := []
  nextTicket : Nat := 0
  /-- Stores held in a fret's staging space: fret, thread number, device virtual address, bytes (R226). -/
  staged : List (Nat × Nat × Nat × Bytes) := []
  /-- The thread whose turn comes next on each general core, fret × 2 + core (R220). -/
  turn : SMap Nat := []
  deriving DecidableEq, Repr

/-- Stage of a power hint (R243). -/
inductive HintStage where
  | pending | prepared | phase
  deriving DecidableEq, Repr

structure PowerHint where
  id : Nat
  func : Nat
  start : Nat
  leadUs : Nat
  durationUs : Nat
  powerDw : Nat
  strings : Nat
  stage : HintStage := .pending
  deriving DecidableEq, Repr

structure Hints where
  list : List PowerHint := []
  next : Nat := 0
  deriving DecidableEq, Repr

/-! ## The weight store (03_weight_store) -/

/-- A map entry (R99). -/
structure MapEntry where
  valid : Bool := false
  rep : Nat := 0
  pslc : Bool := false
  poison : Bool := false
  die : Nat := 0
  lblock : Nat := 0
  page : Nat := 0
  deriving DecidableEq, Repr

/-- A block-state entry (R104). -/
structure Block where
  retry : Nat := 0
  suspect : Bool := false
  pslc : Bool := false
  state : Nat := 0
  lblock : Nat := 0
  ageStamp : Nat := 0
  berPeak : Nat := 0
  pe : Nat := 0
  rdPages : Nat := 0
  deriving DecidableEq, Repr

/-- A relocation queued or running (R107 to R111). -/
structure Reloc where
  block : Nat
  dest : Option Nat
  prio : Nat
  rebuilt : Bool
  patrol : Bool
  /-- Pages copied as zeros because they could not be read (R111). -/
  lost : List Nat
  /-- Die-pages read for the copy so far. -/
  copied : Nat := 0
  /-- A move of static levelling: it goes to the free block of highest wear (R115). -/
  level : Bool := false
  deriving DecidableEq, Repr

/-- What a journal record says (R101). -/
inductive Change where
  /-- Granules mapped (`on`) or unmapped: the first and how many. -/
  | mapRange (first count : Nat) (on : Bool)
  /-- The granules of a die-page are poisoned: a MAP_RANGE record (R111). -/
  | mapPoison (die lblock page : Nat)
  /-- The logical blocks of a superblock of this class are given back: a REMAP record (R105). -/
  | unmap (die lblock cls : Nat)
  /-- A logical block of a die lies in this physical block: `source` held it before; none when an install takes it. -/
  | remap (die lblock phys : Nat) (pslc : Bool) (source : Option Nat)
  | retire (block : Nat)
  | bstateDelta (block : Nat) (entry : Block)
  | tempHist (bin : Nat)
  | installBegin (xfer : Nat)
  /-- A granule of an install is programmed; `full` is the superblock that it fills: its first die, its logical block and its class. -/
  | installExtent (xfer granule : Nat) (full : Option (Nat × Nat × Nat))
  | installCommit (xfer : Nat)
  | installCancel (xfer : Nat)
  | checkpoint
  | cleanShutdown
  deriving DecidableEq, Repr

/-- A journal record (R101): its sequence number, what it says, and the `crc` it carries. -/
structure Record where
  seq : Nat
  change : Change
  crc : Nat
  deriving DecidableEq, Repr

/-- A superblock that an image takes: the class of its granules (4 × pSLC + replicas − 1), its place in that class, the
first die of its group and its logical block (03_weight_store R95, R112). -/
structure Super where
  cls : Nat
  idx : Nat
  die : Nat
  lblock : Nat
  deriving DecidableEq, Repr

/-- A stored image and the version it makes (02_memory_tiers R86; 16_security R503). -/
structure Image where
  id : Nat
  handle : Nat
  version : Nat
  port : Nat
  confOnly : Bool
  funcMask : Nat
  len : Nat
  manifest : Bytes
  wrapped : Bytes
  /-- The image's first granule in the logical space. -/
  base : Nat
  /-- For each granule, its replicas, three times as many in pSLC (17_firmware_reset R536). -/
  replicas : List Nat
  supers : List Super
  /-- The stored bytes by offset in the image: as delivered, encrypted, or plain when no envelope came (DEDUCED, log entry 15). -/
  cells : List Host.Cell
  /-- It is the version in force of its handle. -/
  inForce : Bool
  released : Bool := false
  /-- Its keys once its key slot is free: commands accepted before its release read it yet (02_memory_tiers R87). -/
  heldKey : Option (Bytes × Bytes) := none
  deriving DecidableEq, Repr

/-- An extent of INSTALL_BEGIN (17_firmware_reset R535). -/
structure InstExtent where
  off : Nat
  len : Nat
  replicas : Nat
  pslc : Bool
  deriving DecidableEq, Repr

inductive InstState where
  | open | suspended | committing | cancelling
  deriving DecidableEq, Repr

/-- An unfinished install (17_firmware_reset R536 to R543). -/
structure Install where
  xfer : Nat
  handle : Nat
  port : Nat
  func : Nat
  state : InstState
  len : Nat
  confOnly : Bool
  funcMask : Nat
  /-- It came with an envelope. -/
  envelope : Bool
  manifest : Bytes
  wrapped : Bytes
  /-- The image number its key slot and its version take. -/
  image : Nat
  extents : List InstExtent
  /-- MiB reserved. -/
  reserved : Nat
  base : Nat
  /-- 4 KiB units received and not yet durable, by unit. -/
  buffer : SMap (Option Bytes)
  /-- Granules programmed and recorded. -/
  durable : List Nat
  cells : List Host.Cell
  supers : List Super
  deriving DecidableEq, Repr

structure Wst where
  blocks : SMap Block := []
  /-- Block remap: die × 1,024 + logical block, to physical block plus 1 (0: the identity). -/
  remap : SMap Nat := []
  map : SMap MapEntry := []
  relocs : List Reloc := []
  journal : List Record := []
  /-- Records written and not yet durable, oldest first. -/
  pending : List Change := []
  seq : Nat := 0
  ageClock : Nat := 0
  tempHours : List Nat := [0, 0, 0, 0, 0, 0, 0, 0]
  tempMinutes : List Nat := [0, 0, 0, 0, 0, 0, 0, 0]
  failedDies : List Nat := []
  /-- Stripes without parity (R111): superblock × 512 + stripe. -/
  noParity : List Nat := []
  /-- Block entries and temperature bins changed since the last BSTATE_DELTA and TEMP_HIST records (R102). -/
  changed : List Nat := []
  tempChanged : List Nat := []
  /-- The newest checkpoint: the block-state table, the block remap table and the map (R102, R103). -/
  saved : SMap Block := []
  savedRemap : SMap Nat := []
  savedMap : SMap MapEntry := []
  /-- Relocations that a reset or a power-down cut off: repeated after mount (R108). -/
  redo : List Reloc := []
  /-- The replica whose turn comes next of each superblock set, by die × 1,024 + logical block of its first replica (R113). -/
  turns : SMap Nat := []
  /-- Blocks being erased. -/
  erasing : List Nat := []
  images : List Image := []
  installs : List Install := []
  nextImage : Nat := 1
  nextXfer : Nat := 1
  tlcLimitK : Nat := 40
  pslcLimitK : Nat := 400
  intervalH : Nat := 168
  berRefresh : Nat := 48
  patrolEnable : Bool := true
  pgmDies : Nat := 16
  pgmDiesEff : Nat := 16
  running : Nat := 0
  events : Nat := 0
  deriving DecidableEq, Repr

/-- The rest of the weight store: counters, selectors and the passes of maintenance. -/
structure WstMore where
  rebuilds : Nat := 0
  retired : Nat := 0
  relocations : Nat := 0
  bstateSel : List Nat := [0, 0]
  /-- Blocks a patrol pass over every block has still to visit (R121, R128). -/
  patrolLeft : List Nat := []
  /-- That pass is the one of R121. -/
  mountPatrol : Bool := false
  spareLowDies : List Nat := []
  unusableMib : Nat := 0
  mounted : Bool := false
  cleanShutdown : Bool := true
  offSince : Nat := 0
  offTemp : Int := 25
  /-- Highest NAND stack reading of the current minute (R118), in 0.1 °C. -/
  minuteTemp : Option Int := none
  /-- Dies whose program or erase is suspended and that are ready for reads (R94). -/
  suspended : List Nat := []
  /-- The line of DDR5 that the patrol scrub reads next (R128). -/
  scrubAt : Nat := 0
  /-- A compaction waits for a firmware slot write to end (R129), and the journal segment in use. -/
  compactionDue : Bool := false
  segment : Nat := 0
  /-- The granules of installs that are being programmed, by install and granule, and whether a record is being appended (R130). -/
  programming : List (Nat × Nat) := []
  appending : Bool := false
  deriving DecidableEq, Repr

/-! ## Security (16_security) -/

/-- An SPDM secure session (R514). -/
structure Spdm where
  id : Nat
  /-- Export master secret. -/
  secret : Bytes
  keyGen : Nat
  deriving DecidableEq, Repr

/-- A function's confidential mode (R516, R517). -/
structure Conf where
  on : Bool := false
  session : Nat := 0
  winVa : Nat := 0
  winSize : Nat := 0
  hostBase : Nat := 0
  tagBase : Nat := 0
  keyH2d : Bytes := []
  keyD2h : Bytes := []
  keyRingIn : Bytes := []
  keyRingOut : Bytes := []
  units : Nat := 0
  authFail : Bool := false
  sessions : List Spdm := []
  nextSession : Nat := 1
  /-- SPDM versions and algorithms were negotiated. -/
  negotiated : Bool := false
  /-- The last answer of the responder on the function's mailbox. -/
  answer : Bytes := []
  deriving DecidableEq, Repr

/-- The lifecycle (R501). -/
inductive Lifecycle where
  | manufacture | provisioned | unlocked
  deriving DecidableEq, Repr

structure Sec where
  lifecycle : Lifecycle := .provisioned
  /-- Key slots: image id, key1, key2. -/
  slots : List (Nat × Bytes × Bytes) := []
  /-- KEK and IDK_ENC are held (R512 step 5 erases them). -/
  keysHeld : Bool := true
  wcopyBase : List Nat := [0, 0]
  wcopySize : List Nat := [0, 0]
  conf : List Conf
  dbgScope : Nat := 1
  dbgState : Nat := 0
  dbgFails : Nat := 0
  dbgNonce : List Nat := [0, 0, 0, 0]
  dbgResp : SMap Nat := []
  dbgTime : Nat := 0
  /-- The debug scope granted while UNLOCKED. -/
  granted : Nat := 0
  events : Nat := 0
  deriving DecidableEq, Repr

/-! ## Firmware and resets (17_firmware_reset) -/

/-- What a firmware slot holds: its length in 4 KiB units when complete, and its bytes. -/
structure Slot where
  complete : Bool := false
  /-- The image the part was made with: it passes every check but that of its security version (DESIGN CHOICE, log entry 8). -/
  shipped : Bool := false
  len4k : Nat := 0
  cells : List Host.Cell := []
  deriving DecidableEq, Repr

inductive SlotState where
  | empty | loading | loaded | activating
  deriving DecidableEq, Repr

/-- Where a live hand-over stands (R529). -/
inductive Handover where
  | none
  /-- The standby core reads and checks the image (steps 1 and 2). -/
  | checking (cmd : Nat)
  /-- The new firmware initialises (step 3). -/
  | starting (cmd : Nat)
  /-- Frozen: the firmware gap (steps 4 to 6). -/
  | gap (cmd : Nat) (since : Nat)
  deriving DecidableEq, Repr

structure Fwu where
  slots : List Slot := [{ complete := true, shipped := true }, {}]
  active : Nat := 0
  state : SlotState := .empty
  recv : List Nat := []
  len4k : Nat := 0
  ctrlLen : Nat := 0
  loader : Nat := 0
  erasing : Bool := false
  fail : Nat := 0
  gapMs : Nat := 0
  recovery : Bool := false
  minSecVer : Nat := 0
  ports : Nat := 3
  lock : Bool := false
  installSel : List Nat := [0, 0]
  events : Nat := 0
  handover : Handover := .none
  /-- The running image's security version. -/
  secVer : Nat := 0
  deriving DecidableEq, Repr

/-- An engine reset under way: a string or a fret (R546). -/
structure EngineReset where
  isString : Bool
  index : Nat
  deriving DecidableEq, Repr

structure Rst where
  cause : Nat := 0
  rail : Nat := 0
  warmCount : Nat := 0
  warmPorts : Nat := 3
  lock : Bool := false
  engine : Option EngineReset := none
  refused : Bool := false
  portCount : List Nat := [0, 0]
  flr : List Nat := [0, 0]
  deriving DecidableEq, Repr

/-! ## The drone (11_listening_wake) -/

/-- DRONE_CONFIG in force (R381). -/
structure DroneCfg where
  micMask : Nat := 0
  pdmClk : Nat := 0
  beams : Nat := 0
  detBeams : Nat := 0
  vibMode : Nat := 0
  flags : Nat := 0
  camPeriodS : Nat := 0
  prerollS : Nat := 0
  tdmSlot : Nat := 0
  vibPeriodMs : Nat := 10
  levelPeriodMs : Nat := 0
  levelMic : Nat := 0
  spiClkMhz : Nat := 1
  spiCmd : Nat := 0
  spiCmdLen : Nat := 1
  spiRdLen : Nat := 2
  ovLevel : Int := 0
  beamTable : Bytes := []
  deriving DecidableEq, Repr

/-- The detector image loaded (R372). -/
structure DetImage where
  classes : Nat
  onsetLevel : Nat
  lagMs : Nat
  bytes : Bytes
  deriving DecidableEq, Repr

/-- Detector states (R373): FIRED passes at once to HOLDOFF. -/
inductive DetState where
  | idle | candidate | holdoff
  deriving DecidableEq, Repr

structure Detector where
  image : Option DetImage := none
  state : DetState := .idle
  cls : Nat := 0
  beam : Nat := 0
  score : Nat := 0
  entry : Nat := 0
  /-- Consecutive frames of the candidate below the pre level. -/
  quiet : Nat := 0
  /-- The lowest highest score of a frame since the last exit from CANDIDATE (256: none since). -/
  lowest : Nat := 0
  holdoffEnd : Nat := 0
  /-- For each beam × 8 + class: the device time of the first frame of its unbroken run at `onset_level`, plus 1. -/
  runs : SMap Nat := []
  /-- Own-voice activity of the last five frames, newest first. -/
  ovFrames : List Bool := []
  /-- Device time of the last frame with own-voice activity, plus 1. -/
  ovLast : Nat := 0
  onsetUs : Nat := 0
  deriving DecidableEq, Repr

/-- Wake plan states (R384). -/
inductive PlanState where
  | disabled | armed | primed | verifying | accepted
  deriving DecidableEq, Repr

/-- A wake plan: its parameter block and its state (R383, R384). -/
structure Plan where
  block : Bytes := []
  state : PlanState := .disabled
  /-- It has dropped speculation for this candidate (R389). -/
  dropped : Bool := false
  /-- Time of its fire, the time its events report, and the beam that fired it. -/
  fireUs : Nat := 0
  info : Nat := 0
  beam : Nat := 0
  /-- Domains it has requested. -/
  requested : Nat := 0
  /-- Its preload pass. -/
  preload : Option Nat := none
  /-- The audio that its last verifier run was given (R386). -/
  input : List Int := []
  deriving DecidableEq, Repr

/-- A pre-roll block (R376). -/
structure PreBlock where
  pred : Int
  step : Nat
  flags : Nat
  block : Nat
  codes : Bytes
  deriving DecidableEq, Repr

/-- A beam's coder and ring, newest block first (R375 to R377). -/
structure Preroll where
  pred : Int := 0
  step : Nat := 0
  blocks : List PreBlock := []
  newest : Nat := 0
  deriving DecidableEq, Repr

/-- A replay that has begun: its command, where its span begins and the ms it falls short (R390), the blocks of a beam that it has
copied, and the samples of a microphone by their number at 48 kHz (R392). -/
structure Replay where
  cmd : Nat
  start : Nat
  short : Nat
  blocks : List PreBlock := []
  samples : List (Nat × Int) := []
  deriving DecidableEq, Repr

structure Drone where
  ownerPort : Nat := 0
  ownerLock : Bool := false
  replayFuncs : Nat := 0x0101
  cfg : DroneCfg := {}
  det : Detector := {}
  plans : List Plan
  preroll : List Preroll
  /-- DRONE_CONFIG commands that wait for a block boundary, oldest first: the command and whether R388 defers it. -/
  waitingCfg : List (Nat × Bool) := []
  /-- `cfg` and `muted` flags of the next block. -/
  nextFlags : Nat := 0
  /-- Vibration peaks: plan, device time in µs, newest first. -/
  peakTimes : List (Nat × Nat) := []
  camMap : List Nat := []
  /-- The bytes that the last VSPI read sent on VSPI_MOSI (R368). -/
  spiSent : Bytes := []
  /-- The newest bits of each microphone's line, newest first, and the device time of its last toggling data in µs, plus 1 (R366, R393). -/
  bits : List (List Bool) := []
  toggled : List Nat := []
  /-- The newest 10 ms of `level_mic` at 256 kHz, newest first (R378). -/
  level : List Int := []
  /-- Replays that have begun (R392). -/
  replays : List Replay := []
  /-- Delay lines of the beamformer: the newest 1,025 samples of each microphone at 256 kHz, newest first (R365, R370). -/
  lines : List (List Int) := []
  /-- The newest sums of each beam at 256 kHz that its decimator works on, its newest 400 samples at 16 kHz, and its 40 features
  (R367, R371). -/
  sums : List (List Int) := []
  audio : List (List Int) := []
  features : List (List Int) := []
  /-- The last accepted wake: its onset estimate, or its trigger time, in µs; none before the first. -/
  wakeOnset : Option Nat := none
  clip : Nat := 0
  events : Nat := 0
  candidates : Nat := 0
  fires : Nat := 0
  accepts : Nat := 0
  rejects : Nat := 0
  deriving DecidableEq, Repr

/-! ## Cameras and the image pipeline (12_camera_pipeline) -/

/-- A frame of a bind (R399 to R405). -/
structure Frame where
  no : Nat
  start : Nat
  /-- The frame has no free slot, or its half is not released: it is dropped. -/
  dropped : Bool
  damaged : Bool := false
  truncated : Bool := false
  /-- Lines received, lines received with the right length, embedded lines received. -/
  lines : Nat := 0
  received : Nat := 0
  embLines : Nat := 0
  crcErrs : Nat := 0
  /-- Time of its end, in ns, once it has ended. -/
  endNs : Nat := 0
  /-- In-line: its half, the lines kept for the pipeline, and how many of them are processed. -/
  half : Nat := 0
  raw : List Bytes := []
  processed : Nat := 0
  deriving DecidableEq, Repr

/-- A bind (R397): its block, its frame ring's state and its frames. -/
structure Bind where
  id : Nat
  func : Nat
  block : Bytes
  /-- In-line: the VISION_PASS block it named. -/
  pipe : Bytes
  index : Nat := 0
  head : Nat := 0
  phase : Bool := true
  dropped : Nat := 0
  frame : Option Frame := none
  /-- In-line: the frame that has ended and whose outputs are not yet complete. -/
  out : Option Frame := none
  deriving DecidableEq, Repr

/-- A camera port's registers (R420). -/
structure CamPort where
  feTimeout : Nat := 100
  rate : Nat := 1500
  deskew : Bool := true
  pnSwap : Nat := 0
  laneMap : Nat := 0xE4
  lanes : Nat := 2
  enable : Bool := false
  hsActive : Bool := false
  deskewDone : Bool := false
  lanesOk : Nat := 0
  status : Nat := 0
  hdrCorrected : Nat := 0
  hdrUncorrected : Nat := 0
  deriving DecidableEq, Repr

/-- CAM_VC_COUNT_n_v. -/
structure VcCount where
  truncated : Nat := 0
  damaged : Nat := 0
  crc : Nat := 0
  deriving DecidableEq, Repr

structure Cam where
  portOwner : Nat := 0
  inlineFunc : Nat := 0
  inlineEn : Bool := false
  lock : Bool := false
  ports : List CamPort
  vcs : SMap VcCount := []
  binds : List Bind := []
  inlineDrops : Nat := 0
  /-- Halves of the in-line windows not yet released: bit k mod 2. -/
  heldHalves : Nat := 0
  /-- Number of the in-line frame: k of R415. -/
  inlineK : Nat := 0
  passes : Nat := 0
  pixels : Nat := 0
  /-- VISION_PASS commands that wait, in order of acceptance. -/
  queue : List Nat := []
  /-- The running memory pass and the lines it has taken. -/
  running : Option (Nat × Nat) := none
  /-- Start in ns and pixels of the in-line frames of the last second, newest first (for `inline_load`). -/
  inlineFrames : List (Nat × Nat) := []
  deriving DecidableEq, Repr

/-! ## Power domains (13_power_domains) -/

/-- The four bring-up phases (R434). -/
inductive BringPhase where
  | regulator | clock | memory | logic
  deriving DecidableEq, Repr

/-- Effective states (R426). -/
inductive DomState where
  | off | bringup | on | leaving | retention
  deriving DecidableEq, Repr

/-- A power domain. -/
structure Domain where
  state : DomState := .off
  phase : BringPhase := .regulator
  /-- It comes up from RETENTION. -/
  fromRet : Bool := false
  /-- LEAVING: the power-down has begun, and it ends in RETENTION. -/
  goingDown : Bool := false
  toRet : Bool := false
  /-- Its retention is register save (R425), and the banks it keeps in bank retention. -/
  regSave : Bool := false
  kept : Nat := 0
  /-- Targets of port A and port B, with their mode, tolerance and bank mask (R427). -/
  target : List Nat := [1, 1]
  retMode : List Nat := [0, 0]
  tolMs : List Nat := [0, 0]
  bankMask : List Nat := [0, 0]
  depth : Nat := 2
  /-- Since when it has not been wanted, plus 1; 0 while wanted. -/
  idleSince : Nat := 0
  deriving DecidableEq, Repr

structure Pwr where
  domains : List Domain
  /-- Enable outputs asserted, and power-goods that have arrived, one bit each in the order of the rows of
  21_package_electrical R599: 0 CORE, 1 SRAM, 2 SOC, 3 SAF, 4 VPP, 5 DDR, 6 NAND, 7 NANDQ, 8 PCIE_A, 9 PCIE_B, 10 MIPI. -/
  railEnable : Nat := 0
  railGood : Nat := 0
  pgMissing : Nat := 0
  idleMs : Nat := 50
  waiting : Nat := 0
  tolUnmet : Nat := 0
  events : Nat := 0
  trainValid : Bool := false
  trainTemp : Int := 0
  trainFallbacks : Nat := 0
  warmUses : Nat := 0
  /-- PEG_WAKE_SRC_0 to 15, newest first. -/
  wakeSrc : List Nat := []
  /-- Wake sources whose bring-up waits for a power-down to end: domain, code, detail (R437, R441). -/
  late : List (Nat × Nat × Nat) := []
  /-- The BRIDGE firewalls refuse every transaction until reprogrammed (R425). -/
  firewallShut : Bool := false
  deriving DecidableEq, Repr

/-! ## Host ports (18_host_ports) -/

/-- A port: its link, its PTM dialogue, its wake output and its configuration bits. -/
structure Port where
  perst : Bool := true
  linkUp : Bool := false
  l1 : Bool := false
  speed : Nat := 0
  width : Nat := 0
  mps : Nat := 0
  tag10 : Bool := false
  aspmL1 : Bool := false
  ltr : Bool := false
  /-- Configuration requests complete (step 3 of R564). -/
  cfgReady : Bool := false
  linkDowns : Nat := 0
  recoveries : Nat := 0
  corrected : Nat := 0
  ptmEnable : Bool := false
  ptmInterval : Nat := 10
  ptmD : Int := 0
  ptmH : Int := 0
  ptmRate : Int := 0
  ptmOk : Nat := 0
  ptmFails : Nat := 0
  /-- Values latched by a read of HIF_PTM_STAMP, with what has still to be read. -/
  latchOffset : Int := 0
  latchRate : Int := 0
  latchValid : Bool := false
  latched : Nat := 0
  wakeN : Bool := false
  wakeSeen : Bool := false
  pmeSent : Bool := false
  asserts : Nat := 0
  vfEnable : Bool := false
  numVfs : Nat := 0
  /-- PM_PME messages sent. -/
  pmeMessages : Nat := 0
  /-- Correctable, unsupported-request, non-fatal and fatal errors logged in AER. -/
  aer : List Nat := [0, 0, 0, 0]
  deriving DecidableEq, Repr

/-- A function's configuration bits and window (18_host_ports R554, R559, R561). -/
structure FuncCfg where
  busMaster : Bool := false
  d3hot : Bool := false
  pmeEn : Bool := false
  msixEn : Bool := false
  msixMask : Bool := false
  winBase : Nat := 0
  winEnable : Bool := false
  bar4Log2 : Nat := 28
  deriving DecidableEq, Repr

structure Ports where
  ports : List Port
  funcs : List FuncCfg
  deriving DecidableEq, Repr

/-! ## The capo, droop, temperature and supply (14_capo_thermal_supply) -/

/-- A monitored rail (R456). -/
structure Rail where
  below : Bool := false
  /-- It has reached its reset level since it fell below its warning level. -/
  resetHit : Bool := false
  now : Nat := 0
  minMv : Nat := 0xFFFF
  warnings : Nat := 0
  resets : Nat := 0
  deriving DecidableEq, Repr

/-- A temperature sensor (R454): last and highest reading, in 0.1 °C. -/
structure Sensor where
  /-- It has been read since power-on. -/
  read : Bool := false
  temp : Int := 0
  peak : Int := 0
  deriving DecidableEq, Repr

/-- A string's power state (R447, R452). Fractions are exact: numerator over `bubbleScale`. -/
structure CapoString where
  /-- Dynamic power that the bubbles of the last window leave the string (p_dyn_prev of R447). -/
  dynMw : Nat := 0
  leakMw : Nat := 0
  /-- Bubble fraction in units of 1/`bubbleScale`. -/
  bubble : Nat := 0
  /-- Idle cycles per 400 of the last window. -/
  hold : Nat := 0
  stretch : Nat := 0
  detectors : List Nat := [0, 0, 0, 0, 0, 0, 0, 0]
  l1 : Nat := 0
  l2 : Nat := 0
  /-- The ramp limit is lifted by a hint (R243). -/
  rampLifted : Bool := false
  /-- It climbs back after a dip, under the ramp limit whatever hint is active (R459). -/
  climbing : Bool := false
  deriving DecidableEq, Repr

structure Capo where
  capLimit : Nat := 1500
  capLock : Bool := false
  cap : Nat := 900
  thermalCap : Option Nat := none
  stormCap : Bool := false
  /-- The rail supplies of a dip: a dip or its hold-off runs. -/
  dip : Bool := false
  holdoff : Bool := false
  bCap : Nat := 0
  bClamp : Nat := 0
  strings : List CapoString
  outsideMw : Nat := 0
  /-- Of the last windows, newest first (at most 1,000): P, C_eff and the strings' part of P, in mW; and the holds. -/
  powers : List (Nat × Nat × Nat) := []
  holds : List (List Nat) := []
  rampDw : Nat := 10
  stormCount : Nat := 16
  pgmFloor : Nat := 4
  droop1 : Nat := 40
  droop2 : Nat := 70
  tjWarn : Nat := 105
  tjThrottle : Nat := 115
  tempSel : List Nat := [0, 0]
  supplySel : List Nat := [0, 0]
  deriving DecidableEq, Repr

structure CapoMore where
  sensors : List Sensor
  /-- Levels of R455 in force, one bit each. -/
  levels : Nat := 0
  rails : List Rail
  dipTime : Nat := 0
  dipDur : Nat := 0
  dipRail : Nat := 0
  dipMin : Nat := 0
  /-- Starts of the dips of the last second, in µs, newest first. -/
  dipStarts : List Nat := []
  events : Nat := 0
  /-- VDD_CORE setpoint raise asked by hints, in 0.1 W (R243). -/
  raisedDw : Nat := 0
  /-- AVSBus measure: the scale applied to P, in units of 1/1,000 (R604). -/
  scale : Nat := 1000
  refreshHalved : Bool := false
  deriving DecidableEq, Repr

/-! ## The safety function (15_functional_safety) -/

/-- Stream states (R488). -/
inductive SafState where
  | unconfigured | configured | tested | running | latched
  deriving DecidableEq, Repr

/-- A DDR5 region descriptor (R494). -/
structure Region where
  first : Nat := 0
  last : Nat := 0
  rdMask : Nat := 0
  wrMask : Nat := 0
  enable : Bool := false
  lock : Bool := false
  deriving DecidableEq, Repr

/-- A frame that the sequencer works on (R474). -/
structure SafFrame where
  frameNo : Nat := 0
  startNs : Nat := 0
  endNs : Nat := 0
  /-- The golden input used. -/
  golden : Nat := 0
  /-- The half of the in-line windows that it holds: k mod 2 (12_camera_pipeline R415). -/
  half : Nat := 0
  /-- The frame end has arrived; the outputs are complete in their windows. -/
  ended : Bool := false
  outputs : Bool := false
  /-- Its record is DAMAGED or TRUNCATED, or a frame was dropped or absent before it. -/
  inputBad : Bool := false
  /-- A cause of immediate latching arose while it ran. -/
  fault : Bool := false
  /-- Its verdict is decided; a job may still run. -/
  decided : Bool := false
  /-- Vectors of the four jobs: A frame, B frame, A golden, B golden. -/
  aFrame : Option (List Nat) := none
  bFrame : Option (List Nat) := none
  aGold : Option (List Nat) := none
  bGold : Option (List Nat) := none
  deriving DecidableEq, Repr

/-- A job of Channel A as the bow runs it, one slice on a partition fret: its frame, the fret it runs on, and its attempts (15_functional_safety
R472; 01_architecture R27, R28). -/
structure SafJob where
  frame : Nat
  golden : Bool
  fret : Option Nat := none
  attempts : Nat := 0
  tried : List Nat := []
  deriving DecidableEq, Repr

structure Saf where
  safetyFunc : Nat := 0
  enable : Bool := false
  lock : Bool := false
  regfw : Nat := 0
  regfwLock : Bool := false
  state : SafState := .unconfigured
  cause : Nat := 0
  consec : Nat := 0
  seq : Nat := 0
  nextSeq : Nat := 0
  /-- The 192-byte block of the last CONFIGURE. -/
  config : Bytes := []
  /-- Frets of the partition, and those it takes when its last foreign slice has ended. -/
  partition : List Nat := []
  forming : List Nat := []
  formCmd : Option Nat := none
  partString : Nat := 0
  goldens : List (Bytes × Bytes) := []
  /-- References: eight FP32 words for each golden input, on channel A and on the Keaster channel. -/
  refsA : List (List Nat) := []
  refsB : List (List Nat) := []
  /-- The frames it works on, oldest first. -/
  frames : List SafFrame := []
  /-- The jobs of Channel A that were released and have not ended, in that order. -/
  jobs : List SafJob := []
  /-- A frame was dropped or absent since the last frame that was not. -/
  missed : Bool := false
  /-- `model_b` as loaded into the island: its handle and version. -/
  modelB : Option (Nat × Nat) := none
  runCmd : Option Nat := none
  ringIndex : Nat := 0
  ringHead : Nat := 0
  ringPhase : Bool := true
  deriving DecidableEq, Repr

structure SafMore where
  frames : Nat := 0
  invalid : Nat := 0
  failDisagree : Nat := 0
  failLate : Nat := 0
  failA : Nat := 0
  failB : Nat := 0
  events : Nat := 0
  hbEdges : Nat := 0
  regions : SMap Region := []
  fwSel : List Nat := [0, 0]
  deniedDomain : Nat := 0
  deniedWrite : Bool := false
  deniedValid : Bool := false
  deniedAddr : Nat := 0
  diagSel : List Nat := [0, 0]
  /-- Diagnostic records, newest first, ten words each. -/
  diag : List (List Nat) := []
  /-- Island SRAM: the Keaster input buffer. -/
  island : List Host.Cell := []
  /-- The island is held in reset by its supply (R456 rail 6). -/
  inReset : Bool := false
  deriving DecidableEq, Repr

/-! ## Clocks, start-up and pins (19_clocks_startup, 21_package_electrical) -/

structure Clk where
  /-- Clock domains running and not faulty, one bit each. -/
  running : Nat := 0
  fault : Nat := 0
  last : Nat := 0xFF
  /-- Off windows counted so far: a clock is faulty at the second in a row (R576). -/
  offWindows : Nat := 0
  offAon : Bool := false
  offRtc : Bool := false
  aonFailed : Bool := false
  rtcFailed : Bool := false
  cold : Bool := false
  stage : Nat := 0
  fullUs : Nat := 0
  /-- Device time at the reference point of R581 or R582, in units of the accumulator. -/
  startAt : Nat := 0
  started : Bool := false
  /-- A start is held in BRINGUP by a hot logic die (21_package_electrical R606). -/
  hot : Bool := false
  /-- Off time is unknown to the next mount (R121, R577). -/
  offUnknown : Bool := true
  deriving DecidableEq, Repr

/-- Output pins. -/
structure Pins where
  safeHb : Bool := false
  safeErrN : Bool := false
  thermTripN : Bool := true
  supplied : Bool := false
  deriving DecidableEq, Repr

/-! ## The whole state -/

structure State where
  ident : Ident := {}
  /-- Device time since the last power-on reset, in units of 1/384 ns (19_clocks_startup R575). -/
  now : Nat := 0
  mem : Mem := {}
  hif : Hif
  irq : Irq := {}
  mmu : List Mmu
  atn : Atn
  bow : Bow
  stream : Stream := {}
  gcore : Gcore := {}
  hints : Hints := {}
  wst : Wst := {}
  wstMore : WstMore := {}
  sec : Sec
  fwu : Fwu := {}
  rst : Rst := {}
  drone : Drone
  cam : Cam
  pwr : Pwr
  port : Ports
  capo : Capo
  capoMore : CapoMore
  saf : Saf := {}
  safMore : SafMore := {}
  clk : Clk := {}
  pins : Pins := {}
  /-- The model's own: the number of free values drawn so far (DESIGN CHOICE, log entry 4). -/
  free : Nat := 0
  /-- Commands and events that wait, first in, first out. -/
  pending : List Instr := []
  deriving DecidableEq, Repr

/-- The result of a command. -/
abbrev Res := Host.Outcome State Fault Refusal

/-- HIF_ registers of function `f` at reset (05_command_rings HIF_FUNC_RINGS_n, HIF_RING_SEL). -/
def resetHifFunc (f : Nat) : HifFunc :=
  let base := if f < 8 then 0x0000 else 0x2000
  { base := base, count := if f % 8 = 0 then 1024 else 0, sel := base }

/-- BOW_QUOTA_n at reset (10_scheduling_sharing R363). -/
def resetQuota (f : Nat) : Quota :=
  if f % 8 = 0 then { ddrMib := 65024, hotMib := 24, sessions := 2048 } else {}

/-- A function's configuration at reset: BAR4 of 256 MiB, of a virtual function 64 MiB (18_host_ports R553). -/
def resetFuncCfg (f : Nat) : FuncCfg := { bar4Log2 := if f % 8 = 0 then 28 else 26 }

/-- A power domain before the first start: OFF with every target ON, and DRONE (12) always ON
(13_power_domains R421, R430). -/
def resetDomain (d : Nat) : Domain := { state := if d = 12 then .on else .off }

/-- The state of the part in power-on reset, before supplies valid (19_clocks_startup R579; 17_firmware_reset R544). -/
def State.reset : State :=
  { hif := { funcs := (List.range 16).map resetHifFunc }
    mmu := List.replicate 16 {}
    atn := { groups := (List.range 16).map (fun f => f % 8), keys := List.replicate 16 0 }
    bow := { frets := List.replicate 48 {}, strings := List.replicate 4 {}, pins := List.replicate 16 {},
             quotas := (List.range 16).map resetQuota, vport := List.replicate 16 0, vfunc := List.replicate 128 0 }
    sec := { conf := List.replicate 16 {} }
    drone := { plans := List.replicate 8 {}, preroll := List.replicate 4 {} }
    cam := { ports := List.replicate 8 {} }
    pwr := { domains := (List.range 13).map resetDomain }
    port := { ports := List.replicate 2 {}, funcs := (List.range 16).map resetFuncCfg }
    capo := { strings := List.replicate 4 {} }
    capoMore := { sensors := List.replicate 63 {}, rails := List.replicate 18 {} } }

end Sys2Proof.Machine
end

