-- ==== Sys2Proof/Machine/Ops.lean ====
section
/-! DEFINITION. Machine/Ops.lean: the named operations over memory, registers and time that every family
shares: units by number, device time, the three memories, free values, and the small updates of State. -/

namespace Sys2Proof.Machine
open Sys2Proof

/-- Answer the next state. -/
def ok (s : State) : Res := .next s

/-- A physical unit's number is below its count, else no such event exists. -/
def unit (n count : Nat) (r : Res) : Res := if n < count then r else .fault .noSuchUnit

/-- Change the state when `c` holds; otherwise the event finds nothing to do (DEDUCED, log entry 3). -/
def when (c : Bool) (f : State → State) (s : State) : State := if c then f s else s

/-! ## Time (19_clocks_startup R575; 00_scope: 1 µs per unit of device time) -/

/-- Device time in ns. -/
def nowNs (s : State) : Nat := s.now / 384
/-- Device time in µs, as HIF_TIME reads it. -/
def nowUs (s : State) : Nat := s.now / 384000
/-- Device time in ms. -/
def nowMs (s : State) : Nat := s.now / 384000000

/-- Advance device time by one tick of its source clock (R575, R577). -/
def tickUnits (s : State) : Nat := if s.clk.aonFailed then 11718750 else 15625
def tick (s : State) : State := { s with now := s.now + tickUnits s }

/-! ## Free values (DESIGN CHOICE, log entry 4) -/

/-- The next free natural number below `2 ^ w`. -/
def drawNat (w : Nat) (s : State) : Nat := Config.freeNat s.free % 2 ^ w
/-- `n` free bytes. -/
def drawBytes (n : Nat) (s : State) : Bytes := (List.range n).map (fun i => Config.freeByte (s.free + i))
/-- Count `n` free values as drawn. -/
def drawn (n : Nat) (s : State) : State := { s with free := s.free + n }

/-! ## Memory -/

/-- What a byte that nothing has written reads as (DESIGN CHOICE, log entry 2). -/
def emptyByte : Byte := 0

/-- One byte of one memory. -/
def cellGet (m : List Host.Cell) (a : Nat) : Byte := smGet emptyByte m a
/-- Write one byte. -/
def cellSet (a : Nat) (v : Byte) (m : List Host.Cell) : List Host.Cell := smSet emptyByte a v m
/-- The `n` bytes from `a`. -/
def cellsRead (m : List Host.Cell) (a n : Nat) : Bytes := (List.range n).map (fun i => cellGet m (a + i))
/-- Write bytes from `a` up. -/
def cellsWrite : Nat → Bytes → List Host.Cell → List Host.Cell
  | _, [], m => m
  | a, b :: bs, m => cellsWrite (a + 1) bs (cellSet a b m)
/-- Write `n` zeros from `a` up. -/
def cellsZero (a n : Nat) (m : List Host.Cell) : List Host.Cell :=
  m.filter (fun c => decide (c.1 < a ∨ a + n ≤ c.1))

/-- The canonical form of a memory: addresses strictly rising, no byte listed that reads the same unlisted. -/
def cellsWf (m : List Host.Cell) : Bool := smWf emptyByte m
def Mem.wf (m : Mem) : Bool := cellsWf m.hostA && cellsWf m.hostB && cellsWf m.dev

/-- The memory of a space. -/
def memOf (m : Mem) : Space → List Host.Cell
  | .hostA => m.hostA
  | .hostB => m.hostB
  | .dev => m.dev

/-- Change the memory of a space. -/
def memWith (m : Mem) (sp : Space) (f : List Host.Cell → List Host.Cell) : Mem :=
  match sp with
  | .hostA => { m with hostA := f m.hostA }
  | .hostB => { m with hostB := f m.hostB }
  | .dev => { m with dev := f m.dev }

/-- One byte of a space. -/
def readByte (s : State) (sp : Space) (a : Nat) : Byte := cellGet (memOf s.mem sp) a
/-- The `n` bytes of a space from `a`. -/
def readBytes (s : State) (sp : Space) (a n : Nat) : Bytes := cellsRead (memOf s.mem sp) a n
/-- Write bytes to a space. -/
def writeBytes (sp : Space) (a : Nat) (bs : Bytes) (s : State) : State :=
  { s with mem := memWith s.mem sp (cellsWrite a bs) }
/-- Zero a range of device memory (16_security R510). -/
def zeroDev (a n : Nat) (s : State) : State := { s with mem := memWith s.mem .dev (cellsZero a n) }

/-! ## Functions, ports and ring ranges (00_scope R11) -/

/-- The port of a function: 0 A, 1 B. -/
def portOf (f : Nat) : Nat := f / 8
/-- The physical function of a port. -/
def physOf (p : Nat) : Nat := 8 * p
/-- A function is a physical function. -/
def isPhys (f : Nat) : Bool := f == 0 || f == 8
/-- The host memory behind a function's port. -/
def hostOf (f : Nat) : Space := if f < 8 then .hostA else .hostB
/-- Every function of a port. -/
def funcsOf (p : Nat) : List Nat := (List.range 8).map (fun n => 8 * p + n)

def hifFunc (s : State) (f : Nat) : HifFunc := s.hif.funcs.getD f {}
def funcCfg (s : State) (f : Nat) : FuncCfg := s.port.funcs.getD f {}
def portSt (s : State) (p : Nat) : Port := s.port.ports.getD p {}
def mmuOf (s : State) (f : Nat) : Mmu := s.mmu.getD f {}
def confOf (s : State) (f : Nat) : Conf := s.sec.conf.getD f {}
def quotaOf (s : State) (f : Nat) : Quota := s.bow.quotas.getD f {}

def modHifFunc (f : Nat) (g : HifFunc → HifFunc) (s : State) : State :=
  { s with hif := { s.hif with funcs := modAt f g s.hif.funcs } }
def modFuncCfg (f : Nat) (g : FuncCfg → FuncCfg) (s : State) : State :=
  { s with port := { s.port with funcs := modAt f g s.port.funcs } }
def modPort (p : Nat) (g : Port → Port) (s : State) : State :=
  { s with port := { s.port with ports := modAt p g s.port.ports } }
def modMmu (f : Nat) (g : Mmu → Mmu) (s : State) : State := { s with mmu := modAt f g s.mmu }
def modConf (f : Nat) (g : Conf → Conf) (s : State) : State :=
  { s with sec := { s.sec with conf := modAt f g s.sec.conf } }

/-- A virtual function exists: VF Enable is set and its number is at most NumVFs; the physical function always
does (18_host_ports R552). -/
def funcExists (s : State) (f : Nat) : Bool :=
  isPhys f || ((portSt s (portOf f)).vfEnable && decide (f % 8 ≤ (portSt s (portOf f)).numVfs))

/-- The device issues requests for the function (18_host_ports R561). -/
def canMaster (s : State) (f : Nat) : Bool :=
  (funcCfg s f).busMaster && !(funcCfg s f).d3hot && !(funcCfg s (physOf (portOf f))).d3hot

/-! ## Rings and commands -/

def ringOf (s : State) (r : Nat) : Ring := smGet {} s.hif.rings r
def setRing (r : Nat) (v : Ring) (s : State) : State := { s with hif := { s.hif with rings := smSet {} r v s.hif.rings } }
def modRing (r : Nat) (g : Ring → Ring) (s : State) : State := setRing r (g (ringOf s r)) s

/-- Entries of a ring (R173; `size_log2` 0 selects 16). -/
def ringSize (g : Ring) : Nat := 2 ^ (if g.sizeLog2 = 0 then 16 else g.sizeLog2)

/-- A ring ID lies in the function's range (R172). -/
def inRange (s : State) (f r : Nat) : Bool :=
  decide ((hifFunc s f).base ≤ r ∧ r < (hifFunc s f).base + (hifFunc s f).count)

/-- The function whose range holds a ring. -/
def ringOwner (s : State) (r : Nat) : Option Nat := (List.range 16).find? (fun f => inRange s f r)

/-- The ring IDs of a function that are listed as other than their reset value. -/
def ringsOf (s : State) (f : Nat) : List Nat := (s.hif.rings.map Prod.fst).filter (inRange s f)

/-- A function has a ring that is not DISABLED. -/
def anyRingOn (s : State) (f : Nat) : Bool := (ringsOf s f).any (fun r => decide ((ringOf s r).state ≠ .disabled))

def cmdOf (s : State) (id : Nat) : Option Cmd := s.hif.cmds.find? (fun c => c.id == id)
def modCmd (id : Nat) (g : Cmd → Cmd) (s : State) : State :=
  { s with hif := { s.hif with cmds := s.hif.cmds.map (fun c => if c.id = id then g c else c) } }
def dropCmd (id : Nat) (s : State) : State :=
  { s with hif := { s.hif with cmds := s.hif.cmds.filter (fun c => decide (c.id ≠ id)) } }

/-! Descriptor fields (R186). -/

def dOpcode (d : Bytes) : Nat := byteAt d 0
def dFlags (d : Bytes) : Nat := byteAt d 1
def dVer (d : Bytes) : Nat := bf (byteAt d 2) 3 0
def dPrio (d : Bytes) : Nat := bf (byteAt d 2) 6 4
def dTag (d : Bytes) : Nat := leAt d 4 4
def dModel (d : Bytes) : Nat := leAt d 8 2
def dSession (d : Bytes) : Nat := leAt d 10 2
def Cmd.opcode (c : Cmd) : Nat := dOpcode c.desc
def Cmd.irq (c : Cmd) : Bool := bit (dFlags c.desc) 0
def Cmd.showPreempt (c : Cmd) : Bool := bit (dFlags c.desc) 1
def Cmd.fence (c : Cmd) : Bool := bit (dFlags c.desc) 2
def Cmd.tag (c : Cmd) : Nat := dTag c.desc
def Cmd.model (c : Cmd) : Nat := dModel c.desc
def Cmd.session (c : Cmd) : Nat := dSession c.desc
/-- The bridge domain of a command (R14, R169). -/
def Cmd.domain (c : Cmd) : Nat := if c.safety then 33 else c.func

/-! ## Status codes and locators (R199, R200, R613) -/

def stOk : Nat := 0x00
def stFlashUnc : Nat := 0x10
def stFlashLate : Nat := 0x11
def stDdrUnc : Nat := 0x12
def stSramUnc : Nat := 0x13
def stTranslation : Nat := 0x20
def stFirewall : Nat := 0x21
def stInvalid : Nat := 0x30
def stVersion : Nat := 0x31
def stPreempted : Nat := 0x40
def stSafety : Nat := 0x50
def stQuota : Nat := 0x60
def stAborted : Nat := 0x70
def stInternal : Nat := 0x7F

/-- A locator: structure 0 descriptor, 1 operand table, 2 parameter block or entry list, 3 stage list. -/
def locator (structure_ index offset : Nat) : Nat := structure_ * 2 ^ 30 + index * 2 ^ 16 + offset

/-- How a command fails: its status and result, and what its failing access records on the way
(MMU_FAULT_*, SAF_FW_DENIED, SEC_CONF_STATUS_n). -/
structure Fail where
  status : Nat
  result : Nat
  /-- Address, cause, level, write of a failed translation (07_attention_kv R283). -/
  mmu : Option (Nat × Nat × Nat × Bool) := none
  /-- Domain, write and address of a refusal by a region descriptor (15_functional_safety R494). -/
  denied : Option (Nat × Bool × Nat) := none
  /-- A sealed unit failed its tag (16_security R520). -/
  authFail : Bool := false
  deriving DecidableEq, Repr

def bad (result : Nat) : Fail := { status := stInvalid, result := result }
def fwDenied (result : Nat) : Fail := { status := stFirewall, result := result }
def quotaFail (code : Nat) : Fail := { status := stQuota, result := code }

/-- The first failing check of a list: the failure beside a condition that does not hold. -/
def firstFail : List (Bool × Fail) → Option Fail
  | [] => none
  | (c, f) :: l => if c then firstFail l else some f

/-! ## Power domains -/

def domSt (s : State) (d : Nat) : DomState := (s.pwr.domains.getD d {}).state
def domOn (s : State) (d : Nat) : Bool := decide (domSt s d = .on)

/-! ## Targets (13_power_domains R427, R430) -/

def domainOf (s : State) (d : Nat) : Domain := s.pwr.domains.getD d {}

/-- A target with what comes with it. -/
structure Target4 where
  code : Nat
  ret : Nat
  tol : Nat
  mask : Nat
  deriving DecidableEq, Repr

def targetOf (s : State) (p d : Nat) : Target4 :=
  let x := domainOf s d
  { code := x.target.getD p 1, ret := x.retMode.getD p 0, tol := x.tolMs.getD p 0, mask := x.bankMask.getD p 0 }

/-- ON, AUTO, RETENTION, OFF, from shallow to deep. -/
def targetRank (t : Nat) : Nat := if t = 1 then 0 else if t = 4 then 1 else if t = 2 then 2 else 3

/-- The shallower of two targets; of two AUTO the one of smaller `tol_ms`; port A's on a tie. -/
def shallower (a b : Target4) : Target4 :=
  if targetRank b.code < targetRank a.code ∨ (a.code = 4 ∧ b.code = 4 ∧ b.tol < a.tol) then b else a

/-- The combined target; a HOST domain follows its own port's target, which alone may move it (13_power_domains R429). -/
def combined (s : State) (d : Nat) : Target4 :=
  if d = 5 then targetOf s 0 d else if d = 6 then targetOf s 1 d else shallower (targetOf s 0 d) (targetOf s 1 d)

/-- The combined target is AUTO. -/
def isAuto (s : State) (d : Nat) : Bool := (combined s d).code == 4
def modDomain (d : Nat) (g : Domain → Domain) (s : State) : State :=
  { s with pwr := { s.pwr with domains := modAt d g s.pwr.domains } }

/-! ## Frets and strings -/

def fretOf (s : State) (i : Nat) : Fret := s.bow.frets.getD i {}
def stringOf (s : State) (j : Nat) : StringSt := s.bow.strings.getD j {}
def modFret (i : Nat) (g : Fret → Fret) (s : State) : State :=
  { s with bow := { s.bow with frets := modAt i g s.bow.frets } }
def modString (j : Nat) (g : StringSt → StringSt) (s : State) : State :=
  { s with bow := { s.bow with strings := modAt j g s.bow.strings } }

/-- A string takes work: neither quarantined nor held for a reset, and its domain ON (01_architecture R36;
13_power_domains R435). -/
def stringIn (s : State) (j : Nat) : Bool := !(stringOf s j).quarantined && !(stringOf s j).held && domOn s (7 + j)
/-- A fret is in service. -/
def fretIn (s : State) (i : Nat) : Bool :=
  decide (i < 48) && !(fretOf s i).quarantined && !(fretOf s i).held && stringIn s (i / 12)
def fretsIn (s : State) : List Nat := (List.range 48).filter (fretIn s)
def inPartition (s : State) (i : Nat) : Bool := s.saf.partition.contains i
/-- Frets in service outside the safety partition (10_scheduling_sharing R343). -/
def fOut (s : State) : Nat := ((fretsIn s).filter (fun i => !inPartition s i)).length

/-- The safety host, when one is named (15_functional_safety SAF_CTRL). -/
def safetyHost (s : State) : Option Nat := if s.saf.enable then some s.saf.safetyFunc else none

/-! ## Register blocks of BAR0 (15_functional_safety R496; 18_host_ports R565; 20_register_map R588) -/

/-- Every BAR0 register is served: the port's configuration is ready and the firmware runs; in recovery only FWU_ (block
11) is. -/
def regServed (s : State) (f block : Nat) : Bool :=
  funcExists s f && (portSt s (portOf f)).cfgReady && (if s.fwu.recovery then block == 11 else decide (3 ≤ s.clk.stage))

/-- The HIF_ ring registers are served: as the others, and in recovery too (17_firmware_reset R534; 18_host_ports R565). -/
def hifServed (s : State) (f : Nat) : Bool :=
  funcExists s f && (portSt s (portOf f)).cfgReady && (s.fwu.recovery || decide (3 ≤ s.clk.stage))

/-- `active` of HIF_VERSION: the lower of `host_max` and `dev_max` once the register block is served, 0 when it lies below
`dev_min`; both bounds are 1 (05_command_rings R170; 18_host_ports R565). -/
def activeVersion (s : State) (f : Nat) : Nat := if hifServed s f then min (hifFunc s f).hostMax 1 else 0

/-- The blocks that SAF_REGFW guards: bit 9, SAF_, is forced to 1. -/
def guardedBlocks (s : State) : Nat := s.saf.regfw ||| 2 ^ 9

/-- A guarded block ignores writes of the physical function of the port that does not carry the safety host. -/
def regGuarded (s : State) (f block : Nat) : Bool :=
  s.saf.enable && isPhys f && portOf f != portOf s.saf.safetyFunc && bit (guardedBlocks s) block

/-- A write to a register of a block: ignored while the block is not served or guarded. Blocks are numbered from BOW_ 0
to RST_ 12. -/
def regWrite (f block : Nat) (s : State) (r : Res) : Res :=
  unit f 16 (if regServed s f block && !regGuarded s f block then r else ok s)

/-! ## Address map (01_architecture R43; 02_memory_tiers R51, R76) -/

def ddrEnd : Nat := 0x2000000000
def ddrReserved : Nat := 0x1FC0000000
def unifiedBase : Nat := 0x20000000000
def unifiedEnd : Nat := 0x40000000000
def sramBase : Nat := 0x80000000000
def fretSramEnd : Nat := 0x8000C000000
def bufBase : Nat := 0x80010000000
def bufEnd : Nat := 0x80014000000
def apertureBase : Nat := 0x700000000000
def apertureEnd : Nat := 0x800000000000

/-- The first SRAM address of a fret, and of a bank of it. -/
def fretBase (i : Nat) : Nat := sramBase + 0x400000 * i
def bankBase (i b : Nat) : Nat := 0x40000 * b + fretBase i
/-- The first address of a string's buffer. -/
def stringBufBase (j : Nat) : Nat := bufBase + 0x1000000 * j

/-- A device physical address decodes to a memory (07_attention_kv R283 cause 8). -/
def decodes (s : State) (a : Nat) : Bool :=
  decide (a < ddrEnd) || (decide (sramBase ≤ a) && decide (a < fretSramEnd)) ||
    (decide (bufBase ≤ a) && decide (a < bufEnd)) ||
    (s.ident.variant == 2 && decide (unifiedBase ≤ a) && decide (a < unifiedEnd))

/-! ## Sums -/

def sumBy {α : Type} (f : α → Nat) (l : List α) : Nat := l.foldl (fun a x => a + f x) 0

/-- Fields at their lowest bits, joined. -/
def fields (l : List (Nat × Nat)) : Nat := sumBy (fun p => p.1 * 2 ^ p.2) l

/-- MiB of a number of bytes, rounded up. -/
def mib (n : Nat) : Nat := ceilDiv n 0x100000

/-- The capacity terms of the variant: usable MiB with no retired blocks (03_weight_store WST_CAPACITY). -/
def usableMibFull (s : State) : Nat :=
  match s.ident.variant with
  | 0 => 446400
  | 1 => 892800
  | _ => 1791360

end Sys2Proof.Machine
end

