-- ==== Sys2Proof/Machine/Mmu.lean ====
section
/-! DEFINITION. Machine/Mmu.lean: translation of device virtual addresses, the guards of device memory, and the
reads and staged writes of command data (07_attention_kv R246, R282 to R284; 01_architecture R40; 02_memory_tiers
R50, R51, R76; 15_functional_safety R494; 16_security R507, R508, R517 to R520). -/

namespace Sys2Proof.Machine
open Sys2Proof

/-! ## Table walk (R282, R283) -/

/-- An 8-byte table entry in host memory. -/
def tableEntry (s : State) (f root i : Nat) : Nat := leNat (readBytes s (hostOf f) (root + 8 * i) 8)

/-- The `addr` field of a table entry, as an address. -/
def entryAddr (e : Nat) : Nat := 4096 * bf e 56 12

/-- Reserved bits that every entry has (R282). -/
def entryReservedOk (e : Nat) : Bool := bf e 63 57 == 0 && bf e 11 5 == 0

/-- A pointer to a next table: `c64`, `host` and `write` are reserved there. -/
def pointerOk (e : Nat) : Bool := entryReservedOk e && bf e 4 2 == 0

/-- How a translation fails: cause and level. -/
abbrev WalkFail := Nat × Nat

/-- The leaf of a walk: page base, page size, host target, writable, level. -/
structure Leaf where
  base : Nat
  size : Nat
  host : Bool
  write : Bool
  level : Nat
  deriving DecidableEq, Repr

/-- The 16 level-4 entries of a 64 KiB range agree (R283). -/
def c64Ok (s : State) (f table i : Nat) : Bool :=
  let e0 := tableEntry s f table (i / 16 * 16)
  (List.range 16).all (fun j =>
    let e := tableEntry s f table (i / 16 * 16 + j)
    bit e 0 && bit e 4 && bf e 56 12 == bf e0 56 12 && bf e 3 2 == bf e0 3 2) && entryAddr e0 % 65536 == 0

/-- The walk of four levels. -/
def walk (s : State) (f va : Nat) : Except WalkFail Leaf :=
  let root := 4096 * (mmuOf s f).root
  let e1 := tableEntry s f root (bf va 47 39)
  if !bit e1 0 then .error (0, 0) else
  if !pointerOk e1 || bit e1 1 then .error (2, 0) else
  let e2 := tableEntry s f (entryAddr e1) (bf va 38 30)
  if !bit e2 0 then .error (0, 1) else
  if !pointerOk e2 || bit e2 1 then .error (2, 1) else
  let e3 := tableEntry s f (entryAddr e2) (bf va 29 21)
  if !bit e3 0 then .error (0, 2) else
  if bit e3 1 then
    if !entryReservedOk e3 || bit e3 4 || bf e3 20 12 != 0 then .error (2, 2)
    else .ok { base := entryAddr e3, size := 0x200000, host := bit e3 3, write := bit e3 2, level := 2 }
  else
  if !pointerOk e3 then .error (2, 2) else
  let t4 := entryAddr e3
  let e4 := tableEntry s f t4 (bf va 20 12)
  if !bit e4 0 then .error (0, 3) else
  if !entryReservedOk e4 || !bit e4 1 then .error (2, 3) else
  if bit e4 4 then
    if c64Ok s f t4 (bf va 20 12) then
      .ok { base := entryAddr e4, size := 0x10000, host := bit e4 3, write := bit e4 2, level := 3 }
    else .error (3, 3)
  else .ok { base := entryAddr e4, size := 0x1000, host := bit e4 3, write := bit e4 2, level := 3 }

/-! ## The KV aperture (R246, R256) -/

def apKey (f va : Nat) : Nat := f * 2 ^ 48 + va / 65536
/-- The pool page that backs an aperture address of a function. -/
def kvPage (s : State) (f va : Nat) : Option KvPage := smGet none s.atn.aperture (apKey f va)
def inAperture (va : Nat) : Bool := decide (apertureBase ≤ va) && decide (va < apertureEnd)

/-! ## Translation -/

/-- A translated address: where it lies, or a sealed unit of a confidential function's window. -/
inductive Target where
  | at (space : Space) (addr : Nat)
  | window (func : Nat) (va : Nat)
  deriving DecidableEq, Repr

/-- The address lies in the bounce window of a confidential function (R517). -/
def inWindow (c : Conf) (va : Nat) : Bool := decide (c.winVa ≤ va) && decide (va < c.winVa + c.winSize)

/-- A device physical target is one that a host function may reach: decoded, and outside the device-reserved
region (R51, R283 causes 5 and 8). -/
def checkDevTarget (s : State) (pa level : Nat) : Except WalkFail Target :=
  if !decodes s pa then .error (8, level)
  else if decide (ddrReserved ≤ pa) && decide (pa < ddrEnd) then .error (5, level)
  else .ok (.at .dev pa)

/-- Translate one device virtual address of a function. An aperture page that nothing backs is recorded at level 0 (R283; DESIGN CHOICE, log
entry 75). -/
def translate (s : State) (f va : Nat) (write : Bool) : Except WalkFail Target :=
  if va ≥ 2 ^ 48 then .error (6, 0)
  else if inAperture va then
    match kvPage s f va with
    | none => .error (4, 0)
    | some p => .ok (.at .dev (65536 * p.page + va % 65536))
  else if (confOf s f).on then
    if inWindow (confOf s f) va then .ok (.window f va) else .error (7, 0)
  else if !(mmuOf s f).enable then .error (7, 0)
  else
    match walk s f va with
    | .error e => .error e
    | .ok l =>
      if write && !l.write then .error (1, l.level)
      else if l.host then .ok (.at (hostOf f) (l.base + va % l.size))
      else checkDevTarget s (l.base + va % l.size) l.level

/-! ## Guards of device memory (R40) -/

/-- The fret SRAM banks that hold weights: W0, W1 and the hot set (06_streaming_and_fusion R215). -/
def weightBank (s : State) (b : Nat) : Bool := decide (b < 4) || decide (16 - s.bow.hotBanks ≤ b)

/-- A device physical address lies in a weight region (16_security R507). -/
def inWeightRegion (s : State) (a : Nat) : Bool :=
  (decide (unifiedBase ≤ a) && decide (a < unifiedEnd)) ||
  (decide (bufBase ≤ a) && decide (a < bufEnd)) ||
  (decide (sramBase ≤ a) && decide (a < fretSramEnd) && weightBank s ((a - sramBase) % 0x400000 / 0x40000)) ||
  s.stream.copies.any (fun c => decide (c.addr ≤ a) && decide (a < c.addr + c.len)) ||
  (s.stream.mig.enable && decide (s.stream.mig.base ≤ a) && decide (a < s.stream.mig.base + 0x200000 * s.stream.mig.size)) ||
  s.stream.mig.slots.any (fun p => decide (s.stream.mig.base + 0x200000 * p.1 ≤ a) && decide (a < s.stream.mig.base + 0x200000 * (p.1 + 1)))

/-- The bit of a domain in a region descriptor's masks (15_functional_safety R494). -/
def maskBitOf (d : Nat) : Nat := if d < 16 then d else d - 16

/-- Every enabled descriptor that covers a DDR5 address permits the access. -/
def regionPermits (s : State) (d a : Nat) (write : Bool) : Bool :=
  s.safMore.regions.all (fun p =>
    let r := p.2
    !r.enable || decide (a / 65536 < r.first) || decide (r.last < a / 65536) ||
      bit (if write then r.wrMask else r.rdMask) (maskBitOf d))

/-- Every enabled descriptor that covers part of a DDR5 range permits the access. -/
def rangePermits (s : State) (d a n : Nat) (write : Bool) : Bool :=
  s.safMore.regions.all (fun p =>
    let r := p.2
    !r.enable || n == 0 || decide ((a + n - 1) / 65536 < r.first) || decide (r.last < a / 65536) ||
      bit (if write then r.wrMask else r.rdMask) (maskBitOf d))

/-- What stops the device's own transactions of domain `d` over DDR5 runs, if anything (00_scope R14; 01_architecture R40). -/
def runsRefused (s : State) (d : Nat) (write : Bool) (result : Nat) (l : List (Nat × Nat)) : Option Fail :=
  if l.isEmpty then none else if s.pwr.firewallShut then some (fwDenied result) else
  (l.find? (fun r => decide (r.1 < ddrEnd) && !rangePermits s d r.1 r.2 write)).map
    (fun r => { status := stFirewall, result := result, denied := some (d, write, r.1) })

/-- What stops a transaction of domain `d` at a device address, if anything. -/
def guard (s : State) (d a : Nat) (write : Bool) (result : Nat) : Option Fail :=
  if s.pwr.firewallShut then some (fwDenied result)
  else if decide (a < ddrEnd) && !regionPermits s d a write then
    some { status := stFirewall, result := result, denied := some (d, write, a) }
  else if inWeightRegion s a then some (fwDenied result)
  else none

/-- An address of the unified range maps to an installed image (02_memory_tiers R76). -/
def unifiedMapped (s : State) (a : Nat) : Bool := (smGet {} s.wst.map ((a - unifiedBase) / 65536)).valid

/-- The failure of a translation with its record for MMU_FAULT_*. -/
def walkFail (va : Nat) (write : Bool) (e : WalkFail) (result : Nat) : Fail :=
  { status := stTranslation, result := result, mmu := some (va, e.1, e.2, write) }

/-- Where one byte of a command's access lands, or how the command fails. An address of the unified range that no image maps is recorded
as a leaf outside the device's ranges is: cause 8, level 3 (02_memory_tiers R76; DESIGN CHOICE, log entry 75). -/
def place (s : State) (f d va : Nat) (write : Bool) (result : Nat) : Except Fail Target :=
  match translate s f va write with
  | .error e => .error (walkFail va write e result)
  | .ok (.window g a) => .ok (.window g a)
  | .ok (.at .dev a) =>
    if decide (unifiedBase ≤ a) && decide (a < unifiedEnd) && !unifiedMapped s a then
      .error (walkFail va write (8, 3) result)
    else match guard s d a write result with
      | some e => .error e
      | none => .ok (.at .dev a)
  | .ok (.at sp a) => .ok (.at sp a)

/-- Some byte of a run lies in a DDR5 copy of weights (02_memory_tiers R50). -/
def runInCopy (s : State) (a n : Nat) : Bool := s.stream.copies.any (fun c => decide (c.addr < a + n) && decide (a < c.addr + c.len))

/-- Where a piece of an access lands that stays within one page. -/
def placeRun (s : State) (f d va n : Nat) (write : Bool) (result : Nat) : Except Fail Target :=
  match place s f d va write result with
  | .error e => .error e
  | .ok (.at .dev a) => if runInCopy s a n then .error (fwDenied result) else .ok (.at .dev a)
  | .ok t => .ok t

/-! ## Sealed units of a confidential function (R517 to R520) -/

def unitBase (c : Conf) (va : Nat) : Nat := c.winVa + (va - c.winVa) / 4096 * 4096
def unitAad (f : Nat) (va : Nat) : Bytes := leBytes 1 f ++ leBytes 8 va
def unitHost (c : Conf) (ub : Nat) : Nat := c.hostBase + (ub - c.winVa)
def unitTag (c : Conf) (ub : Nat) : Nat := c.tagBase + 32 * ((ub - c.winVa) / 4096)

/-- Verify and decrypt the unit at `ub`: with the host's key, or with the device's own for a unit it wrote. -/
def openUnit (s : State) (f ub : Nat) : Option Bytes :=
  let c := confOf s f
  let ct := readBytes s (hostOf f) (unitHost c ub) 4096
  let tag := readBytes s (hostOf f) (unitTag c ub) 32
  match Config.gcmOpen c.keyH2d (slice tag 0 12) (unitAad f ub) ct (slice tag 16 16) with
  | some p => some (padTo 4096 p)
  | none => (Config.gcmOpen c.keyD2h (slice tag 0 12) (unitAad f ub) ct (slice tag 16 16)).map (padTo 4096)

/-- Seal a unit with the device's key and a new IV, and write it with its tag entry. -/
def sealUnit (f ub : Nat) (plain : Bytes) (s : State) : State :=
  let c := confOf s f
  let iv := zeros 4 ++ leBytes 8 c.units
  let s1 := writeBytes (hostOf f) (unitHost c ub) (padTo 4096 (Config.gcmSeal c.keyD2h iv (unitAad f ub) plain)) s
  let s2 := writeBytes (hostOf f) (unitTag c ub) (iv ++ zeros 4 ++ padTo 16 (Config.gcmTag c.keyD2h iv (unitAad f ub) plain)) s1
  modConf f (fun c => { c with units := c.units + 1 }) s2

/-! ## Command data -/

/-- The bytes left to the end of the 4 KiB page of `va`. -/
def pageLeft (va : Nat) : Nat := 4096 - va % 4096

/-- Read `n` bytes of a function's address space for domain `d`, page by page; `fuel` bounds the pages. -/
def vaReadPages (s : State) (f d result : Nat) : Nat → Nat → Nat → Except Fail Bytes
  | 0, _, _ => .ok []
  | fuel + 1, va, n =>
    if n = 0 then .ok [] else
    let len := min n (pageLeft va)
    match placeRun s f d va len false result with
    | .error e => .error e
    | .ok (.at sp a) =>
      match vaReadPages s f d result fuel (va + len) (n - len) with
      | .error e => .error e
      | .ok bs => .ok (readBytes s sp a len ++ bs)
    | .ok (.window g a) =>
      match openUnit s g (unitBase (confOf s g) a) with
      | none => .error { status := stFirewall, result := result, authFail := true }
      | some u =>
        match vaReadPages s f d result fuel (va + len) (n - len) with
        | .error e => .error e
        | .ok bs => .ok (slice u (a - unitBase (confOf s g) a) len ++ bs)

/-- Read `n` bytes at a device virtual address; a failure carries the locator `result`. -/
def vaRead (s : State) (f d va n result : Nat) : Except Fail Bytes :=
  vaReadPages s f d result (n / 4096 + 2) va n

/-- The page of a function's table that holds an address: its base and its size; none for one that the table does not translate. -/
def pageOf (s : State) (f va : Nat) : Option (Nat × Nat) :=
  if inAperture va || (confOf s f).on then none else match walk s f va with
    | .error _ => none
    | .ok l => some (va / l.size * l.size, l.size)

/-- Stage a write page by page: where each piece will land at commit. A write into the KV aperture is refused (R256): of ATTENTION only the
KV cache writes go there, and its output and row statistics are refused as those of other commands are (DESIGN CHOICE, log entry 75). -/
def vaStagePages (s : State) (f d result : Nat) : Nat → Nat → Bytes → Except Fail (List Seg)
  | 0, _, _ => .ok []
  | fuel + 1, va, bs =>
    if bs.isEmpty then .ok [] else
    let len := min bs.length (pageLeft va)
    if va < 2 ^ 48 ∧ inAperture va then .error (fwDenied result) else
    match placeRun s f d va len true result with
    | .error e => .error e
    | .ok t =>
      match vaStagePages s f d result fuel (va + len) (bs.drop len) with
      | .error e => .error e
      | .ok l => .ok (match t with
        | .at sp a => { space := sp, addr := a, data := bs.take len, via := pageOf s f va } :: l
        | .window g a => { space := hostOf g, addr := a, data := bs.take len, sealed := some g } :: l)

/-- Stage a write of `bs` at a device virtual address. -/
def vaStage (s : State) (f d va : Nat) (bs : Bytes) (result : Nat) : Except Fail (List Seg) :=
  vaStagePages s f d result (bs.length / 4096 + 2) va bs

/-- Commit one staged piece (R204, R519): plain bytes, or a sealed unit read, merged and written back. -/
def commitSeg (s : State) (g : Seg) : State :=
  match g.sealed with
  | none => writeBytes g.space g.addr g.data s
  | some f =>
    let ub := unitBase (confOf s f) g.addr
    let old := if g.data.length = 4096 then zeros 4096 else (openUnit s f ub).getD (zeros 4096)
    let off := g.addr - ub
    sealUnit f ub (old.take off ++ g.data ++ old.drop (off + g.data.length)) s

/-- Commit every staged piece, in order. -/
def commitSegs (l : List Seg) (s : State) : State := l.foldl commitSeg s

/-- Every sealed unit that a commit must merge into verifies (R519, R520). -/
def segsOpen (s : State) (l : List Seg) : Bool :=
  l.all (fun g => match g.sealed with
    | none => true
    | some f => g.data.length == 4096 || (openUnit s f (unitBase (confOf s f) g.addr)).isSome)

/-! ## Records of a failure -/

/-- Record the first failed translation (R283). -/
def recordMmu (f ring : Nat) (v : Nat × Nat × Nat × Bool) (s : State) : State :=
  modMmu f (fun m => if m.faultValid then m else
    { m with faultVa := v.1 % 2 ^ 48, faultCause := v.2.1, faultLevel := v.2.2.1, faultWrite := v.2.2.2,
             faultRing := ring, faultValid := true }) s

/-- Record the first refusal of a region descriptor (15_functional_safety R494, SAF_FW_DENIED). -/
def recordDenied (v : Nat × Bool × Nat) (s : State) : State :=
  let e := s.safMore.events ||| 16
  if s.safMore.deniedValid then { s with safMore := { s.safMore with events := e } }
  else { s with safMore := { s.safMore with
    deniedValid := true, deniedDomain := v.1, deniedWrite := v.2.1, deniedAddr := v.2.2, events := e } }

/-- What a failing access leaves in the registers. -/
def recordFail (f ring : Nat) (e : Fail) (s : State) : State :=
  let s1 := match e.mmu with | none => s | some v => recordMmu f ring v s
  let s2 := match e.denied with | none => s1 | some v => recordDenied v s1
  if e.authFail then modConf f (fun c => { c with authFail := true }) s2 else s2

end Sys2Proof.Machine
end

