-- ==== Sys2Proof/Machine/Event.lean ====
section
/-! DEFINITION. Machine/Event.lean: MSI-X, entries of completion and event rings, event records, ring errors, and
how an accepted command fails or completes (05_command_rings R177 to R184, R198 to R204; 18_host_ports R558,
R559; 16_security R518). -/

namespace Sys2Proof.Machine
open Sys2Proof

/-! ## MSI-X (18_host_ports R559) -/

def vecKey (f v : Nat) : Nat := 2048 * f + v
def vectorOf (s : State) (f v : Nat) : Vector := smGet {} s.irq.vecs (vecKey f v)
def modVector (f v : Nat) (g : Vector → Vector) (s : State) : State :=
  { s with irq := { s.irq with vecs := smMod {} (vecKey f v) g s.irq.vecs } }

/-- Write the message of a vector. -/
def sendMsg (f v : Nat) (s : State) : State :=
  let w := vectorOf s f v
  { s with irq := { s.irq with sent := { func := f, vector := v, addr := w.addr, data := w.data } :: s.irq.sent } }

/-- Raise a vector: no message while MSI-X is off or the function may issue no request, a pending bit while it is masked,
else the message (18_host_ports R559, R561). -/
def raiseVector (f v : Nat) (s : State) : State :=
  if !(funcCfg s f).msixEn || !canMaster s f then s
  else if (vectorOf s f v).masked || (funcCfg s f).msixMask then modVector f v (fun w => { w with pending := true }) s
  else sendMsg f v s

/-! ## Entries -/

/-- The index after `i` in a ring. -/
def nextIndex (g : Ring) (i : Nat) : Nat := (i + 1) % ringSize g
/-- Free entries of a completion or event ring (R177). -/
def freeEntries (g : Ring) : Nat := (g.hostIndex + 2 * ringSize g - g.index - 1) % ringSize g

/-- The bytes of a sealed entry (16_security R518). -/
def sealedEntry (c : Conf) (r index n phase : Nat) (rec : Bytes) : Bytes :=
  let iv := leBytes 2 r ++ zeros 2 ++ leBytes 8 n
  let aad := leBytes 2 r ++ leBytes 4 index ++ leBytes 1 phase
  padTo 15 (Config.gcmSeal c.keyRingOut iv aad (rec.take 15)) ++ leBytes 1 phase ++
    padTo 16 (Config.gcmTag c.keyRingOut iv aad (rec.take 15))

/-- Write one 16-byte record into ring `r` of function `f` at its write index, with the phase bit in byte 15. -/
def writeEntry (f r : Nat) (rec : Bytes) (s : State) : State :=
  let g := ringOf s r
  let ph := b2n g.phase
  let c := confOf s f
  let s1 := if c.on then
      writeBytes (hostOf f) (g.base + 32 * g.index) (sealedEntry c r g.index g.sealN ph rec) s
    else writeBytes (hostOf f) (g.base + 16 * g.index) (rec.take 15 ++ leBytes 1 ph) s
  modRing r (fun g => { g with
    index := nextIndex g g.index, phase := if nextIndex g g.index = 0 then !g.phase else g.phase,
    sealN := if c.on then g.sealN + 1 else g.sealN }) s1

/-- Count an entry for the ring's interrupt and raise the vector when it is due (R181). -/
def countEntry (f r : Nat) (irq : Bool) (s : State) : State :=
  let g := ringOf s r
  if !g.irqEn then s
  else if irq || g.coalCount == 0 || decide (g.coalCount ≤ g.sinceIrq + 1) then
    raiseVector f g.vector (modRing r (fun g => { g with sinceIrq := 0 }) s)
  else modRing r (fun g => { g with sinceIrq := g.sinceIrq + 1 }) s

/-! ## Event records (R201 to R203) -/

def eventRecord (s : State) (code detail info ring : Nat) : Bytes :=
  leBytes 2 code ++ leBytes 1 detail ++ leBytes 1 0 ++ leBytes 4 info ++ leBytes 4 (nowUs s) ++ leBytes 2 ring ++ zeros 2

/-- The function's event ring when it is ACTIVE and the function may issue requests (18_host_ports R561). -/
def eventRing (s : State) (f : Nat) : Option Nat :=
  if canMaster s f then (ringsOf s f).find? (fun r => (ringOf s r).typ == 2 && decide ((ringOf s r).state = .active)) else none

/-- Write the EVENT_LOST record when records were dropped and the ring has space (R203). -/
def flushLost (f : Nat) (s : State) : State :=
  match eventRing s f with
  | none => s
  | some r =>
    if (hifFunc s f).dropped = 0 ∨ freeEntries (ringOf s r) = 0 then s
    else countEntry f r false (writeEntry f r (eventRecord s 0x0061 0 ((hifFunc s f).dropped) 0xFFFF)
      (modHifFunc f (fun h => { h with dropped := 0 }) s))

/-- Drop a record and count it. -/
def dropEvent (f : Nat) (s : State) : State := modHifFunc f (fun h => { h with dropped := h.dropped + 1 }) s

/-- Raise an event on the event ring of function `f`. -/
def postTo (f code detail info ring : Nat) (s : State) : State :=
  let s1 := flushLost f s
  match eventRing s1 f with
  | none => dropEvent f s1
  | some r =>
    if freeEntries (ringOf s1 r) = 0 ∨ (hifFunc s1 f).dropped ≠ 0 then dropEvent f s1
    else countEntry f r false (writeEntry f r (eventRecord s1 code detail info ring) s1)

/-- Raise an event that concerns no command: it goes to functions 0 and 8 (R202). -/
def postBoth (code detail info ring : Nat) (s : State) : State :=
  postTo 8 code detail info ring (postTo 0 code detail info ring s)

/-! ## Ring errors (R184) -/

/-- Submission rings bound to a completion ring. -/
def boundRings (s : State) (q : Nat) : List Nat :=
  (s.hif.rings.map Prod.fst).filter (fun r => (ringOf s r).typ == 0 && (ringOf s r).cqId == q &&
    decide ((ringOf s r).state ≠ .disabled))

/-- A ring that is ACTIVE or DRAINING (R182) enters ERROR with `err`; when it is a completion ring its submission rings
follow with CQ_ERROR (R184). -/
def ringError (r err : Nat) (s : State) : State :=
  let g := ringOf s r
  if g.state ≠ .active ∧ g.state ≠ .draining then s else
  let s1 := modRing r (fun g => { g with state := .error, err := err }) s
  let s2 := postBoth 0x0060 err 0 r s1
  if g.typ = 1 then
    (boundRings s2 r).foldl (fun t b => if (ringOf t b).state = .error then t
      else postBoth 0x0060 7 0 b (modRing b (fun g => { g with state := .error, err := 7 }) t)) s2
  else s2

/-! ## Slices and threads of a command -/

/-- Clear every slice of a command from the frets. -/
def endRuns (id : Nat) (s : State) : State :=
  { s with bow := { s.bow with frets := s.bow.frets.map (fun f =>
      { f with run := f.run.filter (fun r => r.cmd != id), edge := f.edge.filter (fun r => r.cmd != id) }) } }

/-- Drop every thread, ticket and staged store of a program. -/
def endThreads (id : Nat) (s : State) : State :=
  let mine (fret core thread : Nat) : Bool :=
    s.gcore.threads.any (fun t => t.cmd == id && t.fret == fret && t.core == core && t.thread == thread)
  let frets := (s.gcore.threads.filter (fun t => t.cmd == id)).map (fun t => t.fret)
  { s with gcore := { s.gcore with
      threads := s.gcore.threads.filter (fun t => decide (t.cmd ≠ id))
      tickets := s.gcore.tickets.filter (fun k => !mine k.fret k.core k.thread)
      staged := s.gcore.staged.filter (fun p => !frets.contains p.1) } }

/-- A command fails: its staging space is discarded and its completion is to be written (R204). -/
def failCmd (id : Nat) (e : Fail) (s : State) : State :=
  match cmdOf s id with
  | none => s
  | some c =>
    modCmd id (fun c => { c with phase := .failed e.status e.result, staged := [], retries := [] })
      (recordFail c.func c.ring e (endThreads id (endRuns id s)))

/-- A command has not failed. -/
def Cmd.alive (c : Cmd) : Bool := match c.phase with
  | .failed _ _ => false
  | _ => true

/-- A command's last step that can fail has passed: it holds these staged writes and this result. -/
def stageDone (id : Nat) (segs : List Seg) (result : Nat) (s : State) : State :=
  modCmd id (fun c => if c.alive then { c with phase := .done, staged := segs, result := result } else c) s

/-! ## Completion (R198, R199) -/

def completionRecord (s : State) (c : Cmd) (status result : Nat) : Bytes :=
  leBytes 4 c.tag ++ leBytes 4 result ++ leBytes 4 (nowUs s) ++ leBytes 2 c.ring ++ leBytes 1 status ++ zeros 1

/-- A submission ring loses one outstanding command and stops when it was the last (R182). -/
def ringDone (g : Ring) : Ring :=
  { g with outstanding := g.outstanding - 1,
           state := if g.outstanding ≤ 1 ∧ (g.state = .draining ∨ g.state = .aborting) then .stopped else g.state }

/-- A completion ring gives one reserved entry back and stops when it was the last (R611). -/
def cqDone (g : Ring) : Ring :=
  { g with reserved := g.reserved - 1,
           state := if g.reserved ≤ 1 ∧ (g.state = .draining ∨ g.state = .aborting) then .stopped else g.state }

/-- The completion ring still takes entries. -/
def cqWrites (s : State) (q : Nat) : Bool :=
  match (ringOf s q).state with
  | .active => true
  | .draining => true
  | .aborting => true
  | _ => false

/-- Write a command's completion and retire it. -/
def complete (c : Cmd) (status result : Nat) (s : State) : State :=
  let s1 := if cqWrites s c.cq then
      countEntry c.func c.cq c.irq (writeEntry c.func c.cq (completionRecord s c status result) s)
    else s
  modRing c.cq cqDone (modRing c.ring ringDone (dropCmd c.id (endThreads c.id (endRuns c.id s1))))

/-- Retire a command without a completion: its function was reset (17_firmware_reset R545). -/
def retire (id : Nat) (s : State) : State := dropCmd id (endThreads id (endRuns id s))

end Sys2Proof.Machine
end

