-- ==== Sys2Proof/Machine/Bow.lean ====
section
/-! DEFINITION. Machine/Bow.lean: the bow. Candidate slices and their order, dispatch, the end, the fault and the
kill of a slice, quarantine, weighted fair sharing, hot entries, and the safety partition's frets
(01_architecture R25 to R36; 10_scheduling_sharing R338 to R363; 15_functional_safety R470 to R473, R481). -/

namespace Sys2Proof.Machine
open Sys2Proof

/-! ## The latch of the safety function (15_functional_safety R481 to R484) -/

def safStateCode : SafState → Nat
  | .unconfigured => 0 | .configured => 1 | .tested => 2 | .running => 3 | .latched => 4

/-- Ring of the RUN command, for the events that concern it. -/
def runRing (s : State) : Nat :=
  match s.saf.runCmd with
  | none => 0xFFFF
  | some id => match cmdOf s id with | none => 0xFFFF | some c => c.ring

/-- Drive the pins of the safety function for the stream's state: both low outside RUNNING (R482). -/
def pinsLow (s : State) : State := { s with pins := { s.pins with safeHb := false, safeErrN := false } }

/-- The fault state latches with a cause: pins low, SAFETY_STATE event, and the RUN command fails (R481, R483). -/
def latch (cause : Nat) (s : State) : State :=
  if s.saf.state ≠ .running then s else
  let ring := runRing s
  let s1 := pinsLow { s with
    saf := { s.saf with state := .latched, cause := cause, runCmd := none
                        frames := if cause = 1 then s.saf.frames
                          else s.saf.frames.map (fun f => if f.decided then f else { f with fault := true }) }
    safMore := { s.safMore with events := s.safMore.events ||| 8 } }
  let s2 := postTo s.saf.safetyFunc 0x0040 4 cause ring s1
  match s.saf.runCmd with
  | none => s2
  | some id => failCmd id { status := stSafety, result := cause } s2

/-! ## Which slices may run where -/

/-- A slice of a command. -/
def workOf (c : Cmd) (i : Nat) : Work := c.work.getD i {}

/-- A slice that has not run waits for the slices before its barrier (06_streaming_and_fusion R238, R241). -/
def behindBarrier (c : Cmd) (i : Nat) : Bool := c.barriers.any (fun b => decide (b ≤ i) && decide (c.slicesDone < b))

/-- A command that has slices to dispatch. -/
def runnable (c : Cmd) : Bool :=
  decide (c.phase = .running) &&
  (!c.retries.isEmpty || (decide (c.slicesNext < c.work.length) && !behindBarrier c c.slicesNext))

def passOf (s : State) (p : Nat) : Option Pass := s.stream.passes.find? (fun x => x.id == p)

/-- A window unit is ready: every part is in the string buffers, and it is not released (02_memory_tiers R66). -/
def unitReady (u : PassUnit) : Bool := u.issued.isSome && u.ddrDone && u.storeDone && !u.released

/-- A unit of a pass, by pass and number. -/
def unitOf (s : State) (e : Nat × Nat) : Option (Pass × PassUnit) :=
  (passOf s e.1).bind (fun p => (p.units[e.2]?).map (fun u => (p, u)))

/-- A unit holds some of the rows that a slice needs. -/
def unitServes (p : Pass) (u : PassUnit) (n : Need) : Bool :=
  p.handle == n.handle && u.layer == n.layer && u.tensors.contains n.tensor &&
  (match u.panel with
  | none => true
  | some r => decide (r.1 < n.first + n.count) && decide (n.first < r.1 + r.2))

/-- The units of a command that hold what a slice needs. -/
def servingUnits (s : State) (c : Cmd) (n : Need) : List (Nat × Nat) :=
  c.units.filter (fun e => match unitOf s e with
    | none => false
    | some x => unitServes x.1 x.2 n)

/-- The window units, by pass and number, that slice `i` of a command consumes. -/
def sliceUnits (s : State) (c : Cmd) (i : Nat) : List (Nat × Nat) := ((workOf c i).needs.flatMap (servingUnits s c)).eraseDups

/-- The string whose running total of parts first passes `n` of `d` of the whole. -/
def stringAt (n d total : Nat) : Nat → Nat → List Nat → Nat
  | j, _, [] => j
  | j, sum, x :: l => if n * total < (sum + x) * d then j else stringAt n d total (j + 1) (sum + x) l

/-- The rows of a need that a unit holds: the first, how many. -/
def unitRows (u : PassUnit) (n : Need) : Nat × Nat := u.panel.getD (0, n.rows)

/-- The string whose part of a unit holds a slice's first row: the rows of each tensor of a unit go to the strings in order, in proportion to
their parts (01_architecture R33; 02_memory_tiers R60; DESIGN CHOICE, log entry 13). -/
def rowString (u : PassUnit) (n : Need) : Nat :=
  let r := unitRows u n
  stringAt (n.first - r.1) (max 1 r.2) (u.shares.foldl (· + ·) 0) 0 0 u.shares

/-- Where the bytes that a slice needs of a unit stand in a string's part of it: offset, length. The tensors of a unit stand one behind
another (DESIGN CHOICE, log entry 13). -/
def needRun (u : PassUnit) (n : Need) (whole : Bool) (j : Nat) : Nat × Nat :=
  let k := u.tensors.idxOf n.tensor
  let len (i : Nat) : Nat := (u.parts.getD i (0, 0, 1)).1
  let total := max 1 (u.parts.foldl (fun a p => a + p.1) 0)
  let share := u.shares.getD j 0
  let at_ := share * ((u.parts.take k).foldl (fun a p => a + p.1) 0) / total
  let size := share * len k / total
  if whole then (at_, size) else
  let r := unitRows u n
  let all := u.shares.foldl (· + ·) 0
  let before := r.2 * (u.shares.take j).foldl (· + ·) 0
  let per := max 1 (r.2 * share)
  let off := size * ((n.first - r.1) * all - before) / per
  (at_ + off, min (size - off) (ceilDiv (size * (n.count * all)) per))

/-- The runs of a string's buffer at an offset of a part that lies in `runs`. -/
def partRuns : Nat → Nat → List (Nat × Nat) → List (Nat × Nat)
  | _, _, [] => []
  | off, n, r :: l =>
    if n = 0 then [] else if r.2 ≤ off then partRuns (off - r.2) n l
    else (r.1 + off, min n (r.2 - off)) :: partRuns 0 (n - (r.2 - off)) l

/-- The runs of a string's buffer that hold a slice's window data. -/
def windowRuns (s : State) (c : Cmd) (i j : Nat) : List (Nat × Nat) :=
  let w := workOf c i
  w.needs.flatMap (fun n => (servingUnits s c n).flatMap (fun e => match unitOf s e with
    | none => []
    | some x => let r := needRun x.2 n w.whole j
      partRuns r.1 r.2 (x.2.ranges.getD j [])))

/-- A lost line of a string's buffer holds some of a slice's window data (01_architecture R34). -/
def awaitsLine (s : State) (c : Cmd) (i j : Nat) : Bool :=
  s.stream.refetch.any (fun x => x.string == j && (windowRuns s c i j).any (fun r =>
    decide (r.1 < 4096 * (x.line + 1)) && decide (4096 * x.line < r.1 + r.2)))

/-- A unit is ready, and a string holds a slice's part of it: that of its first row, and some part of every further unit. A row block of a
group, which consumes whole tensors on one string, takes any part (01_architecture R33; DEDUCED, log entry 13). -/
def partOk (s : State) (n : Need) (whole : Bool) (j : Nat) : List (Nat × Nat) → Bool
  | [] => false
  | e :: l => (e :: l).all (fun f => match unitOf s f with
    | none => false
    | some x => unitReady x.2 && (x.2.shares.all (· == 0) ||
        (if whole || f != e then decide (0 < x.2.shares.getD j 0) else rowString x.2 n == j)))

/-- What a slice consumes is ready, and the string's buffer holds its part (01_architecture R33, R34; 02_memory_tiers R62, R66). -/
def unitOk (s : State) (c : Cmd) (i j : Nat) : Bool :=
  let w := workOf c i
  w.needs.all (fun n => !c.streams.contains (n.handle, n.layer, n.tensor) || partOk s n w.whole j (servingUnits s c n)) && !awaitsLine s c i j

def hotOf (s : State) (e : Nat) : Option HotEntry := s.bow.hot.find? (fun h => h.id == e)

/-- The hot entry a command needs is loaded on the string (R358). -/
def hotOk (s : State) (c : Cmd) (j : Nat) : Bool :=
  match c.hot with
  | none => true
  | some e => match hotOf s e with
    | none => false
    | some h => h.loaded && decide (0 < h.banks.getD j 0)

/-- A fret is open to the bow: in service, not being taken by the partition, and running no job of the safety function. -/
def fretOpen (s : State) (i : Nat) : Bool := fretIn s i && !s.saf.forming.contains i && !s.saf.jobs.any (fun j => j.fret == some i)

/-- A fret's array stands free for the bow. -/
def fretFree (s : State) (i : Nat) : Bool := fretOpen s i && (fretOf s i).run.isNone

/-- A running slice goes beside another one of another command: one of them on the gate edge alone, the other on the array without it
(09_image_operators R333). -/
def beside (s : State) (cmd : Nat) (other : Option Run) (arrayUsesEdge : Run → Bool) : Bool :=
  match other with
  | none => true
  | some r => r.cmd != cmd && !arrayUsesEdge r && (cmdOf s r.cmd).isSome

/-- The part of a fret that a slice runs on stands free. -/
def partFree (s : State) (c : Cmd) (idx i : Nat) : Bool :=
  let w := workOf c idx
  fretOpen s i &&
  (if w.edge then (fretOf s i).edge.isNone && beside s c.id (fretOf s i).run (fun r => match cmdOf s r.cmd with
      | none => true
      | some k => (workOf k r.idx).usesEdge)
    else (fretOf s i).run.isNone && beside s c.id (fretOf s i).edge (fun _ => w.usesEdge))

/-- What a slice keeps together with: the group's other slices, the other parts of its tile's reduction, its own row tile
(06_streaming_and_fusion R236; 04_fret_arithmetic R164; 08_sequence_state R297). -/
def homeKeys (c : Cmd) (i : Nat) : List Nat :=
  let w := workOf c i
  (if c.opcode = 0x33 then [2 ^ 33] else []) ++ (if w.tile = 0 then [] else [2 ^ 32 + w.tile]) ++ (if w.stays then [i] else [])

/-- A string has the frets that a slice needs in service. -/
def stringHas (s : State) (c : Cmd) (i j : Nat) : Bool :=
  decide ((workOf c i).frets ≤ ((List.range 12).filter (fun n => fretIn s (12 * j + n) && c.safety == inPartition s (12 * j + n))).length)

/-- A fret is on the string of what a slice keeps together with, while that string can run it; a row tile goes on where its state stands when
those frets are all free. -/
def stringKept (s : State) (c : Cmd) (idx i : Nat) : Bool :=
  (homeKeys c idx).all (fun k => match smFind c.homes k with
    | none => true
    | some fs => if k < 2 ^ 32 then !fs.all (partFree s c idx) || fs.contains i
      else !stringHas s c idx (fs.headD 0 / 12) || fs.headD 0 / 12 == i / 12)

/-- A slice of a command may run on a fret: its side of the partition, the string that holds its part of its unit, and its
hot entry (01_architecture R31, R33; 10_scheduling_sharing R346, R358). -/
def suits (s : State) (c : Cmd) (idx i : Nat) : Bool :=
  (c.safety == inPartition s i) && unitOk s c idx (i / 12) && hotOk s c (i / 12) && stringKept s c idx i

/-- A slice has not faulted on a fret; when it has on every fret in service that suits it, or too few others are left for the
frets it needs, it may take that fret again (01_architecture R27, R28; DEDUCED, log entry 12). -/
def untried (s : State) (c : Cmd) (r : Retry) (i : Nat) : Bool :=
  !r.tried.contains i ||
  decide (((List.range 48).filter (fun k => fretIn s k && suits s c r.idx k && !r.tried.contains k)).length < (workOf c r.idx).frets)

/-- The next slice of a command for a fret: a waiting rerun or segment that may run there, else a fresh one. -/
def pickSlice (s : State) (c : Cmd) (i : Nat) : Option (Retry × Bool) :=
  match c.retries.find? (fun r => suits s c r.idx i && untried s c r i) with
  | some r => some (r, true)
  | none =>
    if c.slicesNext < c.work.length ∧ behindBarrier c c.slicesNext = false ∧ suits s c c.slicesNext i = true then
      some ({ idx := c.slicesNext, attempts := 0, kills := 0, tried := [], lastSram := false }, false)
    else none

/-- Some slice of a command may run on a fret next. -/
def mayRunOn (s : State) (c : Cmd) (i : Nat) : Bool := (pickSlice s c i).isSome

/-- A fret has room in its work area for a program (06_streaming_and_fusion R225). -/
def roomFor (s : State) (c : Cmd) : Bool :=
  c.opcode != 0x10 || decide (leAt c.params 8 4 + 1024 * (leAt c.params 26 2 + leAt c.params 28 2) ≤ 0x40000 * (12 - s.bow.hotBanks))

/-- A slice keeps to the frets of one string: a row block of a group and a row tile of RECURRENT (06_streaming_and_fusion
R236; 08_sequence_state R294). -/
def oneString (c : Cmd) (i : Nat) : Bool := c.opcode == 0x33 || (workOf c i).stays

/-- Frets that slice `r` of `c` would take with fret `i`: that fret and further free ones, of the same string where the slice
keeps to one; those on which it has not faulted come first (R351). -/
def fretsFor (s : State) (c : Cmd) (r : Retry) (i : Nat) : List Nat :=
  let more := (List.range 48).filter (fun j => decide (j ≠ i) && partFree s c r.idx j && suits s c r.idx j && untried s c r j &&
    (!oneString c r.idx || j / 12 == i / 12))
  i :: (more.filter (fun j => !r.tried.contains j) ++ more.filter (fun j => r.tried.contains j)).take ((workOf c r.idx).upTo - 1)

/-- The slices that a fret runs: on its array, on its gate edge. -/
def Fret.slots (f : Fret) : List Run := f.run.toList ++ f.edge.toList

/-- The frets that run slices of one column panel of a command. -/
def panelFrets (s : State) (c : Cmd) (panel : Nat) : List Nat :=
  (List.range 48).filter (fun i => (fretOf s i).slots.any (fun r => r.cmd == c.id && (workOf c r.idx).panel == panel))

/-- Free frets of a string that suit a slice. -/
def freeFor (s : State) (c : Cmd) (idx j : Nat) : Nat :=
  (((List.range 12).map (fun n => 12 * j + n)).filter (fun i => partFree s c idx i && suits s c idx i)).length

/-- Row tiles of one column panel go to frets of one string while it has frets free for them (06_streaming_and_fusion R218). -/
def panelOk (s : State) (c : Cmd) (idx i : Nat) : Bool :=
  let q := (workOf c idx).panel
  let rows := (c.work.filter (fun w => w.panel == q)).length
  if rows ≤ 1 then true else
  match panelFrets s c q with
  | [] => decide (rows ≤ freeFor s c idx (i / 12)) || [0, 1, 2, 3].all (fun j => decide (freeFor s c idx j < rows))
  | k :: _ => k / 12 == i / 12 || freeFor s c idx (k / 12) == 0

/-- Full function has been reached (19_clocks_startup R583): slices run from then on. -/
def fullFunction (s : State) : Bool := decide (6 ≤ s.clk.stage)

/-- A command is a candidate on a fret. -/
def candidate (s : State) (i : Nat) (c : Cmd) : Bool :=
  runnable c && roomFor s c && (match pickSlice s c i with
    | none => false
    | some (r, again) => decide ((workOf c r.idx).frets ≤ (fretsFor s c r i).length) && (again || panelOk s c r.idx i))

/-- A candidate whose next slice runs on a part of a fret: on its gate edge alone, or on its array. -/
def candidateAt (s : State) (i : Nat) (edge : Bool) (c : Cmd) : Bool :=
  candidate s i c && (match pickSlice s c i with
    | none => false
    | some (r, _) => (workOf c r.idx).edge == edge)

/-- A candidate whose next slice may start on a fret now. -/
def startsOn (s : State) (i : Nat) (edge : Bool) (c : Cmd) : Bool :=
  candidateAt s i edge c && (match pickSlice s c i with
    | none => false
    | some (r, _) => partFree s c r.idx i)

/-! ## The order of candidates (R346, R347; 06_streaming_and_fusion R233; 15_functional_safety R472) -/

/-- Frets running slices of a function. -/
def fretsHeld (s : State) (f : Nat) : Nat :=
  ((List.range 48).filter (fun i => (fretOf s i).slots.any (fun r => match cmdOf s r.cmd with | none => false | some c => c.func == f))).length

def belowMin (s : State) (f : Nat) : Bool := decide (fretsHeld s f < (quotaOf s f).minFrets)

/-- R233's step of a command on a fret: 0 the pass that the fret serves, 1 another pass, 2 no unit. -/
def passStep (s : State) (i : Nat) (c : Cmd) : Nat :=
  if c.units.isEmpty then 2 else match (fretOf s i).lastPass with
  | none => 1
  | some p => if (passOf s p).isSome && c.units.any (fun u => u.1 == p) then 0 else 1

/-- The pass that a fret serves: it stays with it while it goes on, whatever fills a gap (06_streaming_and_fusion R233). -/
def servedPass (s : State) (f : Fret) (us : List (Nat × Nat)) : Option Nat :=
  match f.lastPass with
  | some p => if (passOf s p).isSome then some p else us.head?.map Prod.fst
  | none => us.head?.map Prod.fst

def vportOf (s : State) (prio p : Nat) : Nat := s.bow.vport.getD (prio * 2 + p) 0
def vfuncOf (s : State) (prio f : Nat) : Nat := s.bow.vfunc.getD (prio * 16 + f) 0

/-- The key by which the bow orders candidates on a fret: least first. -/
def orderKey (s : State) (i : Nat) (c : Cmd) : List Nat :=
  if c.safety then [7 - c.prio, c.id]
  else [passStep s i c, b2n (!belowMin s c.func), 7 - c.prio, vportOf s c.prio (portOf c.func), portOf c.func,
        vfuncOf s c.prio c.func, c.func, c.id]

/-- Lexicographic order. -/
def keyLt : List Nat → List Nat → Bool
  | [], [] => false
  | [], _ :: _ => true
  | _ :: _, [] => false
  | a :: as, b :: bs => decide (a < b) || (a == b && keyLt as bs)

/-- The candidate the bow chooses for a fret, among those that satisfy `p`. -/
def choose (p : Cmd → Bool) (s : State) (i : Nat) : Option Cmd :=
  (s.hif.cmds.filter p).foldl (fun best c => match best with
    | none => some c
    | some b => if keyLt (orderKey s i c) (orderKey s i b) then some c else some b) none

/-! ## Dispatch -/

/-! A program's layout on each of its frets: the image at the start of the work area, then the data area
(06_streaming_and_fusion R215, R225; DESIGN CHOICE, log entry 17). -/

def gcoreCode (c : Cmd) : Bytes := c.params.drop 104
def workBase (i : Nat) : Nat := bankBase i 4
def dataBase (c : Cmd) (i : Nat) : Nat := workBase i + (gcoreCode c).length

/-- The registers a thread starts with (R225): those that the rule does not name hold 0 (DESIGN CHOICE, log entry 17). -/
def startRegs (c : Cmd) (i num count : Nat) : List Nat :=
  (((List.replicate 32 0).set 10 (leAt c.params 16 8)).set 11 num).set 12 count |>.set 13 (dataBase c i)

/-- Start the threads of a GCORE_RUN on its frets, with the program image in each work area (R225); nothing an earlier
attempt staged is kept (R228). -/
def startThreads (c : Cmd) (fs : List Nat) (s : State) : State :=
  if c.opcode ≠ 0x10 then s else
  let n := byteAt c.params 25
  let count := fs.length * 2 * n
  let place (k : Nat) : Nat × Nat × Nat := (fs.getD (k / (2 * n)) 0, k % (2 * n) / n, 4 + k % n)
  let ts : List GThread := (List.range count).map (fun k =>
    { fret := (place k).1, core := (place k).2.1, thread := (place k).2.2, cmd := c.id, num := k, count := count,
      regs := startRegs c (place k).1 k count, pc := workBase (place k).1 + leAt c.params 12 4 })
  let s1 := fs.foldl (fun t i => writeBytes .dev (workBase i) (gcoreCode c) t) (endThreads c.id s)
  modCmd c.id (fun c => { c with staged := [] })
    { s1 with gcore := { s1.gcore with threads := s1.gcore.threads ++ ts } }

/-! The stages of a row block (06_streaming_and_fusion R236, R237) -/

/-- Share `n` frets among stages in proportion to their array time, each within its bounds: `given` holds what each has so
far; what is left goes one by one to the stage whose frets carry the most time (DESIGN CHOICE, log entry 12). -/
def shareFrets (ps : List StagePlan) : Nat → List Nat → List Nat
  | 0, given => given
  | n + 1, given =>
    let load (k : Nat) : Nat × Nat := ((ps.getD k { tiles := 0, cost := 0 }).cost, given.getD k 1)
    let open_ := (List.range ps.length).filter (fun k => let p := ps.getD k { tiles := 0, cost := 0 }
      p.must == 0 && decide (given.getD k 1 < p.tiles))
    match open_ with
    | [] => given
    | k :: l => shareFrets ps n (modAt (l.foldl (fun a b => if (load a).1 * (load b).2 < (load b).1 * (load a).2 then b else a) k) (· + 1) given)

/-- Cut a list into runs of these lengths. -/
def cutRuns {α : Type} : List Nat → List α → List (List α)
  | [], _ => []
  | n :: ns, l => l.take n :: cutRuns ns (l.drop n)

/-- The frets of each stage of a row block that runs on `fs`: consecutive stages share a fret when stages outnumber frets. -/
def stageFrets (ps : List StagePlan) (fs : List Nat) : List (List Nat) :=
  let least := ps.map (fun p => max 1 p.must)
  let sum := least.foldl (· + ·) 0
  if fs.length < sum then ps.mapIdx (fun k p => if 0 < p.must then fs.take p.must else [fs.getD (k * fs.length / max 1 ps.length) 0])
  else cutRuns (shareFrets ps (fs.length - sum) least) fs

/-- The hand-overs of a row block: none between stages that share their frets. -/
def handsOf (ps : List StagePlan) (stages : List (List Nat)) : List HandOver :=
  (List.range (ps.length - 1)).map (fun k =>
    let next := stages.getD (k + 1) []
    { data := if stages.getD k [] = next then [] else (ps.getD k { tiles := 0, cost := 0 }).data
      tiles := ceilDiv (ps.getD (k + 1) { tiles := 0, cost := 0 }).tiles (max 1 next.length)
      rings := next.map (fun i => { fret := i }) })

/-! Window pieces (06_streaming_and_fusion R216, R217) -/

/-- The largest window piece. -/
def pieceMax : Nat := 0x80000

/-- Bytes that the fret DMA moves for the steps of a slice behind the first `seg`; weights that stay on the fret are moved whole. -/
def bytesFrom (w : Work) (seg : Nat) : Nat := if w.stays then w.bytes else ceilDiv (w.bytes * (w.ends.length - seg)) (max 1 w.ends.length)

/-- A fret starts a slice: a first piece that it holds already stays, and the weights of a row tile that goes on there; the other buffers are
free. -/
def startWindow (stays : Bool) (run : Run) (f : Fret) : Fret :=
  let keep (x : Option Win) : Option Win := match x with
    | none => none
    | some w => if w.cmd = run.cmd ∧ w.idx = run.idx ∧ (stays = true ∨ (w.piece = 0 ∧ run.seg = 0)) then some w else none
  let win := f.win.map keep
  { f with run := some run, win := win, begun := (win.filter Option.isSome).length, queued := none }

/-- The step behind which a segment ends: the whole of what is left when it takes no longer than the slice length in force, else a free place
within it (10_scheduling_sharing R350; DESIGN CHOICE, log entry 12). -/
def segTill (s : State) (w : Work) (seg : Nat) : Nat :=
  let n := w.ends.length
  let cap := if w.step = 0 then n else max 1 ((400 * s.bow.sliceUs - 256) / w.step)
  if n ≤ seg + cap then n else seg + 1 + Config.freeNat s.free % cap

/-- A slice that starts says where what keeps together with it runs. -/
def setHomes (idx i : Nat) (c : Cmd) : Cmd :=
  { c with homes := ((homeKeys c idx).filter (fun k => decide (2 ^ 32 ≤ k))).foldl (fun m k => smPut k [i] m) c.homes }

/-- The run record of a slice that starts. -/
def startSlice (c : Cmd) (i : Nat) (s : State) : State :=
  match pickSlice s c i with
  | none => s
  | some (r, again) =>
    let fs := fretsFor s c r i
    let w := workOf c r.idx
    let plan := w.plan
    let stages := stageFrets plan fs
    let run : Run := { cmd := c.id, idx := r.idx, seg := r.seg, till := segTill s w r.seg, start := s.now, attempts := r.attempts, kills := r.kills,
                       tried := r.tried, frets := fs, stages := stages, hands := handsOf plan stages }
    let s1 := { s with bow := { s.bow with
      frets := s.bow.frets.mapIdx (fun j f => if fs.contains j then
        if w.edge then { f with edge := some run } else { startWindow w.stays run f with lastPass := servedPass s f (sliceUnits s c r.idx) } else f)
      hits := if c.hot.isSome then wrapAdd 32 s.bow.hits 1 else s.bow.hits
      hot := s.bow.hot.map (fun h => if c.hot = some h.id then { h with lastUse := s.now } else h) } }
    startThreads c fs (drawn 1 (modCmd c.id (fun c => setHomes r.idx i (if again then { c with retries := c.retries.erase r }
      else { c with slicesNext := c.slicesNext + 1 })) s1))

/-! Jobs of Channel A on the partition's frets (15_functional_safety R472) -/

/-- A waiting job may take a fret: one on which it has not faulted, while the partition has one (01_architecture R28, R31). -/
def jobMay (s : State) (i : Nat) (j : SafJob) : Bool :=
  j.fret.isNone && (!j.tried.contains i || s.saf.partition.all (fun k => j.tried.contains k || !fretIn s k))

/-- The next job for a partition fret: the golden job of the newest frame, else the frame job of the oldest. -/
def nextJob (s : State) (i : Nat) : Option SafJob :=
  match (s.saf.jobs.filter (fun j => j.golden && jobMay s i j)).getLast? with
  | some j => some j
  | none => match s.saf.jobs.find? (fun j => !j.golden && j.fret.isNone) with
    | none => none
    | some j => if jobMay s i j then some j else none

def modJob (frame : Nat) (golden : Bool) (g : SafJob → SafJob) (s : State) : State :=
  { s with saf := { s.saf with jobs := s.saf.jobs.map (fun j => if j.frame = frame ∧ j.golden = golden then g j else j) } }

/-- A job's fret has left the partition or service: it runs again elsewhere (15_functional_safety R473). -/
def requeueJobs (s : State) : State :=
  { s with saf := { s.saf with jobs := s.saf.jobs.map (fun j => match j.fret with
      | none => j
      | some i => if fretIn s i && inPartition s i then j else { j with fret := none }) } }

/-- Give the part of a fret its next slice. -/
def dispatchAt (edge : Bool) (s : State) (i : Nat) : State :=
  if !fullFunction s then s else
  match choose (startsOn s i edge) s i with
  | none => s
  | some c => startSlice c i s

/-- Give one fret its next slices: a job of the safety function comes before all others, and its gate edge may take a slice of its own beside its
array's. -/
def dispatchOn (s : State) (i : Nat) : State :=
  match (if inPartition s i && fretFree s i && (fretOf s i).edge.isNone then nextJob s i else none) with
  | some j => modJob j.frame j.golden (fun x => { x with fret := some i }) s
  | none => dispatchAt true (dispatchAt false s i) i

/-- Give the slice queued behind a fret's running one back to its command (06_streaming_and_fusion R217). -/
def unqueue (s : State) (i : Nat) : State :=
  match (fretOf s i).queued with
  | none => s
  | some q => modCmd q.1 (fun c => if c.phase = .running then { c with retries := q.2 :: c.retries } else c)
      (modFret i (fun f => { f with queued := none }) s)

/-- When a fret falls free, the queued slices are chosen among again with all others (R346). -/
def unqueueAll (s : State) : State :=
  if (List.range 48).any (fretFree s) then (List.range 48).foldl unqueue s
  else ((List.range 48).filter (fun i => (fretOf s i).run.isNone)).foldl unqueue s

/-- Give every free fret its next slice, the lowest fret first (DEDUCED, log entry 12). -/
def dispatchFrets (s : State) : State := (List.range 48).foldl dispatchOn (requeueJobs (unqueueAll s))

/-! ## Weighted fair sharing (R347) -/

/-- Least common multiple of 1 to 255: virtual times are kept in this fraction of an array cycle. -/
def wfsScale : Nat := (List.range 255).foldl (fun a i => Nat.lcm a (i + 1)) 1
def weightOf (s : State) (f : Nat) : Nat := max 1 (quotaOf s f).weight
def portWeight (s : State) (p : Nat) : Nat := max 1 (if p = 0 then s.bow.k else 16 - s.bow.k)

/-- Charge `c` array cycles to a function at a level. -/
def charge (f prio c : Nat) (s : State) : State :=
  { s with bow := { s.bow with
      vfunc := modAt (prio * 16 + f) (fun v => v + c * wfsScale / weightOf s f) s.bow.vfunc
      vport := modAt (prio * 2 + portOf f) (fun v => v + c * wfsScale / portWeight s (portOf f)) s.bow.vport } }

/-- Functions with runnable slices at a level, other than `f`. -/
def othersRunnable (s : State) (prio f : Nat) : List Nat :=
  (List.range 16).filter (fun g => decide (g ≠ f) && s.hif.cmds.any (fun c => c.func == g && c.prio == prio && runnable c))

/-- A function, and its port, become runnable at a level after having had nothing runnable there. -/
def joinLevel (f prio : Nat) (s : State) : State :=
  if s.hif.cmds.any (fun c => c.func == f && c.prio == prio && runnable c) then s else
  let same := (othersRunnable s prio f).filter (fun g => portOf g == portOf f)
  let other := (othersRunnable s prio f).filter (fun g => portOf g != portOf f)
  let vf := match same with
    | [] => vfuncOf s prio f
    | g :: gs => max (vfuncOf s prio f) (gs.foldl (fun a h => min a (vfuncOf s prio h)) (vfuncOf s prio g))
  let vp := if same.isEmpty && !other.isEmpty then max (vportOf s prio (portOf f)) (vportOf s prio (1 - portOf f))
    else vportOf s prio (portOf f)
  { s with bow := { s.bow with
      vfunc := setAt (prio * 16 + f) vf s.bow.vfunc, vport := setAt (prio * 2 + portOf f) vp s.bow.vport } }

/-- A command's row has cut its work into slices: it holds its results in staging and waits for frets. -/
def startWork (c : Cmd) (segs : List Seg) (result : Nat) (work : List Work) (s : State) : State :=
  if work.isEmpty then stageDone c.id segs result s else
  modCmd c.id (fun c => { c with phase := .running, staged := segs, result := result, work := work,
                                 slicesNext := 0, slicesDone := 0, retries := [], saved := [] })
    (joinLevel c.func c.prio s)

/-! ## The end of a slice -/

/-- A fret is free: its buffers hold no piece of a slice that has ended; `stays`: its weights stay for the next run of steps. -/
def leaveFret (stays : Bool) (r : Run) (f : Fret) : Fret :=
  { f with run := none, begun := 0, win := if stays then f.win else f.win.map (fun x => match x with
    | none => none
    | some w => if w.cmd = r.cmd ∧ w.idx = r.idx then none else some w) }

/-- Free the frets of a run. -/
def freeRun (stays : Bool) (r : Run) (s : State) : State :=
  { s with bow := { s.bow with frets := s.bow.frets.map (fun f => if f.run = some r then leaveFret stays r f
    else if f.edge = some r then { f with edge := none } else f) } }
def freeFrets (r : Run) (s : State) : State := freeRun false r s

/-- The array of a fret holds what a slice left in it, and nothing of the slices before: a tile begins with cleared lanes
(04_fret_arithmetic R132, R154). -/
def leaveArray (i : Nat) (x : ArrayEnd) (s : State) : State :=
  modFret i (fun f => { f with lanes := x.lanes.foldl (fun m p => smSet {} p.1 p.2 m) [], rems := x.rems.foldl (fun m p => smSet 0 p.1 p.2 m) [] }) s
def leaveArrays (fs : List Nat) (xs : List ArrayEnd) (s : State) : State := (fs.zip xs).foldl (fun t p => leaveArray p.1 p.2 t) s

/-- The accumulators and compensation registers of a slice that a fault ends are discarded (04_fret_arithmetic R167). -/
def clearArrays (fs : List Nat) (s : State) : State := fs.foldl (fun t i => modFret i (fun f => { f with lanes := [], rems := [] }) t) s

/-- What a slice's segment saved, in place of what the one before saved. -/
def saveSeg (idx : Nat) (words : List Nat) (l : List (Nat × List Nat)) : List (Nat × List Nat) :=
  l.filter (fun p => decide (p.1 ≠ idx)) ++ [(idx, words)]

/-- Work areas hold what the segment leaves there (08_sequence_state R296). -/
def leaveArea (fs : List Nat) (bs : Bytes) (s : State) : State :=
  if bs.isEmpty then s else fs.foldl (fun t i => writeBytes .dev (workBase i) bs t) s

/-- What the stages of a row block leave on their frets. -/
def leaveStages (r : Run) (plan : List StagePlan) (s : State) : State :=
  (r.stages.zip plan).foldl (fun t p => leaveArea p.1 p.2.area (leaveArrays p.1 p.2.array t)) s

/-- A segment of a slice ends well: its state is saved and the next one waits; the last ends the slice (R350). Attempts count
over a tile, since a fault takes it back to its start (04_fret_arithmetic R167; DEDUCED, log entry 12), and of RECURRENT over
each run of steps (08_sequence_state R297). -/
def endSlice (r : Run) (cycles : Nat) (s : State) : State :=
  match cmdOf s r.cmd with
  | none => freeFrets r s
  | some c =>
    let w := workOf c r.idx
    let k := r.till - 1
    let more := decide (r.till < w.ends.length)
    let s1 := leaveStages r w.plan (leaveArea r.frets (w.area.getD k []) (charge c.func c.prio cycles
      (leaveArrays r.frets (w.array.getD k []) (freeRun (w.stays && more) r s))))
    joinLevel c.func c.prio s1 |> fun s2 =>
    if more then
      modCmd c.id (fun c => { c with
        saved := saveSeg r.idx (w.ends.getD k []) c.saved,
        homes := if w.stays then smPut r.idx r.frets c.homes else c.homes,
        retries := c.retries ++ [{ idx := r.idx, seg := r.till, attempts := if w.stays then 0 else r.attempts, kills := 0,
                                   tried := if w.stays then [] else r.tried, lastSram := false }] }) s2
    else
      modCmd c.id (fun c =>
        { c with slicesDone := c.slicesDone + 1,
                 saved := if w.keeps.isEmpty then c.saved.filter (fun p => decide (p.1 ≠ r.idx)) else saveSeg r.idx w.keeps c.saved,
                 homes := c.homes.filter (fun p => decide (p.1 ≠ r.idx)),
                 phase := if c.work.length ≤ c.slicesDone + 1 then .done else c.phase })
        (if c.work.length ≤ c.slicesDone + 1 then s1 else s2)

/-- Put a discarded slice back among those that wait: its function may become runnable again (R347), and what it held on its frets is
gone. -/
def requeue (id : Nat) (r : Retry) (s : State) : State :=
  match cmdOf s id with
  | none => s
  | some c => modCmd id (fun c => { c with retries := c.retries ++ [r], homes := c.homes.filter (fun p => decide (p.1 ≠ r.idx)) })
      (joinLevel c.func c.prio s)

/-- The slices running now, each once. -/
def runningSlices (s : State) : List Run :=
  (s.bow.frets.flatMap Fret.slots).eraseDups

/-! ## Zeroing and hot entries (R358 to R362; 16_security R510) -/

/-- Zero the window buffers and hot banks of a fret. -/
def zeroFretWeights (i : Nat) (s : State) : State :=
  let s1 := zeroDev (fretBase i) 0x100000 s
  zeroDev (bankBase i (16 - s.bow.hotBanks)) (0x40000 * s.bow.hotBanks) s1

/-- Zero a fret's whole SRAM. -/
def zeroFret (i : Nat) (s : State) : State := zeroDev (fretBase i) 0x400000 s
def zeroBuffer (j : Nat) (s : State) : State := zeroDev (stringBufBase j) 0x1000000 s

/-- Evict a hot entry: its banks are zeroed and freed. -/
def evictHot (e : Nat) (s : State) : State :=
  match hotOf s e with
  | none => s
  | some h =>
    let banks := (List.range 48).flatMap (fun i =>
      (maskBits 16 (h.banks.getD (i / 12) 0)).map (fun b => bankBase i b))
    let s1 := banks.foldl (fun t a => zeroDev a 0x40000 t) s
    { s1 with bow := { s1.bow with hot := s1.bow.hot.map (fun x =>
        if x.id = e then { x with banks := [0, 0, 0, 0], loaded := false, switching := false } else x) } }

/-- Entries with a part in a bank of a string. -/
def hotInBank (s : State) (j b : Nat) : List Nat :=
  (s.bow.hot.filter (fun h => bit (h.banks.getD j 0) b)).map (fun h => h.id)

/-- Evict every hot entry that holds a bank of the string. -/
def evictString (j : Nat) (s : State) : State :=
  ((s.bow.hot.filter (fun h => decide (0 < h.banks.getD j 0))).map (fun h => h.id)).foldl (fun t e => evictHot e t) s

/-- An entry that new commands find: its MODEL_PLACE has committed, and nothing has replaced it. -/
def liveHot (h : HotEntry) : Bool := !h.old && h.staged.isNone

/-- The entry's handle is pinned by a valid BOW_HOT_PIN_n of its function's port. -/
def pinned (s : State) (h : HotEntry) : Bool :=
  !h.old && (funcsOf (portOf h.func)).any (fun f =>
    let p := s.bow.pins.getD f {}
    p.valid && p.model == h.handle)

/-- Frets of a string outside the safety partition. -/
def openFrets (s : State) (j : Nat) : Nat :=
  ((List.range 12).filter (fun i => !inPartition s (12 * j + i))).length

/-- Bytes of one string-bank. -/
def stringBankBytes (s : State) (j : Nat) : Nat := 0x40000 * openFrets s j

/-- Hot-set bytes that banks count: whole string-banks (R338; DEDUCED, log entry 68). -/
def bankUse (s : State) (banks : List Nat) : Nat :=
  sumBy (fun j => popcount 16 (banks.getD j 0) * stringBankBytes s j) [0, 1, 2, 3]
def hotUse (s : State) (h : HotEntry) : Nat := bankUse s h.banks

/-- The hot banks of a string that no entry holds. -/
def freeHotBanks (s : State) (j : Nat) : List Nat :=
  ((List.range 16).filter (fun b => decide (16 - s.bow.hotBanks ≤ b))).filter (fun b => (hotInBank s j b).isEmpty)

/-- Fill string by string until `need` bytes are held; none when they do not fit. -/
def fillStrings (s : State) : List Nat → Nat → Option (List Nat)
  | [], need => if need = 0 then some [] else none
  | j :: js, need =>
    let per := stringBankBytes s j
    let n := if per = 0 || !stringIn s j then 0 else min (freeHotBanks s j).length (ceilDiv need per)
    (fillStrings s js (need - n * per)).map (fun l => ofBits ((freeHotBanks s j).take n) :: l)

/-- Banks for an entry would put its function over its `hot_mib` (R338). -/
def overHot (s : State) (e : Nat) (banks : List Nat) : Bool :=
  match hotOf s e with
  | none => false
  | some h => decide (0x100000 * (quotaOf s h.func).hotMib <
      bankUse s banks + sumBy (fun x => if x.func = h.func ∧ x.id ≠ e then hotUse s x else 0) s.bow.hot)

/-- The function of an entry. -/
def hotFunc (s : State) (e : Nat) : Option Nat := (hotOf s e).map (fun h => h.func)

/-- The unpinned entry least recently dispatched that has no running slice; `own`: of this function alone. -/
def evictable (s : State) (not : Nat) (own : Option Nat) : Option HotEntry :=
  (s.bow.hot.filter (fun h => decide (h.id ≠ not) && h.loaded && !pinned s h && (own.isNone || own == some h.func) &&
    !(runningSlices s).any (fun r => match cmdOf s r.cmd with | none => false | some c => c.hot == some h.id))).foldl
      (fun best h => match best with
        | none => some h
        | some b => if h.lastUse < b.lastUse then some h else some b) none

/-- Evict an entry and go on with `next`. -/
def evictThen (own : Option Nat) (e : Nat) (next : State → State × Option (List Nat)) (s : State) : State × Option (List Nat) :=
  match evictable s e own with
  | none => (s, none)
  | some v => next (evictHot v.id s)

/-- One try of `makeRoom`: place the entry, or evict the least recently used one and go on with `next`: one of its own
function when its quota stands against it (R338). -/
def roomStep (e need : Nat) (next : State → State × Option (List Nat)) (s : State) : State × Option (List Nat) :=
  match fillStrings s (List.range s.bow.strings.length) need with
  | some l => if overHot s e l then evictThen (hotFunc s e) e next s else (s, some l)
  | none => evictThen none e next s

/-- Find banks for an entry, evicting as R359 states; `fuel` bounds the evictions. -/
def makeRoom (e need : Nat) : Nat → State → State × Option (List Nat)
  | 0, s => (s, none)
  | fuel + 1, s => roomStep e need (makeRoom e need fuel) s

/-- Start the switch of an entry (R359, R360); it ends with HOT_SWITCH_DONE. -/
def startSwitch (e : Nat) (s : State) : State :=
  match hotOf s e with
  | none => s
  | some h =>
    if h.loaded || h.switching then s else
    match makeRoom e h.bytes (s.bow.hot.length + 1) s with
    | (_, none) => s
    | (s1, some banks) =>
      { s1 with bow := { s1.bow with
          switches := wrapAdd 32 s1.bow.switches 1
          hot := s1.bow.hot.map (fun x => if x.id = e then { x with banks := banks, switching := true } else x) } }

/-- A command that waits for its hot entry: for its slices, or a MODEL_PLACE for its first switch (R57). -/
def waitsHot (c : Cmd) : Bool := runnable c || (c.opcode == 0x23 && decide (c.phase = .running))

/-- The entries of the verifiers that plans wait for (11_listening_wake R386). -/
def verifierEntries (s : State) : List Nat :=
  (s.drone.plans.filter (fun p => decide (p.state = .verifying))).flatMap (fun p =>
    (s.bow.hot.filter (fun h => h.handle == leAt p.block 10 2 && liveHot h)).map (fun h => h.id))

/-- Start the switches that are due: of pinned entries that are not loaded, and of those that waiting commands and verifiers need,
under policy 1 of pinned ones alone (R359). -/
def startSwitches (s : State) : State :=
  let s0 := (s.bow.hot.filter (fun h => pinned s h && h.staged.isNone && !h.loaded && !h.switching)).foldl (fun t h => startSwitch h.id t) s
  ((s.hif.cmds.filter waitsHot).filterMap (fun c => c.hot) ++ verifierEntries s).foldl (fun t e => match hotOf t e with
    | none => t
    | some h => if t.bow.policy = 0 || pinned t h then startSwitch e t else t) s0

/-- The bow acts: it starts the switches that are needed and gives the free frets their slices. -/
def dispatch (s : State) : State := dispatchFrets (startSwitches s)

/-! ## Faults, reruns and quarantine (01_architecture R25 to R36) -/

/-- End a running slice that must rerun without a fault, a kill or an event: an engine reset, a refetch, a
partition's fret (R34; 17_firmware_reset R546; 15_functional_safety R473). -/
def rerunQuietly (r : Run) (s : State) : State :=
  requeue r.cmd { idx := r.idx, seg := r.seg, attempts := r.attempts, kills := r.kills, tried := r.tried,
                  lastSram := false } (endThreads r.cmd (freeFrets r s))

/-- The segment from which a slice runs again after a fault: a tile from its start (04_fret_arithmetic R167), a row tile of
RECURRENT from its last saved state (08_sequence_state R297). -/
def restartSeg (c : Cmd) (r : Run) : Nat := if (workOf c r.idx).stays then r.seg else 0

/-- What a slice saved before a fault is discarded with its tile, but for a row tile's last checkpoint. -/
def dropSaved (c : Cmd) (idx : Nat) (s : State) : State :=
  if (workOf c idx).stays then s else modCmd c.id (fun c => { c with saved := c.saved.filter (fun p => decide (p.1 ≠ idx)) }) s

/-- End a running slice by a fault of fret `i`: rerun on another fret, or after the third attempt fail the command (R28). Of a
slice on several frets only the one that faulted is barred from the rerun (DESIGN CHOICE, log entry 12). -/
def faultSlice (i : Nat) (sram : Bool) (r : Run) (s : State) : State :=
  match cmdOf s r.cmd with
  | none => freeFrets r s
  | some c =>
    let s1 := dropSaved c r.idx (clearArrays r.frets (endThreads c.id (freeFrets r s)))
    if 3 ≤ r.attempts + 1 then
      failCmd c.id (if sram then { status := stSramUnc, result := i }
                    else { status := stInternal, result := 0x7 * 2 ^ 28 + i }) s1
    else
      postTo c.func 0x0001 i c.tag c.ring
        (requeue c.id { idx := r.idx, seg := restartSeg c r, attempts := r.attempts + 1, kills := r.kills, tried := r.tried ++ [i],
                        lastSram := sram } s1)

/-- The highest-numbered fret of a string that is in service outside the partition. -/
def partitionSpare (s : State) (j : Nat) : Option Nat :=
  ((List.range 12).map (fun n => 12 * j + 11 - n)).find? (fun i => fretIn s i && !inPartition s i)

def partMoved (s : State) : State := { s with safMore := { s.safMore with events := s.safMore.events ||| 32 } }

/-- Take the slices of other domains off the frets the partition takes (R473). -/
def clearForPartition (fs : List Nat) (s : State) : State :=
  ((runningSlices s).filter (fun r => r.frets.any (fun i => fs.contains i))).foldl (fun t r => rerunQuietly r t) s

/-- A partition fret leaves service: take another of the string, or run one short (R473). -/
def partitionReplace (i : Nat) (s : State) : State :=
  if !inPartition s i then s else
  let left := s.saf.partition.filter (fun x => decide (x ≠ i))
  match partitionSpare s (i / 12) with
  | none => { s with saf := { s.saf with partition := left } }
  | some n => partMoved (clearForPartition [n] { s with saf := { s.saf with partition := n :: left } })

/-- The frets a partition of `n` takes on a string: the highest-numbered in service (R470). -/
def partitionFrets (s : State) (j n : Nat) : List Nat :=
  (((List.range 12).map (fun k => 12 * j + 11 - k)).filter (fretIn s)).take n

/-- The partition's string leaves service: re-form on the lowest other string that has the frets, or latch cause 6
(R473). -/
def partitionMove (j : Nat) (s : State) : State :=
  if s.saf.partition.isEmpty || s.saf.partString ≠ j then s else
  let n := byteAt s.saf.config 3
  match [0, 1, 2, 3].find? (fun k => decide (k ≠ j) && decide ((partitionFrets s k n).length = n)) with
  | none => latch 6 { s with saf := { s.saf with partition := [] } }
  | some k =>
    let fs := partitionFrets s k n
    partMoved (clearForPartition fs { s with saf := { s.saf with partition := fs, partString := k } })

/-- Quarantine a string: event, reruns of its slices, its hot entries evicted, its memories zeroed (R35, R510). -/
def quarantineString (j cause : Nat) (s : State) : State :=
  if (stringOf s j).quarantined then s else
  let s1 := modString j (fun x => { x with quarantined := true, cause := cause }) s
  let s2 := postBoth 0x0003 j cause 0xFFFF s1
  let runs := (runningSlices s2).filter (fun r => r.frets.any (fun i => i / 12 == j))
  let s3 := runs.foldl (fun t r => faultSlice ((r.frets.find? (fun i => i / 12 == j)).getD 0) false r t) s2
  let s4 := zeroBuffer j ((List.range 12).foldl (fun t n => zeroFretWeights (12 * j + n) t) (evictString j s3))
  partitionMove j s4

/-- Quarantine a fret: event, the partition's replacement, and the string's when it is the third (R30, R35). -/
def quarantineFret (i : Nat) (s : State) : State :=
  if (fretOf s i).quarantined then s else
  let s1 := modFret i (fun x => { x with quarantined := true }) s
  let s2 := zeroFretWeights i (postBoth 0x0002 i 0 0xFFFF s1)
  let s3 := partitionReplace i s2
  let n := ((List.range 12).filter (fun k => (fretOf s3 (12 * (i / 12) + k)).quarantined)).length
  if 3 ≤ n then quarantineString (i / 12) 1 s3 else s3

/-- 60 s of device time. -/
def sixtySeconds : Nat := 60 * 1000000 * 384000

/-- A fault strikes the job that a fret runs: it runs again on another partition fret, and after the third attempt it never ends
(01_architecture R27, R28, R31; DESIGN CHOICE, log entry 36). -/
def faultJob (i : Nat) (s : State) : State :=
  match s.saf.jobs.find? (fun j => j.fret == some i) with
  | none => s
  | some j =>
    if 3 ≤ j.attempts + 1 then { s with saf := { s.saf with jobs := s.saf.jobs.filter (fun k => k != j) } } else
    let tag := match s.saf.runCmd.bind (cmdOf s) with | none => 0 | some c => c.tag
    postTo s.saf.safetyFunc 0x0001 i tag (runRing s)
      (modJob j.frame j.golden (fun x => { x with fret := none, attempts := x.attempts + 1, tried := x.tried ++ [i] }) s)

/-- A fault ends the slice of a part of a fret. -/
def strike (i : Nat) (sram : Bool) (x : Struck) (s : State) : State :=
  match (match x with | .nothing => none | .array => (fretOf s i).run | .edge => (fretOf s i).edge) with
  | none => if x = .array then faultJob i s else s
  | some r => faultSlice i sram r s

/-- A fret fault: count it, end the slices that it strikes, quarantine when R30 says so. -/
def fretFaulted (i : Nat) (sram : Bool) (struck : List Struck) (s : State) : State :=
  let f := fretOf s i
  let s1 := modFret i (fun x => { x with faults := x.faults + 1, lastFault := some s.now }) s
  let s2 := struck.foldl (fun t x => strike i sram x t) s1
  let recent := match f.lastFault with
    | none => false
    | some t => decide (s.now ≤ t + sixtySeconds)
  if recent || decide (4 ≤ f.faults + 1) then quarantineFret i s2 else s2

/-! ## Pre-emption (R352 to R355) -/

/-- A waiting command may pre-empt a running slice's command: by its level, or by its function's minimum. -/
def mayPreempt (s : State) (w v : Cmd) : Bool :=
  (bit s.bow.levels w.prio && decide (v.prio < w.prio)) ||
  (belowMin s w.func && decide ((quotaOf s v.func).minFrets < fretsHeld s v.func))

/-- Kill a running slice (R354): it reruns later, or its command completes PREEMPTED when it asks so. -/
def killSlice (p : Run × Cmd) (s : State) : State :=
  let r := p.1
  let lost := (s.now - r.start) / 384000 * r.frets.length
  let s1 := endThreads r.cmd (freeFrets r s)
  let s2 := { s1 with bow := { s1.bow with kills := wrapAdd 32 s1.bow.kills 1, lostUs := wrapAdd 32 s1.bow.lostUs lost } }
  if p.2.showPreempt then failCmd r.cmd { status := stPreempted, result := 0 } s2
  else requeue r.cmd { idx := r.idx, seg := r.seg, attempts := r.attempts, kills := r.kills + 1, tried := r.tried,
                       lastSram := false } s2

/-- A waiting command's slice that starts on a fret of a run once that is killed: on all the frets it spans, as at any dispatch (R351). -/
def takes (s : State) (w : Cmd) (r : Run) : Option Nat := r.frets.find? (fun i => startsOn s i false w || startsOn s i true w)

/-- Runs that may be killed for `w`: its next slice starts in the place of each. -/
def victims (s : State) (w : Cmd) : List (Run × Cmd) :=
  (runningSlices s).filterMap (fun r => match cmdOf s r.cmd with
    | none => none
    | some v =>
      if !v.safety && decide (r.kills < 2) && decide (v.phase = .running) && mayPreempt s w v &&
         (takes (killSlice (r, v) s) w r).isSome
      then some (r, v) else none)

/-- The key of a victim: lowest priority, not GCORE_RUN, latest start. -/
def victimKey (s : State) (p : Run × Cmd) : List Nat := [p.2.prio, b2n (p.2.opcode == 0x10), s.now - p.1.start]

def chooseVictim (s : State) (w : Cmd) : Option (Run × Cmd) :=
  (victims s w).foldl (fun best p => match best with
    | none => some p
    | some b => if keyLt (victimKey s p) (victimKey s b) then some p else some b) none

/-- Grace has expired for a waiting command: one victim's frets go to it (R352). -/
def preempt (w : Cmd) (s : State) : State :=
  match chooseVictim s w with
  | none => s
  | some p =>
    let s1 := killSlice p s
    match takes s1 w p.1 with
    | none => s1
    | some i => startSlice w i s1

end Sys2Proof.Machine
end

