-- ==== Sys2Proof/Machine/Chunk.lean ====
section
/-! DEFINITION. Machine/Chunk.lean: the Ronzer packed stream (02_memory_tiers R69 to R75): the header, the code
table, the canonical codes and the decoding of one 4,096-byte chunk. -/

namespace Sys2Proof.Machine
open Sys2Proof

def chunkKind (c : Bytes) : Nat := bf (byteAt c 0) 3 0
def chunkFmt (c : Bytes) : Nat := bf (byteAt c 0) 7 4
def chunkLines (c : Bytes) : Nat := leAt c 2 2
def chunkOutOffset (c : Bytes) : Nat := leAt c 4 4
def chunkPayloadBits (c : Bytes) : Nat := leAt c 8 2
def chunkCrc (c : Bytes) : Nat := leAt c 10 2

/-- Symbols of a kind, and where its payload begins (R70, R71). -/
def chunkSyms (kind : Nat) : Nat := if kind = 1 then 16 else 256
def chunkPayloadAt (kind : Nat) : Nat := if kind = 0 then 64 else if kind = 1 then 24 else 144

/-- The code lengths of a table: symbol 2j in the low nibble of byte j, 2j + 1 in the high one (R70). -/
def codeLengths (c : Bytes) (kind : Nat) : List Nat :=
  (List.range (chunkSyms kind)).map (fun i => let b := byteAt c (16 + i / 2); if i % 2 = 0 then b % 16 else b / 16)

/-- Symbols of one code length. -/
def lenCount (ls : List Nat) (n : Nat) : Nat := if n = 0 then 0 else (ls.filter (fun l => l == n)).length

/-- The first code of each length 1 to 15 (R72). -/
def firstCodes (ls : List Nat) : List Nat :=
  ((List.range 15).foldl (fun (acc : List Nat × Nat) i =>
    let code := (acc.2 + lenCount ls i) * 2
    (acc.1 ++ [code], code)) ([], 0)).1

/-- The canonical code of each symbol that has one: length, code, symbol (R72). -/
def codeTable (ls : List Nat) : List (Nat × Nat × Nat) :=
  ((List.range ls.length).foldl (fun (acc : List (Nat × Nat × Nat) × List Nat) sym =>
    let l := ls.getD sym 0
    if l = 0 then acc
    else (acc.1 ++ [(l, acc.2.getD (l - 1) 0, sym)], modAt (l - 1) (· + 1) acc.2)) ([], firstCodes ls)).1

/-- Σ 2^−len in units of 2^−15 is at most 1 (R74). -/
def kraftOk (ls : List Nat) : Bool := decide (sumKraft ls ≤ 32768)
where sumKraft (ls : List Nat) : Nat := ls.foldl (fun a l => if l = 0 then a else a + 2 ^ (15 - l)) 0

/-- The bits of bytes, most significant first (R71). -/
def bitsOf (bs : Bytes) : List Bool := bs.flatMap (fun b => (List.range 8).map (fun i => b.toNat.testBit (7 - i)))

/-- Read one symbol: take bits until a code of the table matches; 15 bits at most. -/
def readSym (t : List (Nat × Nat × Nat)) : Nat → Nat → Nat → List Bool → Option (Nat × List Bool)
  | 0, _, _, _ => none
  | _ + 1, _, _, [] => none
  | fuel + 1, len, code, b :: bs =>
    let code := code * 2 + b2n b
    match t.find? (fun e => e.1 == len + 1 && e.2.1 == code) with
    | some e => some (e.2.2, bs)
    | none => readSym t fuel (len + 1) code bs

/-- Read `n` symbols. -/
def readSyms (t : List (Nat × Nat × Nat)) : Nat → List Bool → Option (List Nat)
  | 0, _ => some []
  | n + 1, bs => match readSym t 15 0 0 bs with
    | none => none
    | some (x, rest) => (readSyms t n rest).map (fun l => x :: l)

/-- Output bytes of CODED4 symbols, low nibble first (R73). -/
def packNibbles : List Nat → Bytes
  | lo :: hi :: l => BitVec.ofNat 8 (lo + 16 * hi) :: packNibbles l
  | [lo] => [BitVec.ofNat 8 lo]
  | [] => []

/-- The decoded bytes of a chunk; none when it fails under R74. -/
def decodeChunk (c : Bytes) : Option Bytes :=
  let kind := chunkKind c
  if 3 ≤ kind ∨ chunkFmt c ≠ 1 then none else
  let at_ := chunkPayloadAt kind
  let bits := chunkPayloadBits c
  if 8 * 4096 < 8 * at_ + bits then none else
  let out := if kind = 0 then (if bits < chunkLines c * 512 then none else some (padTo (chunkLines c * 64) (c.drop at_))) else
    let ls := codeLengths c kind
    if !kraftOk ls then none else
    let n := chunkLines c * 64 * (if kind = 1 then 2 else 1)
    (readSyms (codeTable ls) n ((bitsOf (c.drop at_)).take bits)).map
      (fun l => if kind = 1 then packNibbles l else l.map (BitVec.ofNat 8))
  match out with
  | none => none
  | some o => if crc16 o = chunkCrc c then some o else none

/-- Lay decoded pieces, each at its byte offset, into an output of `n` bytes. -/
def layPieces (n : Nat) (ps : List (Nat × Bytes)) : Bytes :=
  ps.foldl (fun o p => (o.take p.1 ++ p.2 ++ o.drop (p.1 + p.2.length)).take n) (zeros n)

end Sys2Proof.Machine
end

