-- ==== Sys2Proof/Machine/Weights.lean ====
section
/-! DEFINITION. Machine/Weights.lean: installed images, who may use them, their plaintext, their tensors, and where
a function's placement holds each tensor (02_memory_tiers R54 to R59, R64, R65, R614; 16_security R504 to R506;
15_functional_safety R495). -/

namespace Sys2Proof.Machine
open Sys2Proof

/-! ## Images -/

/-- The version of a handle in force. -/
def imageInForce (s : State) (handle : Nat) : Option Image :=
  s.wst.images.find? (fun m => m.handle == handle && m.inForce && !m.released)
/-- A bound version of a handle, in force or not. -/
def imageVersion (s : State) (handle version : Nat) : Option Image :=
  s.wst.images.find? (fun m => m.handle == handle && m.version == version)
def infoOf (m : Image) : Config.ImageInfo := Config.imageInfo m.manifest
/-- An image is a safety image (15_functional_safety R495). -/
def isSafety (m : Image) : Bool := (infoOf m).kind == 1 || (infoOf m).kind == 2

/-- A function may use an image for a command (16_security R504). -/
def mayUse (s : State) (m : Image) (f : Nat) (safetyUse : Bool) : Bool :=
  bit m.funcMask f && (!m.confOnly || (confOf s f).on) && decide (s.sec.lifecycle = .provisioned) &&
    (!isSafety m || safetyUse)

/-- The key slot of an image. -/
def slotKey (s : State) (id : Nat) : Option (Bytes × Bytes) := (s.sec.slots.find? (fun k => k.1 == id)).map (fun k => k.2)
/-- The keys of a stored image: of its key slot, or those kept for the commands accepted before its release. -/
def keyOf (s : State) (id : Nat) : Option (Bytes × Bytes) :=
  (slotKey s id).or ((s.wst.images.find? (fun m => m.id == id)).bind (fun m => m.heldKey))

/-! ## Plaintext (16_security R505, R506) -/

/-- One decrypted 4,096-byte data unit; an image that came without an envelope is held plain (DEDUCED, log entry 15). -/
def plainUnit (k : Bytes × Bytes) (cells : List Host.Cell) (u : Nat) : Bytes :=
  if k.1 = [] then cellsRead cells (4096 * u) 4096
  else padTo 4096 (Config.xtsDecrypt k.1 k.2 u (cellsRead cells (4096 * u) 4096))

/-- `n` plaintext bytes of stored cells from `off`. -/
def plainBytes (k : Bytes × Bytes) (cells : List Host.Cell) (off n : Nat) : Bytes :=
  let u0 := off / 4096
  let us := (List.range (n / 4096 + 2)).flatMap (fun i => plainUnit k cells (u0 + i))
  slice us (off % 4096) n

/-- The decoded bytes of an extent of an image: a packed stream's chunks laid at their `out_offset`, or the plain
bytes (02_memory_tiers R69, R75). A chunk that does not decode leaves zeros here: a stream that meets it fails
under R83. -/
def extentBytes (s : State) (m : Image) (e : Config.Extent) : Bytes :=
  match keyOf s m.id with
  | none => zeros e.len
  | some k =>
    if !e.packed then plainBytes k m.cells e.off e.len else
    layPieces e.len ((List.range e.chunks).filterMap (fun i =>
      let c := plainBytes k m.cells (e.off + 4096 * i) 4096
      (decodeChunk c).map (fun b => (chunkOutOffset c * 64, b))))

/-- Stored bytes of an extent. -/
def storedLen (e : Config.Extent) : Nat := if e.packed then 4096 * e.chunks else e.len

/-- Some chunk of an extent does not decode, and its rebuild would give the same bytes (02_memory_tiers R83). -/
def extentSpoilt (s : State) (m : Image) (e : Config.Extent) : Bool :=
  match keyOf s m.id with
  | none => false
  | some k => e.packed && (List.range e.chunks).any (fun i => (decodeChunk (plainBytes k m.cells (e.off + 4096 * i) 4096)).isNone)

/-- The decoded bytes of the part of an extent stored within `lo` to `hi` of its image. -/
def extentWithin (s : State) (m : Image) (e : Config.Extent) (lo hi : Nat) : Bytes :=
  match keyOf s m.id with
  | none => []
  | some k =>
    if !e.packed then plainBytes k m.cells (max lo e.off) (min hi (e.off + e.len) - max lo e.off)
    else ((List.range e.chunks).filter (fun i => decide (lo ≤ e.off + 4096 * i) && decide (e.off + 4096 * i < hi))).flatMap
      (fun i => (decodeChunk (plainBytes k m.cells (e.off + 4096 * i) 4096)).getD [])

/-! ## Tensors -/

def tensorOf (m : Image) (layer index : Nat) : Option Config.TensorInfo :=
  (infoOf m).tensors.find? (fun t => t.layer == layer && t.index == index)
/-- Decoded bytes of a tensor: weights, scales and zero points. -/
def tensorLen (t : Config.TensorInfo) : Nat := t.weights.len + t.scales.len + t.zeros.len
def tensorExtents (t : Config.TensorInfo) : List Config.Extent := [t.weights, t.scales, t.zeros]

/-- The first `num` of `den` parts of a tensor, as a DDR5 copy holds it: of its weights, its scales and its zero points. -/
def tensorBytes (s : State) (m : Image) (num den : Nat) (t : Config.TensorInfo) : Bytes :=
  (tensorExtents t).flatMap (fun e => (extentBytes s m e).take (e.len * num / max 1 den))

/-! ## Placement -/

def placementOf (s : State) (f handle version : Nat) : Option Placement :=
  s.stream.placements.find? (fun p => p.func == f && p.handle == handle && p.version == version)

/-- An entry covers a tensor (R55). -/
def covers (e : PlaceEntry) (t : Config.TensorInfo) : Bool :=
  decide (e.first ≤ t.layer) && decide (t.layer ≤ e.last) && bit e.mask t.cls

/-- Where a tensor is to lie: hint, split mode, share, and the first layer of the covering range (R56). -/
structure Home where
  hint : Nat
  split : Nat
  share : Nat
  first : Nat
  deriving DecidableEq, Repr

/-- The home that the image records: of a SPLIT the layers count from 0, since no entry gives a first layer (DESIGN CHOICE,
log entry 70). -/
def defaultHome (t : Config.TensorInfo) : Home := { hint := t.defHint, split := t.defSplit, share := t.defShare, first := 0 }

/-- The home that a list of entries gives a tensor: the last covering entry, else the image default. -/
def homeIn (es : List PlaceEntry) (t : Config.TensorInfo) : Home :=
  match es.reverse.find? (fun e => covers e t) with
  | none => defaultHome t
  | some e => if e.hint = 0 then defaultHome t else { hint := e.hint, split := e.split, share := e.share, first := e.first }

/-- The hot entry of a function and a version that new commands find. -/
def hotEntryOf (s : State) (f handle version : Nat) : Option HotEntry :=
  s.bow.hot.find? (fun h => h.handle == handle && h.version == version && h.func == f && liveHot h)

/-- A function's placement of a version now: what a command binds at acceptance (R57; 05_command_rings R211). -/
def placedNow (s : State) (f handle version : Nat) : Placed :=
  { handle := handle, version := version, entries := (placementOf s f handle version).map (fun p => p.entries),
    hot := (hotEntryOf s f handle version).map (fun h => h.id) }

/-- The placement of a handle that a command bound. -/
def boundPlace (c : Cmd) (handle : Nat) : Placed := (c.bound.places.find? (fun p => p.handle == handle)).getD { handle := handle }

/-- An SRAM_HOT tensor runs from the hot entry: the policy loads it (10_scheduling_sharing R359). -/
def hotServes (s : State) (pl : Placed) : Bool :=
  match pl.hot.bind (hotOf s) with
  | none => false
  | some h => s.bow.policy == 0 || pinned s h

/-- The home of a tensor under a placement: no placement reads the weight store, on the -L as for AUTO (R614); a hot
tensor whose entry is not to be loaded streams from its backing copy as if DDR_RESIDENT (10_scheduling_sharing R359;
DEDUCED, log entry 67). -/
def homeUnder (s : State) (pl : Placed) (t : Config.TensorInfo) : Home :=
  match pl.entries with
  | none => { hint := if s.ident.variant = 2 then 5 else 3, split := 0, share := 0, first := 0 }
  | some es => let h := homeIn es t
    if h.hint = 1 ∧ hotServes s pl = false then { h with hint := 2 } else h

/-- The row at which a matrix is split (R65). -/
def splitRow (share n : Nat) : Nat := 128 * (n * share / (128 * 128))

/-- The part of a tensor that its home reads from DDR5, as a fraction (R64, R65); AUTO reads none beyond the migration cache. -/
def ddrFraction (h : Home) (t : Config.TensorInfo) : Nat × Nat :=
  match h.hint with
  | 2 => (1, 1)
  | 4 =>
    if h.split = 0 then
      let l := t.layer - h.first
      (if l * h.share / 128 < (l + 1) * h.share / 128 then 1 else 0, 1)
    else (splitRow h.share t.n, max 1 t.n)
  | _ => (0, 1)

/-- Bytes of a tensor that its home reads from DDR5: of its weights, its scales and its zero points (R64, R65). -/
def ddrPart (h : Home) (t : Config.TensorInfo) : Nat :=
  (tensorExtents t).foldl (fun a e => a + e.len * (ddrFraction h t).1 / (ddrFraction h t).2) 0

/-- The part of some output rows of a tensor, from `first` on, that its home reads from DDR5 (R65). -/
def ddrRows (h : Home) (t : Config.TensorInfo) (first count : Nat) : Nat × Nat :=
  if h.hint = 4 ∧ h.split = 1 then (min (first + count) (splitRow h.share t.n) - first, max 1 count) else ddrFraction h t

/-- The tensors of an image that a function's entries place SRAM_HOT. -/
def hotTensors (es : List PlaceEntry) (m : Image) : List Config.TensorInfo :=
  (infoOf m).tensors.filter (fun t => (homeIn es t).hint == 1)

/-! ## Granules and migration regions (R77 to R80; 03_weight_store R99) -/

/-- A map entry as its 32-bit word (03_weight_store R99). The table lies in the device-reserved region, which no access reaches; the manual gives it no
place there (DESIGN CHOICE, log entry 72). -/
def mapWord (e : MapEntry) : Nat :=
  fields [(b2n e.valid, 31), (e.rep, 29), (b2n e.pslc, 28), (b2n e.poison, 27), (e.die, 19), (e.lblock, 9), (e.page, 0)]

/-- The map's word of a granule. -/
def granuleWord (s : State) (g : Nat) : Nat := mapWord (smGet {} s.wst.map g)
/-- A granule's data is lost: a read of it ends with FLASH_UNCORRECTABLE at once (03_weight_store R99). -/
def poisoned (s : State) (g : Nat) : Bool := bit (granuleWord s g) 31 && bit (granuleWord s g) 27

/-- Where the parts of a tensor that a unit holds stand in an image, as stored: whole, or the rows of a column panel in
proportion (DEDUCED, log entry 14). -/
def storedRuns (t : Config.TensorInfo) (panel : Option (Nat × Nat)) : List (Nat × Nat) :=
  (tensorExtents t).filterMap (fun e =>
    let n := storedLen e
    let lo := match panel with | none => 0 | some p => n * p.1 / max 1 t.n
    let hi := match panel with | none => n | some p => ceilDiv (n * min t.n (p.1 + p.2)) (max 1 t.n)
    if hi ≤ lo then none else some (e.off + lo, hi - lo))

/-- The 64 KiB granules of the unified range in which stored runs of an image lie. -/
def granulesOf (m : Image) (runs : List (Nat × Nat)) : List Nat :=
  (runs.flatMap (fun r => (List.range ((r.1 + r.2 - 1) / 65536 + 1 - r.1 / 65536)).map (fun i => m.base + r.1 / 65536 + i))).eraseDups

/-- The migration regions of some granules. -/
def regionsOf (gs : List Nat) : List Nat := (gs.map (fun g => g / 32)).eraseDups

/-- The regions of a tensor. -/
def tensorRegions (m : Image) (t : Config.TensorInfo) : List Nat := regionsOf (granulesOf m (storedRuns t none))

/-- Regions of the DDR5 share that a placement reads on the -L: of a SPLIT matrix those of its first rows (R65, R80). -/
def pinRegions (s : State) (es : List PlaceEntry) (m : Image) : List Nat :=
  if s.ident.variant ≠ 2 then [] else
  ((infoOf m).tensors.flatMap (fun t =>
    let f := ddrFraction (homeIn es t) t
    if f.1 = 0 then [] else
    if f.1 = f.2 then tensorRegions m t else regionsOf (granulesOf m (storedRuns t (some (0, f.1)))))).eraseDups

/-! ## Resources counted per function (10_scheduling_sharing R338) -/

/-- Bytes of DDR5 copies a function's placements hold. -/
def copyBytes (s : State) (f : Nat) : Nat := sumBy (fun c => if c.func = f && !c.old then c.len else 0) s.stream.copies

/-- Bytes of the pinned slots that a function's placements need on the -L, those of handle `skip` apart: they count against its quota as DDR5
copies do, and the cache's owner counts them in the cache (R59, R80; 10_scheduling_sharing R338; DEDUCED, log entry 68). -/
def pinBytes (s : State) (f : Nat) (skip : Option Nat) : Nat :=
  if s.stream.mig.owner = f then 0 else
  0x200000 * ((s.stream.placements.filter (fun p => p.func == f && some p.handle != skip)).flatMap (fun p => match imageVersion s p.handle p.version with
    | none => []
    | some m => pinRegions s p.entries m)).eraseDups.length

/-- The migration cache counts whole, against its owner. -/
def cacheBytes (s : State) (f : Nat) : Nat := if s.stream.mig.owner = f then 0x200000 * s.stream.mig.size else 0
def poolBytes (s : State) (f : Nat) : Nat := 65536 * (mmuOf s f).poolPages
def ddrUsedMib (s : State) (f : Nat) : Nat := mib (copyBytes s f + pinBytes s f none + poolBytes s f + cacheBytes s f)
def hotUsedMib (s : State) (f : Nat) : Nat := mib (sumBy (fun h => if h.func = f && h.loaded then hotUse s h else 0) s.bow.hot)
def sessionsOf (s : State) (f : Nat) : Nat := (s.atn.sessions.filter (fun x => x.func == f)).length

/-- The port's part of the DDR5 range (R343). -/
def ddrRange (k p : Nat) : Nat × Nat :=
  if p = 0 then (0, 0x100000 * (8128 * k)) else (0x100000 * (8128 * k), 130048 * 0x100000)
/-- A range lies in a port's part, an empty one anywhere. -/
def inPortRange (k p base len : Nat) : Bool :=
  len == 0 || (decide ((ddrRange k p).1 ≤ base) && decide (base + len ≤ (ddrRange k p).2))

def usableMib (s : State) : Nat := usableMibFull s - s.wstMore.unusableMib
/-- MiB of weight-store capacity an image takes: replicas and pSLC counted (17_firmware_reset R536). -/
def imageMib (m : Image) : Nat := mib (sumBy (fun r => 65536 * r) m.replicas)
def installedMib (s : State) (p : Nat) : Nat :=
  sumBy (fun m => if m.port = p && !m.released then imageMib m else 0) s.wst.images +
  sumBy (fun i => if i.port = p then i.reserved else 0) s.wst.installs
def shareMib (s : State) (k p : Nat) : Nat := (if p = 0 then k else 16 - k) * usableMib s / 16

end Sys2Proof.Machine
end

