-- ==== Sys2Proof/Machine/Stream.lean ====
section
/-! DEFINITION. Machine/Stream.lean: the stream engine. Passes and their members, window units, lookahead and
string-buffer space, release, late and failed units, placement, migration, COPY and FILL, and the rows of
02_memory_tiers and of the passes of 06_streaming_and_fusion. -/

namespace Sys2Proof.Machine
open Sys2Proof

/-! ## Units -/

def maskOrAll (m : Nat) : Nat := if m = 0 then 31 else m

/-- The tensors of a unit within a class mask. -/
def unitTensors (m : Image) (layer : Nat) (ts : List Nat) (mask : Nat) : List Nat :=
  ts.filter (fun i => match tensorOf m layer i with | none => false | some t => bit (maskOrAll mask) t.cls)

/-- The tensors of a unit that a pass streams: those within the class mask that do not run from the hot set. -/
def streamedTensors (s : State) (pl : Placed) (m : Image) (u : Config.UnitInfo) (mask : Nat) : List Nat :=
  (unitTensors m u.layer u.tensors mask).filter (fun i => match tensorOf m u.layer i with
    | none => false
    | some t => (homeUnder s pl t).hint != 1)

/-- The part of a tensor in a unit that comes from DDR5: of a column panel, the part of its rows (R65). -/
def unitFraction (h : Home) (t : Config.TensorInfo) (u : Config.UnitInfo) : Nat × Nat :=
  match u.panel with
  | none => ddrFraction h t
  | some p => ddrRows h t p.1 p.2

/-- A unit as a pass fetches it: its bytes, and those from DDR5, in proportion to the tensors streamed. -/
def passUnit (s : State) (pl : Placed) (m : Image) (u : Config.UnitInfo) (is : List Nat) : PassUnit :=
  let total := max 1 (sumBy tensorLen (u.tensors.filterMap (tensorOf m u.layer)))
  let ts := is.filterMap (tensorOf m u.layer)
  { layer := u.layer, tensors := is, panel := u.panel, bytes := u.bytes * sumBy tensorLen ts / total,
    ddrBytes := sumBy (fun t => let f := unitFraction (homeUnder s pl t) t u
      u.bytes * tensorLen t * f.1 / (total * max 1 f.2)) ts,
    parts := ts.map (fun t => let f := unitFraction (homeUnder s pl t) t u
      (u.bytes * tensorLen t / total, f.1, max 1 f.2)) }

/-- The window units of a layer range and class mask under a placement, without those of which nothing is streamed. -/
def unitsFor (s : State) (pl : Placed) (m : Image) (first last mask : Nat) : List PassUnit :=
  ((infoOf m).units.filter (fun u => decide (first ≤ u.layer) && decide (u.layer ≤ last) &&
    !(streamedTensors s pl m u mask).isEmpty)).map
  (fun u => passUnit s pl m u (streamedTensors s pl m u mask))

def setPass (p : Nat) (g : Pass → Pass) (s : State) : State :=
  { s with stream := { s.stream with passes := s.stream.passes.map (fun x => if x.id = p then g x else x) } }

/-- Held in the string buffers: issued and not released. -/
def unitHeld (u : PassUnit) : Bool := u.issued.isSome && !u.released

/-- Frets of a string in service, when one of them may run the pass's slices: a part elsewhere could feed none of them (R60, R62;
DEDUCED, log entry 13). -/
def stringWeight (s : State) (safety : Bool) (j : Nat) : Nat :=
  let fs := ((List.range 12).map (fun n => 12 * j + n)).filter (fretIn s)
  if fs.any (fun i => inPartition s i == safety) then fs.length else 0

/-- Bytes of a unit in the buffer of string `j`, in proportion to the frets in service, rounded up (R60; DESIGN CHOICE, log entry
13). -/
def unitShare (s : State) (safety : Bool) (bytes j : Nat) : Nat :=
  let all := sumBy (stringWeight s safety) [0, 1, 2, 3]
  if all = 0 then 0 else ceilDiv (bytes * stringWeight s safety j) all

/-- Bytes that all passes hold in a string's buffer. -/
def bufferUsed (s : State) (j : Nat) : Nat :=
  sumBy (fun p => sumBy (fun u => if unitHeld u then u.shares.getD j 0 else 0) p.units) s.stream.passes

/-- The runs of a string's buffer that held units take, in rising order. -/
def bufferRuns (s : State) (j : Nat) : List (Nat × Nat) :=
  let runs := s.stream.passes.flatMap (fun p => p.units.flatMap (fun u => if unitHeld u then u.ranges.getD j [] else []))
  runs.foldl (fun l r => l.takeWhile (fun x => decide (x.1 < r.1)) ++ [r] ++ l.dropWhile (fun x => decide (x.1 < r.1))) []

/-- The lowest free runs of a buffer that hold `n` bytes: `from_` is where the search stands (DESIGN CHOICE, log entry 13). -/
def freeRuns : Nat → Nat → List (Nat × Nat) → List (Nat × Nat)
  | 0, _, _ => []
  | n, from_, [] => [(from_, n)]
  | n, from_, r :: l =>
    let take := min n (r.1 - from_)
    let rest := freeRuns (n - take) (r.1 + r.2) l
    if take = 0 then rest else (from_, take) :: rest

/-! ## The order of passes and the space of each (R61; 06_streaming_and_fusion R232, R234) -/

def passPrio (p : Pass) : Nat := p.members.foldl (fun a m => max a m.prio) 0
def passLook (p : Pass) : Nat := p.members.foldl (fun a m => max a m.look) 0
/-- Passes in order of priority, then of the acceptance of the command that opened each. -/
def aheadOf (p q : Pass) : Bool :=
  decide (passPrio p < passPrio q) || (passPrio p == passPrio q && keyLt [q.opener, q.id] [p.opener, p.id])

/-- The passes of a list in that order. -/
def inOrder (ps : List Pass) : List Pass :=
  ps.foldl (fun l p => l.takeWhile (fun q => aheadOf p q) ++ [p] ++ l.dropWhile (fun q => aheadOf p q)) []

/-- A pass has a fetch left to issue. -/
def fetching (p : Pass) : Bool := p.units.any (fun u => u.issued.isNone)

/-- The first unit of a pass whose fetch is not issued. -/
def nextUnit (p : Pass) : Option Nat := (List.range p.units.length).find? (fun i => match p.units[i]? with
  | none => false
  | some u => u.issued.isNone)

/-- What a pass holds in a string's buffer. -/
def heldBytes (p : Pass) (j : Nat) : Nat := sumBy (fun u => if unitHeld u then u.shares.getD j 0 else 0) p.units

/-- Space for the current unit of an active pass: what it holds, or its next unit when it holds none. -/
def currentNeed (s : State) (p : Pass) (j : Nat) : Nat :=
  if p.units.any unitHeld then heldBytes p j
  else if !p.active then 0 else match p.units.find? (fun u => u.issued.isNone) with
    | none => 0
    | some u => unitShare s p.safety u.bytes j

/-- The largest part of one unit of a pass in one string. -/
def largestShare (s : State) (p : Pass) : Nat :=
  p.units.foldl (fun a u => [0, 1, 2, 3].foldl (fun a j => max a (unitShare s p.safety u.bytes j)) a) 1

/-- The effective lookaheads of the active passes, in order: each pass takes its lookahead from what the current units of all and
the lookahead of the passes ahead leave of the 16 MiB; `ahead` is what these take beyond their current units (R61, R232). -/
def lookaheads (s : State) : List Pass → Nat → List (Nat × Nat)
  | [], _ => []
  | p :: l, ahead =>
    let others (j : Nat) : Nat := sumBy (fun q => if q.id = p.id then 0 else currentNeed s q j) s.stream.passes
    let left := 0x1000000 - ([0, 1, 2, 3].foldl (fun a j => max a (others j)) 0) - ahead
    let k := if fetching p then min (passLook p) (left / largestShare s p - 1) else 0
    (p.id, k) :: lookaheads s l (ahead + (if fetching p then
      largestShare s p * (k + 1) - [0, 1, 2, 3].foldl (fun a j => max a (currentNeed s p j)) 0 else 0))

/-- The effective lookahead of a pass. -/
def kEff (s : State) (p : Pass) : Nat :=
  match (lookaheads s (inOrder (s.stream.passes.filter (fun q => q.active))) 0).find? (fun e => e.1 == p.id) with
  | none => 0
  | some e => e.2

/-- The next unit of a pass may be issued: the current one when the current units of the passes ahead leave room, a further one
within the lookahead behind the current units of all (R61, R232). -/
def mayIssue (s : State) (p : Pass) (u : PassUnit) : Bool :=
  let held := (p.units.filter unitHeld).length
  let before (q : Pass) : Bool := q.id != p.id && q.active && !q.units.any unitHeld && (decide (0 < held) || aheadOf p q)
  let fits := [0, 1, 2, 3].all (fun j => decide (bufferUsed s j + unitShare s p.safety u.bytes j +
    sumBy (fun q => if before q then currentNeed s q j else 0) s.stream.passes ≤ 0x1000000))
  p.active && domOn s 2 && domOn s 3 && fits && decide (held ≤ kEff s p)

/-! ## Migration cache (R76 to R80) -/

/-- The granules that a unit of a pass holds. -/
def unitGranules (m : Image) (u : PassUnit) : List Nat :=
  granulesOf m ((u.tensors.filterMap (tensorOf m u.layer)).flatMap (fun t => storedRuns t u.panel))

/-- The granules that a unit's store part reads: on the -L those of regions that the cache does not hold, else those of the rows that DDR5
does not give (R64, R65). -/
def storeGranules (s : State) (m : Image) (u : PassUnit) (cached : Nat → Bool) : List Nat :=
  if s.ident.variant = 2 then (unitGranules m u).filter (fun g => !cached (g / 32)) else
  granulesOf m ((u.tensors.zip u.parts).flatMap (fun e => match tensorOf m u.layer e.1 with
    | none => []
    | some t =>
      let r := u.panel.getD (0, t.n)
      let cut := r.2 * e.2.2.1 / max 1 e.2.2.2
      if r.2 ≤ cut then [] else storedRuns t (some (r.1 + cut, r.2 - cut))))

def slotOfRegion (s : State) (r : Nat) : Option (Nat × MigSlot) :=
  s.stream.mig.slots.findSome? (fun p => match p.2 with
    | none => none
    | some x => if x.region = r ∧ !x.draining then some (p.1, x) else none)

def regionCached (s : State) (r : Nat) : Bool := match slotOfRegion s r with | none => false | some p => p.2.valid

/-- Count a stream read of `n` granules of a region: its counter, its last read, and the 64 KiB reads served (R77,
DDR_MIG_HITS). -/
def countRegion (n : Nat) (r : Nat) (s : State) : State :=
  let g := s.stream.mig
  let g1 := { g with counters := smMod 0 r (fun n => satAdd 8 n 1) g.counters, lastRead := smSet 0 r (s.now + 1) g.lastRead }
  let g2 := if regionCached s r then { g1 with cacheReads := wrapAdd 32 g1.cacheReads n }
    else { g1 with storeReads := wrapAdd 32 g1.storeReads n }
  { s with stream := { s.stream with mig := g2 } }

/-- Count the reads of some granules, region by region. -/
def countReadsOf (gs : List Nat) (s : State) : State :=
  (regionsOf gs).foldl (fun t r => countRegion (gs.filter (fun g => g / 32 == r)).length r t) s

/-! ## Consumption and release (06_streaming_and_fusion R230, R231; R62) -/

/-- Whose units an operator consumes: its function and session. -/
def ownerKey (f session : Nat) : Nat := 65536 * f + session

/-- No slice of a command that consumes a unit of its list waits or runs. -/
def noSliceLeft (s : State) (c : Cmd) (e : Nat × Nat) : Bool :=
  let uses (i : Nat) : Bool := (sliceUnits s c i).contains e
  match c.phase with
  | .running =>
    !(c.retries.any (fun r => uses r.idx)) &&
    !((runningSlices s).any (fun r => r.cmd == c.id && uses r.idx)) &&
    !(s.bow.frets.any (fun f => match f.queued with
      | none => false
      | some q => q.1 == c.id && uses q.2.idx)) &&
    !((List.range c.work.length).any (fun i => decide (c.slicesNext ≤ i) && uses i))
  | .done => true
  | .failed _ _ => true
  | _ => false

/-- The tensor, by layer and index, that an operator's descriptor names. -/
def namedBy (d : Bytes) : Option (Nat × Nat) :=
  if [1, 4, 6].contains (dOpcode d) && leAt d 38 2 != 0xFFFF then some (leAt d 36 2, leAt d 38 2) else none

/-- The tensors of a model that a command's descriptor and stages name. -/
def namedTensors (c : Cmd) (handle : Nat) : List (Nat × Nat) :=
  ((c.desc :: c.stages).filter (fun d => dModel d == handle)).filterMap namedBy

/-- An accepted operator of a member's session that names a tensor still has slices to run against a unit of the pass (R230). -/
def stillUses (s : State) (p : Pass) (m : Member) (i layer t : Nat) : Bool :=
  s.hif.cmds.any (fun c => c.func == m.func && c.session == m.session && (namedTensors c p.handle).contains (layer, t) &&
    (match c.phase with
    | .held => true
    | .ready => true
    | _ => c.units.contains (p.id, i) && !noSliceLeft s c (p.id, i)))

/-- A member has consumed a unit: an operator that consumes a later one was accepted, or each of its tensors has been named and has had its
slices. -/
def consumed (s : State) (p : Pass) (img : Image) (m : Member) (i : Nat) : Bool :=
  match p.units[i]? with
  | none => true
  | some u =>
    decide (u.layer < m.first) || decide (m.last < u.layer) || p.past.contains (ownerKey m.func m.session, i) ||
    (unitTensors img u.layer u.tensors m.mask).all (fun t =>
      p.used.contains (ownerKey m.func m.session, i, t) && !stillUses s p m i u.layer t)

/-- Add entries to what a pass's sessions have used. -/
def addUsed (p : Nat) (f : Pass → List (Nat × Nat × Nat)) (s : State) : State :=
  setPass p (fun x => { x with used := x.used ++ (f x).filter (fun e => !x.used.contains e) }) s

/-- Mark what a command has used of the units it consumes: each against which no slice of it is left (R230). -/
def markUsed (c : Cmd) (s : State) : State :=
  (c.units.filter (noSliceLeft s c)).foldl (fun t e =>
    addUsed e.1 (fun x => let layer := match x.units[e.2]? with | none => 0 | some u => u.layer
      (c.bound.tensors.filter (fun t => t.1 == layer)).map (fun t => (ownerKey c.func c.session, e.2, t.2))) t) s

/-- A pass serves the session of an operator: a member carries its function and session, and the pass the version it bound. -/
def serves (x : Pass) (c : Cmd) : Bool :=
  x.members.any (fun m => m.func == c.func && m.session == c.session) &&
  c.bound.places.any (fun p => p.handle == x.handle && p.version == x.version)

/-- The units of a pass that hold one of some tensors. -/
def unitsWith (x : Pass) (ts : List (Nat × Nat)) : List Nat :=
  (List.range x.units.length).filter (fun i => match x.units[i]? with
    | none => false
    | some u => ts.any (fun t => u.layer == t.1 && u.tensors.contains t.2))

/-- The device has accepted an operator that consumes a later unit: the units before count as consumed by its session (R230). -/
def markAccepted (c : Cmd) (s : State) : State :=
  (s.stream.passes.filter (fun x => serves x c)).foldl (fun t x => match unitsWith x (namedTensors c x.handle) with
    | [] => t
    | u :: us => setPass x.id (fun y =>
        let new := (List.range (us.foldl min u)).map (fun i => (ownerKey c.func c.session, i))
        { y with past := y.past ++ new.filter (fun e => !y.past.contains e) }) t) s

/-- A member has come to its pass: the operators of its session that are accepted and have not begun count for it (R230). -/
def markWaiting (f session : Nat) (s : State) : State :=
  (s.hif.cmds.filter (fun c => c.func == f && c.session == session && c.units.isEmpty &&
    (decide (c.phase = .held) || decide (c.phase = .ready)))).foldl (fun t c => markAccepted c t) s

/-- An operator that fails before any slice has run counts as discarded (R230): it names its tensors. -/
def markDiscarded (c : Cmd) (s : State) : State :=
  if !c.units.isEmpty then s else
  (s.stream.passes.filter (fun x => serves x c)).foldl (fun t x =>
    addUsed x.id (fun y => (namedTensors c y.handle).flatMap (fun n =>
      (unitsWith y [n]).map (fun i => (ownerKey c.func c.session, i, n.2)))) t) s

/-- A unit may be released: ready, consumed by every covering member, and no slice left against it. -/
def mayRelease (s : State) (p : Pass) (i : Nat) : Bool :=
  match p.units[i]?, imageVersion s p.handle p.version with
  | some u, some img => unitReady u && p.members.all (fun m => consumed s p img m i) &&
      s.hif.cmds.all (fun c => !c.units.contains (p.id, i) || noSliceLeft s c (p.id, i))
  | _, _ => false

/-- Release what may be released in one pass. -/
def releaseIn (s : State) (p : Pass) : State :=
  setPass p.id (fun x => { x with units := x.units.mapIdx (fun i u => if mayRelease s p i then { u with released := true } else u) }) s

/-- A member has consumed its last unit: its STREAM_MODEL may complete with OK (R231). -/
def memberDone (s : State) (p : Pass) (m : Member) : Bool :=
  match imageVersion s p.handle p.version with
  | none => true
  | some img => (List.range p.units.length).all (fun i => consumed s p img m i)

/-- A string has left service: the units of which it held a part are fetched again, divided among the strings left (R60, R62;
DEDUCED, log entry 13). -/
def dropStringParts (j : Nat) (s : State) : State :=
  { s with stream := { s.stream with passes := s.stream.passes.map (fun p => { p with units := p.units.map (fun u =>
      if unitHeld u ∧ 0 < u.shares.getD j 0 then
        { u with issued := none, ddrDone := false, storeDone := false, shares := [], ranges := [], fromDdr := false, fromStore := false, slots := [] } else u) }) } }

def sweepStrings (s : State) : State := ([0, 1, 2, 3].filter (fun j => !stringIn s j)).foldl (fun t j => dropStringParts j t) s

/-! ## Joining (06_streaming_and_fusion R229) -/

/-- Passes that have started and have a fetch left to issue: one that has issued its last makes way for the next (R232,
R234; DEDUCED, log entry 69). -/
def activePasses (s : State) : Nat := (s.stream.passes.filter (fun p => p.active && fetching p)).length

/-- Passes that wait to start. -/
def waitingPasses (s : State) : List Pass := s.stream.passes.filter (fun p => !p.active)

/-- A pass streams everything that some units hold (R63: its fetch serves the command). -/
def streamsAll (p : Pass) (us : List PassUnit) : Bool :=
  us.all (fun u => p.units.any (fun x => x.layer == u.layer && x.panel == u.panel && u.tensors.all (fun t => x.tensors.contains t)))

/-- A command with these fields, which would stream `us`, joins a pass. One that waits to start is under way too (DESIGN CHOICE, log entry
69), and a pass that leaves out tensors because its opener runs them from the hot set serves no command that streams them (DEDUCED, log
entry 69). -/
def joins (p : Pass) (us : List PassUnit) (handle version budget first last mask : Nat) (safety : Bool) : Bool :=
  p.handle == handle && p.version == version && p.budgetUs == budget && p.safety == safety && !p.members.isEmpty &&
  decide (p.first ≤ first) && decide (last ≤ p.last) &&
  p.units.all (fun u => !u.released || decide (u.layer < first) || decide (last < u.layer)) &&
  (maskOrAll mask &&& maskOrAll p.mask) == maskOrAll mask && decide (p.members.length < 32) && streamsAll p us

/-- The member that a wake plan's preload opens its pass with (11_listening_wake R385): it stands for no command, and its
session for no session. -/
def preloadMember (plan : Nat) : Nat := 2 ^ 64 + plan
def isPreload (m : Member) : Bool := decide (2 ^ 64 ≤ m.cmd)

/-- Open a pass with one member: it starts at once when fewer than 8 are active and none waits before it. -/
def openPass (m : Member) (img : Image) (f : Nat) (pl : Placed) (budget mask first last : Nat) (safety : Bool) (s : State) : State :=
  let id := s.stream.nextPass
  { s with stream := { s.stream with
      nextPass := id + 1,
      passes := s.stream.passes ++ [{
        id := id, opener := if isPreload m then s.hif.nextId else m.cmd, func := f, handle := img.handle, version := img.version,
        budgetUs := budget, mask := mask, first := first, last := last, safety := safety,
        active := decide (activePasses s < 8) && (waitingPasses s).isEmpty, members := [m],
        units := unitsFor s pl img first last mask, used := [] }] } }

/-- A member joins a pass. A preload counts as having consumed every unit once a host member has joined (11_listening_wake
R385). -/
def joinPass (m : Member) (p : Nat) (s : State) : State :=
  setPass p (fun x => { x with members := x.members.filter (fun y => !isPreload y) ++ [m] }) s

/-- Join a pass that fits, or open one; the pass's ID. -/
def joinOrOpen (m : Member) (img : Image) (f : Nat) (pl : Placed) (budget mask first last : Nat) (safety : Bool) (s : State) : State × Nat :=
  match s.stream.passes.find? (fun p => joins p (unitsFor s pl img first last mask) img.handle img.version budget first last mask safety) with
  | some p => (joinPass m p.id s, p.id)
  | none => (openPass m img f pl budget mask first last safety s, s.stream.nextPass)

def lateBudgetUs (v : Nat) : Nat := if v = 0 then 50000 else v * 10

/-- An accepted operator of a member's session that has not begun, and names a tensor of unit `i` of a pass or of a later one
(DEDUCED, log entry 69). -/
def awaits (x : Pass) (i : Nat) (c : Cmd) : Bool :=
  c.units.isEmpty && (decide (c.phase = .held) || decide (c.phase = .ready)) && serves x c &&
  (unitsWith x (namedTensors c x.handle)).any (fun u => decide (i ≤ u))

/-- Fail a pass at a unit: that unit and the later ones go, every member fails, and every operator that needs one of
them fails too (R85). -/
def failPassWith (p i : Nat) (e : Fail) (s : State) : State :=
  match passOf s p with
  | none => s
  | some x =>
    let needs (c : Cmd) : Bool := c.units.any (fun u => u.1 == p && decide (i ≤ u.2))
    let ops := (s.hif.cmds.filter (fun c => match c.phase with
      | .running => needs c
      | .ready => needs c || awaits x i c
      | _ => awaits x i c)).map (fun c => c.id)
    let s1 := (x.members.map (fun m => m.cmd) ++ ops).foldl (fun t id => failCmd id e t) s
    setPass p (fun x => { x with units := x.units.take i, members := [] }) s1

/-- Fail a pass with a status of R85: its `result` is the layer of the unit. -/
def failPass (p i status : Nat) (s : State) : State :=
  let layer := match (passOf s p).bind (fun x => x.units[i]?) with | none => 0 | some u => u.layer
  failPassWith p i { status := status, result := layer } s

/-- A member that stands for a STREAM_MODEL, or for a preload. -/
def streamMember (s : State) (m : Member) : Bool := isPreload m || (match cmdOf s m.cmd with
  | none => false
  | some c => c.opcode == 0x20)

/-- A pass holds a tensor, and has released no unit of it. -/
def holdsAll (p : Pass) (t : Config.TensorInfo) : Bool :=
  let us := unitsWith p [(t.layer, t.index)]
  !us.isEmpty && us.all (fun i => match p.units[i]? with
    | none => false
    | some u => !u.released)

/-- A pass for an operator that names a tensor: one whose member is its session, else any that a STREAM_MODEL of the same
version keeps and that covers the layer; else the operator fetches for itself, with lookahead 1 and the default budget: it joins a
pass as a member where R229 lets it, or opens its own (05_command_rings R191; 06_streaming_and_fusion R229, R230). Answers its
number. -/
def passForOperator (c : Cmd) (img : Image) (t : Config.TensorInfo) (s : State) : State × Nat :=
  let fits (p : Pass) : Bool := p.handle == img.handle && p.version == img.version && p.safety == c.safety && decide (p.members ≠ []) &&
    holdsAll p t
  let own (p : Pass) : Bool := fits p && p.members.any (fun m => m.func == c.func && m.session == c.session)
  match (s.stream.passes.find? own).or (s.stream.passes.find? (fun p => fits p && p.members.any (streamMember s))) with
  | some p => (s, p.id)
  | none =>
    let m : Member := { cmd := c.id, func := c.func, session := c.session, first := t.layer, last := t.layer,
                        mask := 1 <<< t.cls, look := 1, prio := c.prio }
    joinOrOpen m img c.func (boundPlace c img.handle) 50000 (1 <<< t.cls) t.layer t.layer c.safety s

/-- The units of a pass that hold a tensor. -/
def unitsOf (s : State) (p : Nat) (x : Config.TensorInfo) : List (Nat × Nat) :=
  match passOf s p with
  | none => []
  | some q => (unitsWith q [(x.layer, x.index)]).map (fun i => (p, i))

/-- Take a streamed tensor's units: those that the command takes already, else those of a pass found or opened for it. A tensor that no unit
of the image holds has no stream. -/
def bindStream (id : Nat) (img : Image) (x : Config.TensorInfo) (s : State) : State :=
  match cmdOf s id with
  | none => s
  | some c =>
    if !(infoOf img).units.any (fun u => u.layer == x.layer && u.tensors.contains x.index) then s else
    let e := (img.handle, x.layer, x.index)
    let s1 := if c.streams.contains e then s else modCmd id (fun c => { c with streams := c.streams ++ [e] }) s
    if c.units.any (fun u => match passOf s u.1 with
        | none => false
        | some q => q.handle == img.handle && (unitsWith q [(x.layer, x.index)]).contains u.2) then s1 else
    let r := passForOperator c img x s1
    modCmd id (fun c => { c with units := c.units ++ unitsOf r.1 r.2 x }) r.1

/-- A command whose pass has discarded its units fetches what its slices still need for itself. -/
def rebind (c : Cmd) (p : Nat) (handle version : Nat) (s : State) : State :=
  match imageVersion s handle version with
  | none => s
  | some img => ((c.streams.filter (fun t => t.1 == handle)).filterMap (fun t => tensorOf img t.2.1 t.2.2)).foldl (fun t x => bindStream c.id img x t)
      (modCmd c.id (fun c => { c with units := c.units.filter (fun u => u.1 != p) }) s)

/-! The hot set and the streams (10_scheduling_sharing R359) -/

/-- A hot entry that the policy does not load: under policy 1 one that no pin lists. -/
def unserved (s : State) (h : HotEntry) : Bool := s.bow.policy != 0 && !pinned s h

/-- A running command whose entry the policy no longer loads: its slices stream from the backing copy. -/
def streamHot (c : Cmd) (s : State) : State :=
  let pl := boundPlace c c.model
  match imageVersion s pl.handle pl.version with
  | none => s
  | some img =>
    let hot (x : Config.TensorInfo) : Bool := match pl.entries with | none => false | some es => (homeIn es x).hint == 1
    ((c.bound.tensors.filterMap (fun t => tensorOf img t.1 t.2)).filter hot).foldl (fun t x => bindStream c.id img x t)
      (modCmd c.id (fun c => { c with hot := none }) s)

/-- Entries that the policy does not load leave the hot set when no slice runs on them, and the commands that waited for them stream (R359). -/
def settleHot (s : State) : State :=
  let busy (h : HotEntry) : Bool := (runningSlices s).any (fun r => match cmdOf s r.cmd with | none => false | some c => c.hot == some h.id)
  let s1 := (s.bow.hot.filter (fun h => (h.loaded || h.switching) && unserved s h && !busy h)).foldl (fun t h => evictHot h.id t) s
  (s1.hif.cmds.filter (fun c => decide (c.phase = .running) && c.opcode != 0x23 && (match c.hot.bind (hotOf s1) with
    | none => false
    | some h => unserved s1 h))).foldl (fun t c => streamHot c t) s1

/-- Release units, let finished members complete, and drop passes with no member and no use left. -/
def settleStream (s : State) : State :=
  let s0 := settleHot (sweepStrings s)
  let s1 := (s0.hif.cmds.filter (fun c => !c.units.isEmpty)).foldl (fun t c => markUsed c t) s0
  let s2 := s1.stream.passes.foldl releaseIn s1
  let doneIds := s2.stream.passes.flatMap (fun p => (p.members.filter (memberDone s2 p)).map (fun m => m.cmd))
  let s3 := doneIds.foldl (fun t id => match cmdOf t id with
    | none => t
    | some c => if c.opcode = 0x20 ∧ c.phase = .running then stageDone id [] 0 t else t) s2
  let left := s3.stream.passes.filter (fun p => !p.members.isEmpty || s3.hif.cmds.any (fun c => c.units.any (fun u => u.1 == p.id)))
  { s3 with stream := { s3.stream with
      passes := left
      refetch := s3.stream.refetch.filter (fun r => left.any (fun p => p.id == r.pass && (match p.units[r.unit]? with
        | none => false
        | some u => unitHeld u))) } }

/-- The streams settle, and the bow acts. -/
def settleDispatch (s : State) : State := dispatch (settleStream s)

/-- A pass whose last member has left discards its units (R231): an operator with slices left against them fetches them anew. -/
def discardPass (x : Pass) (s : State) : State :=
  let users := s.hif.cmds.filter (fun c => decide (c.phase = .running) && c.units.any (fun u => u.1 == x.id && !noSliceLeft s c u))
  users.foldl (fun t c => rebind c x.id x.handle x.version t)
    { s with stream := { s.stream with passes := s.stream.passes.filter (fun q => q.id != x.id) } }

/-- A member leaves its pass (R231). -/
def leavePasses (id : Nat) (s : State) : State :=
  let left := s.stream.passes.filter (fun p => !p.members.isEmpty && p.members.all (fun m => m.cmd == id))
  left.foldl (fun t p => discardPass p t)
    { s with stream := { s.stream with passes := s.stream.passes.map (fun p => { p with members := p.members.filter (fun m => decide (m.cmd ≠ id)) }) } }

/-! ## Rows of the stream engine -/

/-- STREAM_MODEL's fields (R193). -/
def smFirst (d : Bytes) : Nat := leAt d 16 2
def smLast (d : Bytes) : Nat := leAt d 18 2
def smLook (d : Bytes) : Nat := byteAt d 20
def smMask (d : Bytes) : Nat := byteAt d 21
def smBudget (d : Bytes) : Nat := leAt d 22 2

/-- A firmware gap runs (17_firmware_reset R529). -/
def fwGap (s : State) : Bool := match s.fwu.handover with
  | .gap _ _ => true
  | _ => false

/-- Opcodes that wait through a firmware gap (17_firmware_reset R530). -/
def gapWaits (op : Nat) : Bool :=
  [0x23, 0x50, 0x51, 0x52, 0x53, 0x60, 0x61, 0x62, 0x63, 0x64, 0x65, 0x66, 0x67, 0x70, 0x71, 0x72].contains op

/-- An operator, a fused group or a program (13_power_domains R432). -/
def needsStrings (op : Nat) : Bool := decide (1 ≤ op ∧ op ≤ 8) || op == 0x10 || op == 0x20 || op == 0x33

/-- Control opcodes (05_command_rings R168): they need nothing further (13_power_domains R432). -/
def controlOp (op : Nat) : Bool := [0x30, 0x31, 0x32, 0x34].contains op

/-- The domains that an opcode needs, beside the strings (13_power_domains R432). -/
def domainsOf (op : Nat) (safety : Bool) : List Nat :=
  (if needsStrings op then (if op = 0x20 then [0, 1, 2, 3] else [0, 1, 2])
  else if [0x23, 0x60, 0x61, 0x62, 0x63, 0x64, 0x65, 0x66].contains op then [0, 1, 2, 3]
  else if [0x21, 0x22, 0x40, 0x41, 0x42, 0x43, 0x44, 0x45].contains op then [0, 1, 2]
  else if [0x18, 0x50].contains op then [0, 1, 2, 4]
  else if [0x70, 0x71, 0x72].contains op then [0, 1, 2, 11]
  else [0, 1]) ++ (if safety && !controlOp op then [2, 11] else [])

/-- A command streams weights from the weight store: it names a tensor that is neither hot nor wholly DDR_RESIDENT. -/
def fetchesStore (s : State) (c : Cmd) : Bool :=
  (c.desc :: c.stages).any (fun d => match namedBy d, c.bound.places.find? (fun p => p.handle == dModel d) with
    | some t, some pl => match (imageVersion s pl.handle pl.version).bind (fun m => tensorOf m t.1 t.2) with
      | none => false
      | some x => (homeUnder s pl x).hint != 1 && decide (ddrPart (homeUnder s pl x) x < tensorLen x)
    | _, _ => false)

/-- Domains an accepted command needs, the strings of R432 apart (13_power_domains R432). A DOMAIN_SET takes effect at its
acceptance, before it needs any (13_power_domains R437; DEDUCED, log entry 42). -/
def cmdDomains (s : State) (c : Cmd) : List Nat :=
  if c.opcode = 0x67 ∧ c.phase = .ready then [] else
  domainsOf c.opcode c.safety ++ (if needsStrings c.opcode && fetchesStore s c then [3] else []) ++
    (if c.safety && !controlOp c.opcode then s.saf.partition.map (fun i => 7 + i / 12) else [])

/-- Every domain that a command needs is ON, and no supply holds the island in reset when it needs the island; else it
waits. Work on the strings needs every STRING whose target is AUTO, and one STRING at least (13_power_domains R432;
14_capo_thermal_supply R456). -/
def domainsUp (s : State) (c : Cmd) : Bool :=
  (cmdDomains s c).all (fun d => domOn s d && !(d == 11 && s.safMore.inReset)) &&
  (!needsStrings c.opcode || ([7, 8, 9, 10].any (domOn s) && [7, 8, 9, 10].all (fun d => domOn s d || !isAuto s d)))

/-- Run a ready command of an opcode: one that no gap and no domain keeps waiting. -/
def runReady (id opcode : Nat) (f : Cmd → State → State) (s : State) : State :=
  match cmdOf s id with
  | none => s
  | some c =>
    if c.opcode = opcode ∧ c.phase = .ready ∧ domainsUp s c = true ∧ (fwGap s && gapWaits opcode) = false then f c s else s

def runStreamModel (c : Cmd) (s : State) : State :=
  match imageVersion s c.model c.bound.version with
  | none => failCmd c.id (fwDenied (locator 0 0 8)) s
  | some img =>
    if (infoOf img).layers ≤ smLast c.desc then failCmd c.id (bad (locator 0 0 18)) s else
    let m : Member := { cmd := c.id, func := c.func, session := c.session, first := smFirst c.desc, last := smLast c.desc,
                        mask := smMask c.desc, look := smLook c.desc, prio := c.prio }
    let s1 := (joinOrOpen m img c.func (boundPlace c img.handle) (lateBudgetUs (smBudget c.desc)) (smMask c.desc) (smFirst c.desc) (smLast c.desc) c.safety s).1
    settleStream (markWaiting c.func c.session (modCmd c.id (fun c => { c with phase := .running }) s1))

/-- STREAM_MODEL (R193, R229, R231). -/
def execStreamModel (id : Nat) (s : State) : Res := ok (runReady id 0x20 runStreamModel s)

/-- PASS_START (06_streaming_and_fusion R232, R234): the next waiting pass in order starts, and no other. -/
def execPassStart (pass : Nat) (s : State) : Res :=
  ok (match inOrder (waitingPasses s) with
    | [] => s
    | p :: _ => if p.id = pass ∧ activePasses s < 8 then setPass pass (fun p => { p with active := true }) s else s)

/-- The domain of a pass's fetches (00_scope R14). -/
def passDomain (p : Pass) : Nat := if p.safety then 33 else p.func

/-- The DDR5 runs that a unit's fetch reads: of copies, or of migration slots on the -L. -/
def ddrRuns (s : State) (p : Pass) (img : Image) (u : PassUnit) : List (Nat × Nat) :=
  if s.ident.variant = 2 then
    (regionsOf (unitGranules img u)).filterMap (fun r => match slotOfRegion s r with
      | some (n, x) => if x.valid then some (s.stream.mig.base + 0x200000 * n, 0x200000) else none
      | none => none)
  else if u.ddrBytes = 0 then []
  else (s.stream.copies.filter (fun c => c.func == p.func && c.handle == p.handle && c.version == p.version && c.layer == u.layer &&
    u.tensors.contains c.tensor && c.staged.isNone)).map (fun c => (c.addr, c.len))

/-- A unit as its fetch begins: what it takes from each tier, and the migration slots that it reads on the -L, where DDR5 gives what the
valid slots hold. A part of no bytes is there at once. -/
def planFetch (s : State) (p : Pass) (img : Image) (u : PassUnit) : PassUnit :=
  let gs := unitGranules img u
  let inCache := (gs.filter (fun g => regionCached s (g / 32))).length
  let v := if s.ident.variant = 2 then { u with
      ddrBytes := u.bytes * inCache / max 1 gs.length
      slots := ((regionsOf gs).filterMap (slotOfRegion s)).filterMap (fun n => if n.2.valid then some n.1 else none) } else u
  let ddr := if s.ident.variant = 2 then decide (0 < inCache) else decide (0 < u.ddrBytes)
  let store := if s.ident.variant = 2 then decide (inCache < gs.length) || gs.isEmpty else decide (u.ddrBytes < u.bytes)
  let shares := [0, 1, 2, 3].map (unitShare s p.safety u.bytes)
  { v with issued := some s.now, shares := shares, ranges := [0, 1, 2, 3].map (fun j => freeRuns (shares.getD j 0) 0 (bufferRuns s j)),
           fromDdr := ddr, fromStore := store, ddrDone := !ddr, storeDone := !store }

/-- Issue a unit's fetch: each string gets its part and the room for it, and on the -L the regions it reads are counted. -/
def issueUnit (p : Pass) (i : Nat) (u : PassUnit) (s : State) : State :=
  match imageVersion s p.handle p.version with
  | none => s
  | some img =>
    setPass p.id (fun x => { x with units := modAt i (fun u => planFetch s p img u) x.units })
      (countReadsOf (if s.ident.variant = 2 then unitGranules img u else []) s)

/-- A granule that the unit's store part reads is poisoned: its data is lost (03_weight_store R99). -/
def unitPoisoned (s : State) (p : Pass) (u : PassUnit) : Bool :=
  match imageVersion s p.handle p.version with
  | none => false
  | some img => (storeGranules s img u (regionCached s)).any (poisoned s)

/-- A firewall refuses the reads of a unit's DDR5 part (01_architecture R40; 15_functional_safety R494, R495). -/
def unitRefused (s : State) (p : Pass) (u : PassUnit) : Option Fail :=
  match imageVersion s p.handle p.version with
  | none => none
  | some img => runsRefused s (passDomain p) false (locator 0 0 8) (ddrRuns s p img u)

/-- Fail a pass whose unit a firewall refuses. -/
def refusePass (p : Pass) (i : Nat) (e : Fail) (s : State) : State := failPassWith p.id i e (recordFail p.func 0xFFFF e s)

/-- UNIT_FETCH_ISSUE (R61, R232). A read of a poisoned granule fails at once (03_weight_store R99). -/
def execUnitFetchIssue (pass : Nat) (s : State) : Res :=
  ok (match passOf s pass with
    | none => s
    | some p => match nextUnit p with
      | none => s
      | some i => match p.units[i]? with
        | none => s
        | some u => if !mayIssue s p u then s
          else match unitRefused s p u with
            | some e => dispatch (settleStream (refusePass p i e s))
            | none => if unitPoisoned s p u then dispatch (settleStream (failPass pass i stFlashUnc (issueUnit p i u s)))
              else issueUnit p i u s)

/-- UNIT_PART_ARRIVE (R66): one tier's part is in the string buffers; a unit with every part is ready, and the bow
dispatches what waited for it. -/
def execUnitPartArrive (pass unit_ : Nat) (fromStore : Bool) (s : State) : Res :=
  ok (dispatch (settleStream (setPass pass (fun p => { p with units := modAt unit_ (fun u =>
    if u.issued.isNone then u else if fromStore then { u with storeDone := true } else { u with ddrDone := true }) p.units }) s)))

/-- The store part of a unit, or a refetch of some of it from the store, is under way (R84; 01_architecture R34). -/
def storeWaits (s : State) (pass unit_ : Nat) : Bool :=
  s.stream.refetch.any (fun x => x.pass == pass && x.unit == unit_ && x.fromStore) ||
  (match (passOf s pass).bind (fun p => p.units[unit_]?) with
  | none => false
  | some u => u.issued.isSome && !u.storeDone)

/-- LATE_BUDGET_EXPIRY (R84, R85). -/
def execLateBudgetExpiry (pass unit_ : Nat) (s : State) : Res :=
  ok (when (storeWaits s pass unit_) (fun s => dispatch (settleStream (failPass pass unit_ stFlashLate s))) s)

/-! ## Units and strings (01_architecture R34, R36) -/

/-- The place of an offset within runs: bytes before it in the runs that hold it. -/
def placeIn (off : Nat) : Nat → List (Nat × Nat) → Option Nat
  | _, [] => none
  | sum, r :: l => if r.1 ≤ off ∧ off < r.1 + r.2 then some (sum + (off - r.1)) else placeIn off (sum + r.2) l

/-- The held unit whose part on a string holds an offset: pass, unit, and whether the byte came from the store; the DDR5 part
comes first in each string's part (DESIGN CHOICE, log entry 13). -/
def unitAt (s : State) (j off : Nat) : Option (Nat × Nat × Bool) :=
  s.stream.passes.findSome? (fun p => (List.range p.units.length).findSome? (fun i => match p.units[i]? with
    | none => none
    | some u => if !unitHeld u then none else
      (placeIn off 0 (u.ranges.getD j [])).map (fun k =>
        (p.id, i, decide (u.ddrBytes * u.shares.getD j 0 ≤ k * max 1 u.bytes)))))

/-- CHUNK_DECODE_DONE (R74, R75, R83): the decoded bytes go to `out_offset` in the buffer; a chunk that fails is read
once more through the rebuild, and a rebuilt chunk that fails ends the pass. -/
def execChunkDecodeDone (pass unit_ string base : Nat) (chunk : Bytes) (rebuilt : Bool) (s : State) : Res :=
  unit string 4 (ok (match decodeChunk chunk with
    | some o =>
      if base + chunkOutOffset chunk * 64 + o.length ≤ 0x1000000 then
        writeBytes .dev (stringBufBase string + base + chunkOutOffset chunk * 64) o s
      else s
    | none => if rebuilt then dispatch (settleStream (failPass pass unit_ stFlashUnc s)) else s))

/-! ## DDR5 errors (01_architecture R41) -/

/-- The slices that use a tensor of a version run again without a fault (R41). -/
def rerunUsers (handle version : Nat) (uses : Nat × Nat → Bool) (s : State) : State :=
  let hit := (runningSlices s).filter (fun r => match cmdOf s r.cmd with
    | none => false
    | some c => c.bound.usesWeights && c.bound.places.any (fun p => p.handle == handle && p.version == version) &&
        c.bound.tensors.any uses)
  hit.foldl (fun t r => rerunQuietly r t) s

/-- The migration slot in whose bytes a run lies, when its tag is valid. -/
def slotAt (s : State) (addr len : Nat) : Option MigSlot :=
  s.stream.mig.slots.findSome? (fun p => match p.2 with
    | none => none
    | some x =>
      let a := s.stream.mig.base + 0x200000 * p.1
      if x.valid ∧ a ≤ addr ∧ addr + len ≤ a + 0x200000 then some x else none)

/-- The image that holds a migration region. -/
def imageOfRegion (s : State) (r : Nat) : Option Image :=
  s.wst.images.find? (fun m => decide (m.base < 32 * r + 32) && decide (32 * r < m.base + m.replicas.length))

/-- DDR_COPY_REREAD_DONE (R41): the copy is rewritten with what was reread; the slices that used it rerun. -/
def execDdrCopyRereadDone (addr : Nat) (data : Bytes) (s : State) : Res :=
  let s1 := writeBytes .dev addr data { s with stream := { s.stream with ddrUncorrected := satAdd 16 s.stream.ddrUncorrected 1 } }
  ok (match s.stream.copies.find? (fun c => decide (c.addr ≤ addr) && decide (addr + data.length ≤ c.addr + c.len)) with
    | some w => settleDispatch (rerunUsers w.handle w.version (fun t => t == (w.layer, w.tensor)) s1)
    | none => match slotAt s addr data.length with
      | none => s
      | some x => match imageOfRegion s x.region with
        | none => s
        | some m => settleDispatch (rerunUsers m.handle m.version (fun t => match tensorOf m t.1 t.2 with
            | none => false
            | some y => (tensorRegions m y).contains x.region) s1))

/-! ## Migration (R77 to R80) -/

/-- MIGRATION_EPOCH_EXPIRY (R77): every counter is halved, rounding down. -/
def execMigrationEpochExpiry (s : State) : Res :=
  ok { s with stream := { s.stream with mig := { s.stream.mig with
    counters := (s.stream.mig.counters.map (fun p => (p.1, p.2 / 2))).filter (fun p => decide (p.2 ≠ 0)) } } }

/-- The migration engine runs: an -L, enabled, with a cache that stays below the device-reserved region (R91). -/
def migRuns (s : State) : Bool :=
  let g := s.stream.mig
  s.ident.variant == 2 && g.enable && decide (g.base + 0x200000 * g.size ≤ ddrReserved)

def slotFree (s : State) (n : Nat) : Bool := decide (n < s.stream.mig.size) && (smGet none s.stream.mig.slots n).isNone
def freeSlot (s : State) : Option Nat := (List.range s.stream.mig.size).find? (slotFree s)

def counterOf (s : State) (r : Nat) : Nat := smGet 0 s.stream.mig.counters r

/-- The last read of a region. -/
def lastReadOf (s : State) (r : Nat) : Nat := smGet 0 s.stream.mig.lastRead r

/-- The unpinned slot of the lowest count, ties least recently read, among those whose region's count `below` lets go. -/
def lowestSlot (s : State) (below : Nat → Bool) : Option Nat :=
  (s.stream.mig.slots.foldl (fun (best : Option (Nat × Nat)) p => match p.2 with
    | none => best
    | some x =>
      if x.pinned || x.draining || !below (counterOf s x.region) then best else
      match best with
      | none => some (p.1, x.region)
      | some b => if keyLt [counterOf s x.region, lastReadOf s x.region] [counterOf s b.2, lastReadOf s b.2] then some (p.1, x.region)
          else best) none).map (fun b => b.1)

def setSlot (n : Nat) (v : Option MigSlot) (s : State) : State :=
  { s with stream := { s.stream with mig := { s.stream.mig with slots := smSet none n v s.stream.mig.slots } } }

/-- Take a slot for a region: the copy starts, and reads stay with the store until its tag is valid. -/
def takeSlot (n r : Nat) (pin : Bool) (s : State) : State :=
  let s1 := setSlot n (some { region := r, valid := false, pinned := pin, draining := false }) s
  { s1 with stream := { s1.stream with mig := { s1.stream.mig with promotions := wrapAdd 32 s1.stream.mig.promotions 1 } } }

/-- Evict a slot: its tag is cleared, and it drains before it is reused (R79). -/
def drainSlot (n : Nat) (s : State) : State :=
  match smGet none s.stream.mig.slots n with
  | none => s
  | some x =>
    let s1 := setSlot n (some { x with valid := false, pinned := false, draining := true }) s
    { s1 with stream := { s1.stream with mig := { s1.stream.mig with evictions := wrapAdd 32 s1.stream.mig.evictions 1 } } }

/-- The regions that a placement covers with STREAM_STORE (R80). -/
def storeRegions (es : List PlaceEntry) (m : Image) : List Nat :=
  ((infoOf m).tensors.filter (fun t => (homeIn es t).hint == 3)).flatMap (tensorRegions m)

/-- The covered region is kept out of the cache by a STREAM_STORE placement of some function (R80). -/
def keptOut (s : State) (r : Nat) : Bool :=
  s.stream.placements.any (fun p => match imageVersion s p.handle p.version with
    | none => false
    | some img => (storeRegions p.entries img).contains r)

/-- MIGRATION_PROMOTE (R78). An evicted slot drains before it is reused (R79): its region's copy starts then. -/
def execMigrationPromote (region : Nat) (s : State) : Res :=
  ok (if migRuns s && decide (s.stream.mig.threshold ≤ counterOf s region) && (slotOfRegion s region).isNone && !keptOut s region then
      match freeSlot s with
      | some n => takeSlot n region false s
      | none => match lowestSlot s (fun k => decide (k < counterOf s region)) with
        | none => s
        | some n => drainSlot n s
    else s)

/-- The decoded bytes of a region: what its granules hold of each tensor of its image, one after another, as far as the slot
reaches (R78; DESIGN CHOICE, log entry 14). -/
def regionBytes (s : State) (r : Nat) : Bytes :=
  match imageOfRegion s r with
  | none => []
  | some m =>
    let lo := 0x200000 * r - 65536 * m.base
    let hi := 0x200000 * (r + 1) - 65536 * m.base
    (((infoOf m).tensors.flatMap tensorExtents).flatMap (fun e => extentWithin s m e lo hi)).take 0x200000

/-- A placement entry's fields (R55). -/
def entryOf (b : Bytes) : PlaceEntry :=
  { hint := bf (byteAt b 0) 2 0, split := bf (byteAt b 0) 3 3, share := bf (byteAt b 1) 6 0, mask := bf (byteAt b 2) 4 0,
    first := leAt b 4 2, last := leAt b 6 2 }

/-- The entries that a MODEL_PLACE has read. -/
def placeEntries (c : Cmd) : List PlaceEntry := (List.range (c.params.length / 8)).map (fun i => entryOf (slice c.params (8 * i) 8))

/-- What a MODEL_PLACE that has not completed pins (R57, R80). -/
def pinning (s : State) (c : Cmd) : List Nat :=
  if c.opcode = 0x23 ∧ (c.phase = .running ∨ c.phase = .done) then match imageVersion s c.model c.bound.version with
    | none => []
    | some m => pinRegions s (placeEntries c) m
  else []

/-- Promote and pin a region at once: its slot, a free slot, or else the least used unpinned one, once it has drained (R79,
R80). -/
def pinRegion (s : State) (r : Nat) : State :=
  match slotOfRegion s r with
  | some (n, x) => setSlot n (some { x with pinned := true }) s
  | none => if !migRuns s then s else match freeSlot s with
    | some n => takeSlot n r true s
    | none => s

/-- The regions that wait for a slot of the cache. -/
def lacking (s : State) (rs : List Nat) : Nat := (rs.filter (fun r => (slotOfRegion s r).isNone)).length
def drainingCount (s : State) : Nat :=
  (s.stream.mig.slots.filter (fun p => match p.2 with | none => false | some x => x.draining)).length

/-- Evict as many slots as the regions that wait still need. -/
def makeSlots (rs : List Nat) : Nat → State → State
  | 0, s => s
  | n + 1, s =>
    if !migRuns s || decide (lacking s rs ≤ drainingCount s) then s else match lowestSlot s (fun _ => true) with
    | none => s
    | some k => makeSlots rs n (drainSlot k s)

/-- Pin what running MODEL_PLACEs wait for, and let those complete whose copies and hot load are in place (R57, R80). -/
def pinMore (s : State) : State :=
  (s.hif.cmds.filter (fun c => c.opcode == 0x23 && decide (c.phase = .running))).foldl (fun t c =>
    let rs := pinning t c
    let t1 := rs.foldl pinRegion t
    let t2 := makeSlots rs rs.length t1
    let loaded := match c.hot with
      | none => true
      | some e => match hotOf t2 e with | none => true | some h => h.loaded
    if rs.all (regionCached t2) && loaded then stageDone c.id [] 0 t2 else t2) s

/-- MIGRATION_COPY_DONE (R78): the decoded data is in the slot and its tag is set valid. The copy is a write of flash maintenance,
domain 35 (R81): where a firewall refuses it, nothing is written and the slot is free again. -/
def execMigrationCopyDone (slot : Nat) (s : State) : Res :=
  ok (match smGet none s.stream.mig.slots slot with
    | none => s
    | some x => if x.draining || x.valid then s else
      let a := s.stream.mig.base + 0x200000 * slot
      match runsRefused s 35 true 0 [(a, 0x200000)] with
      | some e => recordFail 0 0xFFFF e (setSlot slot none s)
      | none => dispatch (settleStream (pinMore (setSlot slot (some { x with valid := true }) (writeBytes .dev a (regionBytes s x.region) s)))))

/-- A read issued to a slot has not completed (R79). -/
def slotRead (s : State) (n : Nat) : Bool :=
  s.stream.passes.any (fun p => p.units.any (fun u => u.issued.isSome && !u.ddrDone && u.slots.contains n))

/-- MIGRATION_SLOT_REUSE (R79): every read issued to the slot has completed; it is free again. -/
def execMigrationSlotReuse (slot : Nat) (s : State) : Res :=
  ok (match smGet none s.stream.mig.slots slot with
    | none => s
    | some x => if x.draining && !slotRead s slot then pinMore (zeroDev (s.stream.mig.base + 0x200000 * slot) 0x200000 (setSlot slot none s)) else s)

/-! ## COPY and FILL (R193, R256) -/

def overlap (a n b m : Nat) : Bool := decide (a < b + m) && decide (b < a + n)

def runCopy (c : Cmd) (s : State) : State :=
  let src := leAt c.desc 16 8
  let dst := leAt c.desc 24 8
  let n := leAt c.desc 32 8
  if overlap src n dst n then failCmd c.id (bad (locator 0 0 24)) s else
  match vaRead s c.func c.domain src n (locator 0 0 16) with
  | .error e => failCmd c.id e s
  | .ok bs => match vaStage s c.func c.domain dst bs (locator 0 0 24) with
    | .error e => failCmd c.id e s
    | .ok segs => stageDone c.id segs (min n 0xFFFFFFFF) s

/-- COPY (R193). -/
def execCopy (id : Nat) (s : State) : Res := ok (runReady id 0x21 runCopy s)

def runFill (c : Cmd) (s : State) : State :=
  let dst := leAt c.desc 16 8
  let n := leAt c.desc 24 8
  match vaStage s c.func c.domain dst ((List.range (n / 8)).flatMap (fun _ => slice c.desc 32 8)) (locator 0 0 16) with
  | .error e => failCmd c.id e s
  | .ok segs => stageDone c.id segs (min n 0xFFFFFFFF) s

/-- FILL (R193). -/
def execFill (id : Nat) (s : State) : Res := ok (runReady id 0x22 runFill s)

/-! ## MODEL_PLACE (R54 to R59, R80) -/

/-- The first fault of a placement entry: the offset of its field (R4, R54, R55, R56). -/
def entryFault (s : State) (layers : Nat) (b : Bytes) : Option Nat :=
  let e := entryOf b
  if bf (byteAt b 0) 7 4 ≠ 0 ∨ 6 ≤ e.hint ∨ (e.split = 1 ∧ e.hint ≠ 4) ∨ (e.hint = 5 ∧ s.ident.variant ≠ 2) then some 0
  else if bit (byteAt b 1) 7 ∨ (e.hint = 4 ∧ e.share = 0) ∨ (e.hint ≠ 4 ∧ e.share ≠ 0) then some 1
  else if bf (byteAt b 2) 7 5 ≠ 0 ∨ e.mask = 0 then some 2
  else if byteAt b 3 ≠ 0 then some 3
  else if e.last < e.first ∨ layers ≤ e.last then some 6
  else none

/-- The lowest gap of `len` bytes in the copy area of a port (16_security R509). -/
def areaGap (s : State) (p len : Nat) : Option Nat :=
  let base := s.sec.wcopyBase.getD p 0
  let endd := base + 0x200000 * s.sec.wcopySize.getD p 0
  let starts := base :: (s.stream.copies.map (fun c => c.addr + c.len))
  ((starts.filter (fun a => decide (base ≤ a) && decide (a + len ≤ endd) &&
    s.stream.copies.all (fun c => !overlap a len c.addr c.len))).foldl (fun b a => match b with
      | none => some a
      | some x => some (min x a)) none)

/-- Reserve copies one by one, of `bytes` of each tensor; none when one does not fit. -/
def reserveCopies (cmd f : Nat) (img : Image) (hot : Bool) (bytes : Config.TensorInfo → Nat) : List Config.TensorInfo → State → Option State
  | [], s => some s
  | t :: ts, s =>
    let len := max 1 (bytes t)
    match areaGap s (portOf f) len with
    | none => none
    | some a =>
      let w : WCopy := { func := f, handle := img.handle, version := img.version, layer := t.layer, tensor := t.index,
                         hot := hot, addr := a, len := len, staged := some cmd }
      reserveCopies cmd f img hot bytes ts { s with stream := { s.stream with copies := s.stream.copies ++ [w] } }

/-- The hot set with the pinned entries alone, `skip` apart. -/
def pinnedOnly (skip : Option Nat) (s : State) : State :=
  { s with bow := { s.bow with hot := s.bow.hot.map (fun h => if pinned s h && some h.id != skip then h else { h with banks := [0, 0, 0, 0] }) } }

/-- The string-banks that `need` hot bytes of a function take do not fit beside the pinned entries, or would put it over
its `hot_mib` beside its own pinned ones (R58; 10_scheduling_sharing R338; DEDUCED, log entry 68). -/
def hotShort (s : State) (f need : Nat) (own : Option Nat) : Bool :=
  let p := pinnedOnly own s
  match fillStrings p (List.range s.bow.strings.length) need with
  | none => true
  | some l => decide (0x100000 * (quotaOf s f).hotMib <
      bankUse s l + sumBy (fun h => if h.func = f then hotUse s h else 0) p.bow.hot)

/-- The current entry of a function holds the very tensors that a placement puts into the hot set: it goes on serving. -/
def sameHot (s : State) (f : Nat) (m : Image) (es : List PlaceEntry) : Option HotEntry :=
  match placementOf s f m.handle m.version with
  | none => none
  | some p => if hotTensors p.entries m = hotTensors es m then hotEntryOf s f m.handle m.version else none

def hotBytes (es : List PlaceEntry) (m : Image) : Nat := sumBy tensorLen (hotTensors es m)

/-- Tensors of which a DDR5 copy is required; on the -L none (R59, R80). -/
def copyTensors (s : State) (es : List PlaceEntry) (m : Image) : List Config.TensorInfo :=
  if s.ident.variant = 2 then [] else (infoOf m).tensors.filter (fun t => decide (0 < ddrPart (homeIn es t) t))

/-- Reserve the copies that a placement requires; none when one does not fit its port's copy area (R58; 16_security R509). -/
def placeCopies (c : Cmd) (m : Image) (es : List PlaceEntry) (s : State) : Option State :=
  (reserveCopies c.id c.func m false (fun t => ddrPart (homeIn es t) t) (copyTensors s es m) s).bind
    (reserveCopies c.id c.func m true tensorLen (hotTensors es m))

/-- The regions that the other placements, and the MODEL_PLACEs under way, pin (R80). -/
def otherPins (s : State) (c : Cmd) : List Nat :=
  (s.stream.placements.filter (fun p => !(p.func == c.func && p.handle == c.model))).flatMap (fun p => match imageVersion s p.handle p.version with
    | none => []
    | some m => pinRegions s p.entries m) ++
  (s.hif.cmds.filter (fun x => x.id != c.id && !(x.func == c.func && x.model == c.model))).flatMap (pinning s)

/-- The lowest applicable quota code of a placement, if any (R58, R59, R80, R340; 16_security R509): what it replaces is deducted. -/
def placeQuota (s : State) (c : Cmd) (m : Image) (es : List PlaceEntry) : Option Nat :=
  let f := c.func
  let hot := hotBytes es m
  let mine := sumBy (fun w => if w.func = f ∧ w.handle = m.handle ∧ !w.old then w.len else 0) s.stream.copies
  let pins := pinRegions s es m
  let need := sumBy (fun t => ddrPart (homeIn es t) t) (copyTensors s es m) + hot +
    (if s.stream.mig.owner = f then 0 else 0x200000 * pins.length)
  let ddrBad := decide (0x100000 * (quotaOf s f).ddrMib <
    copyBytes s f - mine + need + pinBytes s f (some m.handle) + poolBytes s f + cacheBytes s f) || (placeCopies c m es s).isNone
  let same := sameHot s f m es
  let hotBad := decide (0 < hot) && !(match same with | none => false | some h => h.loaded) && hotShort s f hot (same.map (fun h => h.id))
  let pinBad := !pins.isEmpty && decide (s.stream.mig.size < (otherPins s c ++ pins).eraseDups.length)
  if ddrBad then some 2 else if hotBad then some 4 else if pinBad then some 5 else none

/-- Create the hot entry of a placement. -/
def addHot (cmd f : Nat) (m : Image) (bytes backing : Nat) (s : State) : State :=
  { s with bow := { s.bow with nextHot := s.bow.nextHot + 1, hot := s.bow.hot ++
      [{ id := s.bow.nextHot, handle := m.handle, version := m.version, func := f, bytes := bytes, banks := [0, 0, 0, 0],
         loaded := false, switching := false, lastUse := s.now, staged := some cmd, backing := backing }] } }

/-- Opcodes that use the weights of a handle. -/
def readsWeights (op : Nat) : Bool := decide (1 ≤ op ∧ op ≤ 8) || op == 0x20 || op == 0x33

/-- Copies and hot entries that no command uses any longer are zeroed and freed: a command bound the placement of each
handle it names at its acceptance, and a pass reads the copies of the placement that opened it (R57, R63, R86, R87; 16_security R510). -/
def sweepOld (s : State) : State :=
  let used (f handle version keep : Nat) : Bool := s.hif.cmds.any (fun c => readsWeights c.opcode && c.func == f &&
    decide (c.id < keep) && c.bound.places.any (fun p => p.handle == handle)) ||
    s.stream.passes.any (fun p => p.func == f && p.handle == handle && p.version == version && decide (p.opener < keep))
  let gone := s.stream.copies.filter (fun w => w.old && !used w.func w.handle w.version w.keep)
  let s1 := gone.foldl (fun t w => zeroDev w.addr w.len t) s
  let s2 := { s1 with stream := { s1.stream with copies := s1.stream.copies.filter (fun w => !gone.contains w) } }
  let dead := s2.bow.hot.filter (fun h => h.old && !used h.func h.handle h.version h.keep)
  let s3 := dead.foldl (fun t h => evictHot h.id t) s2
  { s3 with bow := { s3.bow with hot := s3.bow.hot.filter (fun h => !dead.any (fun d => d.id == h.id)) } }

/-- Some placement pins a region: one in force, that of a MODEL_PLACE under way, or one that a command bound at its acceptance (R57, R80). -/
def pinnedBy (s : State) (r : Nat) : Bool :=
  s.stream.placements.any (fun p => match imageVersion s p.handle p.version with
    | none => false
    | some m => (pinRegions s p.entries m).contains r) ||
  s.hif.cmds.any (fun c => (pinning s c).contains r || (readsWeights c.opcode && c.bound.places.any (fun p =>
    match p.entries, imageVersion s p.handle p.version with
    | some es, some m => (pinRegions s es m).contains r
    | _, _ => false)))

/-- After the placements have changed: slots that no placement pins any longer are unpinned, and those that a STREAM_STORE
placement now covers are evicted (R80). -/
def settlePins (s : State) : State :=
  s.stream.mig.slots.foldl (fun t p => match p.2 with
    | none => t
    | some x =>
      if x.draining then t
      else if x.pinned && !pinnedBy s x.region then
        (if keptOut s x.region then drainSlot p.1 t else setSlot p.1 (some { x with pinned := false }) t)
      else if !x.pinned && keptOut s x.region then drainSlot p.1 t else t) s

/-- A copy or a hot entry that what comes after no longer uses: it stays for the commands accepted before (R57). -/
def retireCopy (id : Nat) (w : WCopy) : WCopy := if w.old then w else { w with old := true, keep := id }
def retireHot (id : Nat) (h : HotEntry) : HotEntry := if h.old then h else { h with old := true, keep := id }

/-- Drop what a MODEL_PLACE had reserved and loaded when it does not commit. -/
def dropStagedCopies (id : Nat) (s : State) : State :=
  let gone := s.stream.copies.filter (fun w => w.staged == some id)
  let s1 := gone.foldl (fun t w => zeroDev w.addr w.len t) s
  let s2 := (s1.bow.hot.filter (fun h => h.staged == some id)).foldl (fun t h => evictHot h.id t) s1
  { s2 with stream := { s2.stream with copies := s2.stream.copies.filter (fun w => !(w.staged == some id)) }
            bow := { s2.bow with hot := s2.bow.hot.filter (fun h => !(h.staged == some id)) } }

/-- Write what a new copy holds: its part of its tensor, decoded (R53, R65). -/
def fillCopy (m : Image) (es : List PlaceEntry) (s : State) (w : WCopy) : State :=
  match tensorOf m w.layer w.tensor with
  | none => s
  | some t =>
    let f := if w.hot then (1, 1) else ddrFraction (homeIn es t) t
    writeBytes .dev w.addr (tensorBytes s m f.1 f.2 t) s

/-- Commit MODEL_PLACE: the new copies hold their bytes, the placement is in force, the earlier one's copies go when
their last command completes (R57). One whose version was replaced while it ran leaves no placement (R86). -/
def commitModelPlace (c : Cmd) (s : State) : State :=
  match imageVersion s c.model c.bound.version with
  | none => s
  | some m =>
    if !m.inForce || m.released then settlePins (dropStagedCopies c.id s) else
    let es := placeEntries c
    let mine (w : WCopy) : Bool := w.func == c.func && w.handle == c.model
    let s1 : State := { s with
      stream := { s.stream with
      copies := s.stream.copies.map (fun w => if !mine w then w else if w.staged = some c.id then { w with staged := none }
        else retireCopy s.hif.nextId w)
      placements := (s.stream.placements.filter (fun (p : Placement) => !(p.func == c.func && p.handle == c.model))) ++
        [{ func := c.func, handle := c.model, version := c.bound.version, entries := es }] },
      bow := { s.bow with hot := s.bow.hot.map (fun (h : HotEntry) =>
        if h.staged = some c.id then { h with staged := none }
        else if h.func = c.func ∧ h.handle = c.model ∧ c.aux.head? ≠ some h.id then retireHot s.hif.nextId h else h) } }
    settlePins ((s1.stream.copies.filter (fun w => mine w && !w.old)).foldl (fillCopy m es) s1)

end Sys2Proof.Machine
end

