-- ==== Sys2Proof/Machine/Frets.lean ====
section
/-! DEFINITION. Machine/Frets.lean: the rows of 01_architecture (R22 to R36) and of 10_scheduling_sharing
(R342 to R361): slices, faults, window refetches, pre-emption, the port split and the hot set. -/

namespace Sys2Proof.Machine
open Sys2Proof

/-- A program of this command still has threads that have not exited. -/
def threadsLeft (s : State) (id : Nat) : Bool := s.gcore.threads.any (fun t => t.cmd == id && t.exited.isNone)

/-- The slice that runs on a part of a fret. -/
def partRun (s : State) (p : FretPart) : Option Run := if p.edge then (fretOf s p.fret).edge else (fretOf s p.fret).run

/-- A fret runs a slice, or a job of the safety function. -/
def fretBusy (s : State) (i : Nat) : Bool := !(fretOf s i).slots.isEmpty || s.saf.jobs.any (fun j => j.fret == some i)

/-- SLICE_COMPLETE (R346, R347): the fret falls free and the bow gives it its next slice. A program's slice ends only
when every thread has exited (06_streaming_and_fusion R228). -/
def execSliceComplete (part : FretPart) (cycles : Nat) (s : State) : Res :=
  unit part.fret 48 (ok (match partRun s part with
    | none => s
    | some r => if threadsLeft s r.cmd then s else dispatch (settleStream (endSlice r cycles s))))

/-- PREEMPT_GRACE_EXPIRY (R352 to R354). -/
def execPreemptGraceExpiry (id : Nat) (s : State) : Res :=
  ok (match cmdOf s id with
    | none => s
    | some _ =>
      let s1 := (List.range 48).foldl unqueue s
      match cmdOf s1 id with
      | none => s
      | some w => if runnable w then dispatch (settleStream (preempt w s1)) else s)

/-- SLICE_WATCHDOG_EXPIRY (R26): a fret fault of a fret that runs a slice. -/
def execSliceWatchdogExpiry (part : FretPart) (s : State) : Res :=
  unit part.fret 48 (ok (when (if part.edge then (partRun s part).isSome else fretBusy s part.fret)
    (settleDispatch ∘ fretFaulted part.fret false [if part.edge then .edge else .array]) s))

/-- Evict every hot entry with a part in a bank of a string (R25). -/
def evictBank (j b : Nat) (s : State) : State := (hotInBank s j b).foldl (fun t e => evictHot e t) s

/-- FRET_FAULT (R25, R27, R28, R30). Loss of clock or power is a fault only while a slice runs; a fault that strikes no slice ends none. -/
def execFretFault (fret : Nat) (kind : FretFaultKind) (s : State) : Res :=
  unit fret 48 (ok (match kind with
    | .sramDouble b struck => settleDispatch (fretFaulted fret true [struck] (evictBank (fret / 12) b s))
    | .dma struck => settleDispatch (fretFaulted fret false [struck] s)
    | .clockOrPower => when (fretBusy s fret) (settleDispatch ∘ fretFaulted fret false [.array, .edge]) s))

/-- SRAM_CORRECTED_WRITEBACK (R22): the corrected word is written back and the unit's counter counts it. -/
def execSramCorrectedWriteback (u : EccUnit) (offset : Nat) (word : Bytes) (s : State) : Res :=
  match u with
  | .fret n => unit n 48 (unit offset 0x400000 (ok (modFret n (fun f => { f with corrected := f.corrected + 1 })
      (writeBytes .dev (fretBase n + offset / 8 * 8) (padTo 8 word) s))))
  | .string n => unit n 4 (unit offset 0x1000000 (ok (modString n (fun x => { x with corrected := x.corrected + 1 })
      (writeBytes .dev (stringBufBase n + offset / 8 * 8) (padTo 8 word) s))))

/-- The slices on a string that consume a line being refetched. -/
def lineRuns (s : State) (j : Nat) : List Run :=
  (runningSlices s).filter (fun r => r.frets.any (fun i => i / 12 == j) &&
    (match cmdOf s r.cmd with | none => false | some c => awaitsLine s c r.idx j))

/-- The granule that a line of a unit's store part comes from, in proportion to its place there (DESIGN CHOICE, log entry 13). -/
def lineGranule (s : State) (img : Image) (u : PassUnit) (j off : Nat) : Option Nat :=
  let share := u.shares.getD j 0
  let ddr := u.ddrBytes * share / max 1 u.bytes
  let held (r : Nat) : Bool := u.slots.any (fun n => match smGet none s.stream.mig.slots n with | none => false | some x => x.region == r)
  let gs := storeGranules s img u held
  (placeIn off 0 (u.ranges.getD j [])).bind (fun k => gs[gs.length * (k - ddr) / max 1 (share - ddr)]?)

/-- A line refetched from the store on the -L counts at its region (02_memory_tiers R77). -/
def countLine (p u j off : Nat) (s : State) : State :=
  match unitOf s (p, u) with
  | none => s
  | some x => match imageVersion s x.1.handle x.1.version with
    | none => s
    | some img => if s.ident.variant = 2 then countReadsOf (lineGranule s img x.2 j off).toList s else s

/-- The lost 4 KiB of a window is refetched, and the slices that consumed it wait for it (R34); a line of no window is lost
without effect. -/
def refetchLine (j off : Nat) (s : State) : State :=
  match unitAt s j off with
  | none => s
  | some (p, u, store) =>
    let s1 := { s with stream := { s.stream with refetch := s.stream.refetch ++
      [{ string := j, line := off / 4096, pass := p, unit := u, fromStore := store, issued := s.now }] } }
    (lineRuns s1 j).foldl (fun t r => rerunQuietly r t) (if store then countLine p u j off s1 else s1)

/-- STRING_BUFFER_DOUBLE_ERROR (R34, R35 cause 4): the 4 KiB is refetched, and the slices that consumed it rerun when it
is back; the second error within 60 s quarantines the string. -/
def execStringBufferDoubleError (string offset : Nat) (s : State) : Res :=
  unit string 4 (ok (
    let last := (stringOf s string).lastBufError
    let s1 := refetchLine string offset (modString string (fun x => { x with lastBufError := some s.now }) s)
    let soon := match last with | none => false | some t => decide (s.now ≤ t + sixtySeconds)
    dispatch (settleStream (if soon then quarantineString string 4 s1 else s1))))

/-- WINDOW_REFETCH_DONE (R34): the bytes are back and the slices run again. -/
def execWindowRefetchDone (string offset : Nat) (s : State) : Res :=
  unit string 4 (ok (dispatch { s with stream := { s.stream with
    refetch := s.stream.refetch.filter (fun x => !(x.string == string && x.line == offset / 4096)) } }))

/-! ## The window buffers and the hand-overs, tick by tick (06_streaming_and_fusion R216, R217, R237)

What the rules order is modelled; how many bytes a tick moves is not given (DESIGN CHOICE, log entry 71). -/

/-- Bytes that the fret DMA moves into a buffer, and that the array takes from one, in a tick. -/
def fillStep : Nat := 4096
def takeStep : Nat := 2048

/-- Copy bytes of device memory: what is listed there lands at the same distance from `dst`. -/
def copyDev (src dst n : Nat) (s : State) : State :=
  (s.mem.dev.filter (fun x => decide (src ≤ x.1) && decide (x.1 < src + n))).foldl
    (fun t x => writeBytes .dev (dst + (x.1 - src)) [x.2] t) (zeroDev dst n s)

/-- Bytes of one fret's part of the window data of a slice: its frets divide it. -/
def fretBytes (w : Work) (seg frets : Nat) : Nat := ceilDiv (bytesFrom w seg) (max 1 frets)

/-- The size of piece `k` of `n` bytes. -/
def pieceSize (n k : Nat) : Nat := min pieceMax (n - pieceMax * k)

/-- Where the bytes of a window piece stand in a string's buffer: the slice's runs there, from the place that the segment and the fret's share
begin at (DESIGN CHOICE, log entry 71). -/
def pieceRuns (s : State) (c : Cmd) (idx j seg share frets piece size : Nat) : List (Nat × Nat) :=
  let w := workOf c idx
  partRuns (w.bytes - bytesFrom w seg + share * fretBytes w seg frets + pieceMax * piece) size (windowRuns s c idx j)

/-- A buffer that the array has emptied is free; weights that stay on the fret stay in theirs (08_sequence_state R294). -/
def takeFrom (keep : Bool) (r : Run) (x : Option Win) : Option Win :=
  match x with
  | none => none
  | some w =>
    if keep || decide (w.cmd ≠ r.cmd) || decide (w.idx ≠ r.idx) || decide (w.filled < w.size) then some w
    else if w.size ≤ w.taken + takeStep then none else some { w with taken := w.taken + takeStep }

/-- The array takes bytes of its current piece, the lowest that is whole. -/
def takeTick (keep : Bool) (r : Run) (f : Fret) : Fret :=
  let low := f.win.foldl (fun a x => match x with
    | none => a
    | some w => if w.cmd = r.cmd ∧ w.idx = r.idx then min a w.piece else a) (2 ^ 64)
  { f with win := f.win.map (fun x => match x with
      | none => none
      | some w => if w.piece = low then takeFrom keep r (some w) else some w) }

/-- Begin a piece in the first free buffer. -/
def beginPiece (w : Win) : List (Option Win) → List (Option Win)
  | [] => []
  | none :: l => some w :: l
  | some x :: l => some x :: beginPiece w l

/-- A command of a queued slice still runs. -/
def queueLive (s : State) (q : Nat × Retry) : Bool := match cmdOf s q.1 with | none => false | some c => decide (c.phase = .running)

/-- The bow queues a slice behind the running one of a fret: what it would choose for it, when that takes one fret alone (R217; DESIGN CHOICE,
log entry 71). -/
def queueBehind (i : Nat) (s : State) : State :=
  match choose (candidateAt s i false) s i with
  | none => s
  | some c => match pickSlice s c i with
    | none => s
    | some (r, again) => if c.opcode == 0x10 || (workOf c r.idx).upTo != 1 || (workOf c r.idx).frets != 1 then s else
      modFret i (fun f => { f with queued := some (c.id, r) }) (modCmd c.id (fun c => setHomes r.idx i
        (if again then { c with retries := c.retries.erase r } else { c with slicesNext := c.slicesNext + 1 })) s)

/-- A fret's queue holds a slice of a live command, or is filled again. -/
def queueTick (i : Nat) (s : State) : State :=
  match (fretOf s i).queued with
  | none => queueBehind i s
  | some q => if queueLive s q then s else queueBehind i (modFret i (fun f => { f with queued := none }) s)

/-- The next piece that the fret DMA moves into a free buffer: one of the running slice, or the first of the queued one once the
last of the running one is in the other buffer. -/
def nextPiece (s : State) (f : Fret) (r : Run) (c : Cmd) : Option Win :=
  let n := fretBytes (workOf c r.idx) r.seg r.frets.length
  if pieceMax * f.begun < n then some { cmd := r.cmd, idx := r.idx, piece := f.begun, size := pieceSize n f.begun }
  else match f.queued with
    | none => none
    | some (q, b) => match cmdOf s q with
      | none => none
      | some k =>
        let m := fretBytes (workOf k b.idx) b.seg 1
        if m = 0 ∨ f.win.all Option.isNone ∨ f.win.any (fun x => match x with
          | none => false
          | some w => decide (w.cmd = q ∧ w.idx = b.idx)) then none
        else some { cmd := q, idx := b.idx, piece := 0, size := pieceSize m 0 }

/-- The fret DMA moves bytes into the buffers of one fret. -/
def fillTick (s : State) (r : Run) (c : Cmd) (f : Fret) : Fret :=
  let f1 := if f.win.any Option.isNone then match nextPiece s f r c with
      | none => f
      | some w => { f with win := beginPiece w f.win, begun := if w.cmd = r.cmd ∧ w.idx = r.idx then f.begun + 1 else f.begun }
    else f
  { f1 with win := f1.win.map (fun x => match x with
      | none => none
      | some w => some { w with filled := min w.size (w.filled + fillStep) }) }

/-- Copy the bytes of some runs of device memory, one behind another. -/
def copyRuns (base dst : Nat) (l : List (Nat × Nat)) (s : State) : State :=
  (l.foldl (fun (p : Nat × State) r => (p.1 + r.2, copyDev (base + r.1) (dst + p.1) r.2 p.2)) (0, s)).2

/-- Where a piece of a fret's window comes from in its string's buffer: of the slice that runs there, or of the queued one. -/
def winRuns (s : State) (i : Nat) (w : Win) (c : Cmd) : List (Nat × Nat) :=
  let f := fretOf s i
  match f.run with
  | none => []
  | some r => if r.cmd = w.cmd ∧ r.idx = w.idx then pieceRuns s c w.idx (i / 12) r.seg (r.frets.idxOf i) r.frets.length w.piece w.size
    else pieceRuns s c w.idx (i / 12) (match f.queued with | none => 0 | some q => q.2.seg) 0 1 w.piece w.size

/-- Buffers that have become whole hold their bytes: those of a streamed unit come from the string buffer. -/
def landPieces (i : Nat) (before : List (Option Win)) (s : State) : State :=
  (List.range 2).foldl (fun t b => match (fretOf t i).win.getD b none with
    | none => t
    | some w =>
      let was := match before.getD b none with | none => 0 | some x => if x.cmd = w.cmd ∧ x.idx = w.idx ∧ x.piece = w.piece then x.filled else 0
      if w.filled < w.size ∨ was = w.size then t else
      match cmdOf t w.cmd with
      | none => t
      | some c => copyRuns (stringBufBase (i / 12)) (fretBase i + 0x80000 * b) (winRuns t i w c) t) s

/-! The hand-overs of a row block (R237) -/

/-- The 4 KiB pieces of a hand-over. -/
def HandOver.pieces (h : HandOver) : Nat := ceilDiv h.data.length 4096

/-- A consuming fret takes a piece of its current tile; the last tile frees the piece's credit. -/
def ringTake (pieces tiles sent : Nat) (g : InRing) : InRing :=
  if tiles ≤ g.tile ∨ sent ≤ g.taken then g else
  let held := if g.tile + 1 = tiles then g.held - 1 else g.held
  if g.taken + 1 < pieces then { g with taken := g.taken + 1, held := held } else { g with tile := g.tile + 1, taken := 0, held := held }

/-- What of its work a consuming stage has done: tiles done by the slowest of its frets, and how many it has. -/
def handDone (h : HandOver) : Nat × Nat :=
  if h.pieces = 0 ∨ h.tiles = 0 then (1, 1) else (h.rings.foldl (fun a g => min a g.tile) h.tiles, h.tiles)

/-- One hand-over moves: each consuming fret takes a piece, and the producer writes one while it has output and every ring has a free
credit. `input`: what the producer has done of its own work. -/
def handTick (input : Nat × Nat) (h : HandOver) : HandOver :=
  let h1 := { h with rings := h.rings.map (ringTake h.pieces h.tiles h.sent) }
  if h1.sent < h1.pieces * input.1 / max 1 input.2 ∧ h1.rings.all (fun g => decide (g.held < 256)) = true then
    { h1 with sent := h1.sent + 1, rings := h1.rings.map (fun g => { g with held := g.held + 1 }) }
  else h1

/-- Every hand-over of a row block, each behind the one that feeds its producer. -/
def handChain : Nat × Nat → List HandOver → List HandOver
  | _, [] => []
  | input, h :: l => let h1 := handTick input h
    h1 :: handChain (if h1.pieces = 0 then input else handDone h1) l

/-- The input ring of a fret: the last four banks of its work area (DESIGN CHOICE, log entry 71). -/
def ringBase (s : State) (i : Nat) : Nat := bankBase i (12 - s.bow.hotBanks)

/-- The piece that a hand-over has sent in this tick lands in the ring of each consuming fret. -/
def landHand (h : HandOver × HandOver) (s : State) : State :=
  if h.2.sent = h.1.sent then s else
  h.2.rings.foldl (fun t g => writeBytes .dev (ringBase s g.fret + 4096 * (h.1.sent % 256)) (slice h.1.data (4096 * h.1.sent) 4096) t) s

/-- The hand-overs of one running row block move. -/
def handRun (r : Run) (s : State) : State :=
  let hs := handChain (1, 1) r.hands
  (r.hands.zip hs).foldl (fun t h => landHand h t)
    { s with bow := { s.bow with frets := s.bow.frets.map (fun f => if f.run = some r then { f with run := some { r with hands := hs } } else f) } }

/-- The hand-overs of every running row block move. -/
def handsTick (s : State) : State := ((runningSlices s).filter (fun r => !r.hands.isEmpty)).foldl (fun t r => handRun r t) s

/-- One tick of a fret that runs a slice. -/
def fretTick (s : State) (i : Nat) : State :=
  match (fretOf s i).run with
  | none => s
  | some r => match cmdOf s r.cmd with
    | none => s
    | some c =>
      let s1 := queueTick i s
      let before := (fretOf s1 i).win
      landPieces i before (modFret i (fun f => fillTick s1 r c (takeTick (workOf c r.idx).stays r f)) s1)

/-- A unit that has one tier's parts waits for the other's (02_memory_tiers R68). -/
def waitsTier (store : Bool) (u : PassUnit) : Bool :=
  u.issued.isSome && !u.released && u.fromDdr && u.fromStore && (if store then u.ddrDone && !u.storeDone else u.storeDone && !u.ddrDone)

/-- Microseconds of the tick that ends now that a counter has not counted, which stood at microsecond `seen` (02_memory_tiers R68). -/
def newMicros (s : State) (seen : Nat) : Nat := s.now / 384000 + 1 - max seen ((s.now - tickUnits s) / 384000)

/-- DDR_STRIPE_WAIT counts each microsecond once in each of its counters (02_memory_tiers R68). -/
def stripeTick (s : State) : State :=
  let us := s.now / 384000 + 1
  let waits (store : Bool) : Bool := s.stream.passes.any (fun p => p.units.any (waitsTier store))
  let s1 := if waits true then
    { s with stream := { s.stream with storeWaitUs := wrapAdd 32 s.stream.storeWaitUs (newMicros s s.stream.storeSeen), storeSeen := us } } else s
  if waits false then
    { s1 with stream := { s1.stream with ddrWaitUs := wrapAdd 32 s1.stream.ddrWaitUs (newMicros s s.stream.ddrSeen), ddrSeen := us } } else s1

/-- A tick of the frets and of the stream engine. -/
def feedTick (s : State) : State := stripeTick (handsTick ((List.range 48).foldl fretTick s))

/-! ## The port split (R342, R343) -/

/-- A port's pools, cache and copy area lie in its part of the DDR5 range under a share (R343; 16_security R509). -/
def regionsFit (s : State) (k p : Nat) : Bool :=
  (funcsOf p).all (fun f => inPortRange k p (65536 * (mmuOf s f).poolBase) (poolBytes s f)) &&
  (portOf s.stream.mig.owner != p || inPortRange k p s.stream.mig.base (0x200000 * s.stream.mig.size)) &&
  inPortRange k p (s.sec.wcopyBase.getD p 0) (0x200000 * s.sec.wcopySize.getD p 0)

def ddrShareMib (k p : Nat) : Nat := 8128 * (if p = 0 then k else 16 - k)
def fretShare (s : State) (k p : Nat) : Nat := (if p = 0 then k else 16 - k) * fOut s / 16

/-- The quotas of a port's functions fit a share (R339, R343). -/
def quotasFit (s : State) (k p : Nat) : Bool :=
  decide (sumBy (fun f => (quotaOf s f).ddrMib) (funcsOf p) ≤ ddrShareMib k p) &&
  decide (sumBy (fun f => (quotaOf s f).minFrets) (funcsOf p) ≤ fretShare s k p)

/-- Every usage of a port fits a share. -/
def portFits (s : State) (k p : Nat) : Bool :=
  regionsFit s k p && quotasFit s k p && decide (installedMib s p ≤ shareMib s k p)

/-- A new proposal of a port: equal proposals that differ from k take effect when every usage fits. -/
def propose (p v : Nat) (s : State) : State :=
  let prop := setAt p v s.bow.prop
  let s1 := { s with bow := { s.bow with prop := prop, blocked := false } }
  if prop.getD 0 0 = prop.getD 1 0 ∧ v ≠ s.bow.k then
    if portFits s v 0 && portFits s v 1 then { s1 with bow := { s1.bow with k := v } }
    else { s1 with bow := { s1.bow with blocked := true } }
  else s1

/-- BOW_PORT_SPLIT_WRITE (R342, R363). -/
def execBowPortSplitWrite (func value : Nat) (s : State) : Res :=
  regWrite func 0 s <|
  let v := bf value 4 0
  ok (if isPhys func && decide (v ≤ 16) && decide (s.bow.prop.getD (portOf func) 0 ≠ v) then propose (portOf func) v s else s)

/-! ## The hot set (R358 to R361) -/

def pinnedEntries (s : State) : List HotEntry := s.bow.hot.filter (pinned s)

/-- The hot set emptied, at `n` banks per fret. -/
def bareHotSet (n : Nat) (s : State) : State :=
  { s with bow := { s.bow with hotBanks := n, hot := s.bow.hot.map (fun h =>
      { h with banks := [0, 0, 0, 0], loaded := false, switching := false }) } }

/-- Place entries one after another in the free hot banks. -/
def layEntries : List HotEntry → State → Option State
  | [], s => some s
  | h :: hs, s => match fillStrings s (List.range s.bow.strings.length) h.bytes with
    | none => none
    | some b => layEntries hs { s with bow := { s.bow with hot := s.bow.hot.map (fun x =>
        if x.id = h.id then { x with banks := b } else x) } }

/-- The pinned entries fit a hot set of `n` banks per fret. -/
def pinnedFit (s : State) (n : Nat) : Bool := (layEntries (pinnedEntries s) (bareHotSet n s)).isSome

/-- BOW_HOTSET_CTRL_WRITE (R359, R361): `banks` takes effect with HOTSET_RESIZE. -/
def execBowHotsetCtrlWrite (func value : Nat) (s : State) : Res :=
  regWrite func 0 s <|
  let n := bf value 3 0
  ok (if !isPhys func then s
    else if 8 < n then dispatch (settleStream { s with bow := { s.bow with policy := bf value 8 8 } })
    else if pinnedFit s n then
      dispatch (settleStream { s with bow := { s.bow with
          policy := bf value 8 8, hotBanksNext := if n = s.bow.hotBanks then none else some n } })
    else s)

/-- A slice runs on a hot entry. -/
def hotRuns (s : State) : Bool :=
  (runningSlices s).any (fun r => match cmdOf s r.cmd with | none => false | some c => c.hot.isSome)

/-- Change the size of the hot set: every entry is evicted, and the pinned ones load again. -/
def resizeHot (n : Nat) (s : State) : State :=
  let s1 := (s.bow.hot.map (fun h => h.id)).foldl (fun t e => evictHot e t) s
  let s2 := { s1 with bow := { s1.bow with hotBanks := n, hotBanksNext := none } }
  (pinnedEntries s2).foldl (fun t h => startSwitch h.id t) s2

/-- HOTSET_RESIZE (R361). -/
def execHotsetResize (s : State) : Res :=
  ok (match s.bow.hotBanksNext with
    | none => s
    | some n => if hotRuns s then s else dispatch (resizeHot n s))

/-- BOW_HOT_PIN_WRITE (R359): the pinned handle's entry is loaded. -/
def execBowHotPinWrite (func n value : Nat) (s : State) : Res :=
  regWrite func 0 s <|
  unit n 8 (ok (if !isPhys func then s else
    dispatch (settleStream { s with bow := { s.bow with
      pins := setAt (func + n) { valid := bit value 16, model := bf value 15 0 } s.bow.pins } })))

/-- A hot entry's load has ended: it is ready, and a MODEL_PLACE that waits for it is done (R57, R360). -/
def hotLoaded (e : Nat) (s : State) : State :=
  let s1 : State := { s with bow := { s.bow with hot := s.bow.hot.map (fun h =>
    if h.id = e then { h with loaded := true, switching := false, lastUse := s.now } else h) } }
  pinMore s1

/-- The DDR5 runs of an entry's backing copy. -/
def backingRuns (s : State) (h : HotEntry) : List (Nat × Nat) :=
  (s.stream.copies.filter (fun w => w.hot && w.func == h.func && w.handle == h.handle && w.version == h.version)).map (fun w => (w.addr, w.len))

/-- A firewall refuses the reads of a switch: the entry is not loaded, and the commands that wait for it fail (01_architecture R40; DEDUCED,
log entry 67). -/
def refuseSwitch (h : HotEntry) (e : Fail) (s : State) : State :=
  ((s.hif.cmds.filter (fun c => c.hot == some h.id && decide (c.phase = .running))).map (fun c => c.id)).foldl (fun t id => failCmd id e t)
    (evictHot h.id (recordFail h.func 0xFFFF e s))

/-- HOT_SWITCH_DONE (R360): the reads of the backing copy are the pegs', domain 32. -/
def execHotSwitchDone (entry : Nat) (s : State) : Res :=
  ok (match hotOf s entry with
    | none => s
    | some h => if !h.switching then s else match runsRefused s 32 false (locator 0 0 8) (backingRuns s h) with
      | some e => dispatch (settleStream (refuseSwitch h e s))
      | none => dispatch (hotLoaded entry s))

end Sys2Proof.Machine
end

