-- ==== Sys2Proof/Machine/Sessions.lean ====
section
/-! DEFINITION. Machine/Sessions.lean: sessions, their KV regions and pages, and the prefix tree: the rows of
07_attention_kv other than the attention operators (R247 to R256, R273 to R281, R284). -/

namespace Sys2Proof.Machine
open Sys2Proof

/-! ## Checks of blocks -/

/-- The offset beside the first check that does not hold. -/
def firstBad : List (Bool × Nat) → Option Nat
  | [] => none
  | (c, o) :: l => if c then firstBad l else some o

/-! ## Layout of a region (R250) -/

def kvElem (fmt : Nat) : Nat := if fmt = 3 then 2 else 1
def planeSize (headDim fmt : Nat) : Nat := 64 * headDim * kvElem fmt + (if fmt = 2 then 128 else 0)
/-- Pages of 64 KiB in a slot: S_pad ÷ 65,536. -/
def slotPagesOf (layers kvHeads headDim fmt : Nat) : Nat := ceilDiv (layers * 2 * kvHeads * planeSize headDim fmt) 65536
def Session.slotPages (x : Session) : Nat := slotPagesOf x.layers x.kvHeads x.headDim x.kvFmt
def Session.slotVa (x : Session) (b : Nat) : Nat := x.kvBase + b * (65536 * x.slotPages)
def Session.regionLen (x : Session) : Nat := x.maxLen / 64 * (65536 * x.slotPages)
/-- Offset in the slot of plane (layer, v, head). -/
def Session.planeOff (x : Session) (layer v head : Nat) : Nat :=
  ((layer * 2 + v) * x.kvHeads + head) * planeSize x.headDim x.kvFmt
/-- The session's length (R251). -/
def Session.length (x : Session) : Nat := x.fills.foldl min (x.fills.headD 0)

def sessionOf (s : State) (f sid : Nat) : Option Session := s.atn.sessions.find? (fun x => x.func == f && x.sid == sid)
def modSession (f sid : Nat) (g : Session → Session) (s : State) : State :=
  { s with atn := { s.atn with sessions := s.atn.sessions.map (fun x => if x.func = f ∧ x.sid = sid then g x else x) } }

/-- Aperture keys of the pages of slot `b`. -/
def slotKeys (x : Session) (b : Nat) : List Nat :=
  (List.range x.slotPages).map (fun i => apKey x.func (x.slotVa b + 65536 * i))
def slotMap (s : State) (x : Session) (b : Nat) : List (Option KvPage) := (slotKeys x b).map (smGet none s.atn.aperture)

/-! ## Pages (R252, R279, R281) -/

/-- A page is mapped by a session or listed by a prefix entry. -/
def pageUsed (s : State) (p : Nat) : Bool :=
  s.atn.aperture.any (fun e => match e.2 with | none => false | some k => k.page == p) ||
  s.atn.prefixes.any (fun e => e.pages.contains p)

/-- Return to their pools the pages of a list that nothing uses any longer (R281). -/
def sweepPages (l : List Nat) (s : State) : State :=
  { s with atn := { s.atn with pageOwner := l.foldl (fun m p => if pageUsed s p then m else smSet 0 p 0 m) s.atn.pageOwner } }

/-- The lowest free pages of a function's pool. -/
def freePages (s : State) (f n : Nat) : List Nat :=
  (((List.range (mmuOf s f).poolPages).map (fun i => (mmuOf s f).poolBase + i)).filter
    (fun p => smGet 0 s.atn.pageOwner p == 0)).take n

/-- Pages of the pool neither mapped nor listed (MMU_KVPOOL_FREE). -/
def poolFree (s : State) (f : Nat) : Nat := (freePages s f (mmuOf s f).poolPages).length

/-- Map pages into aperture keys, as the function's own. -/
def mapPages (f : Nat) (keys pages : List Nat) (s : State) : State :=
  { s with atn := { s.atn with
      aperture := (keys.zip pages).foldl (fun m e => smSet none e.1 (some { page := e.2, shared := false }) m) s.atn.aperture
      pageOwner := pages.foldl (fun m p => smSet 0 p (f + 1) m) s.atn.pageOwner } }

/-- Drop the mappings of slots, and return what nothing uses. -/
def unmapSlots (x : Session) (bs : List Nat) (s : State) : State :=
  let keys := bs.flatMap (slotKeys x)
  let pages := keys.filterMap (fun k => (smGet none s.atn.aperture k).map (fun e => e.page))
  sweepPages pages { s with atn := { s.atn with aperture := keys.foldl (fun m k => smSet none k none m) s.atn.aperture } }

/-- Make slot `b` writable: take pages for it when it is not backed, and a copy of them when it is shared. None when the
pool cannot supply them. -/
def ownSlot (x : Session) (b : Nat) (s : State) : Option State :=
  let old := slotMap s x b
  if old.all (fun e => match e with | none => false | some k => !k.shared) then some s else
  let pages := freePages s x.func x.slotPages
  if pages.length < x.slotPages then none else
  let s1 := (old.zip pages).foldl (fun t e => match e.1 with
    | none => t
    | some k => writeBytes .dev (65536 * e.2) (readBytes t .dev (65536 * k.page) 65536) t) s
  some (sweepPages (old.filterMap (fun e => e.map (fun k => k.page))) (mapPages x.func (slotKeys x b) pages s1))

/-- Make several slots writable, or none of them. -/
def ownSlots : Session → List Nat → State → Option State
  | _, [], s => some s
  | x, b :: bs, s => (ownSlot x b s).bind (ownSlots x bs)

/-! ## Which session a command names (R254, R255, R265) -/

def Cmd.names (c : Cmd) (sid : Nat) : Bool := c.session == sid || c.bound.uses.any (fun u => u.session == sid)
def Cmd.writes (c : Cmd) (sid : Nat) (layer : Option Nat) : Bool :=
  c.bound.uses.any (fun u => u.write && u.session == sid && (u.layer.isNone || layer.isNone || u.layer == layer))
def Cmd.reads (c : Cmd) (sid : Nat) : Bool := c.bound.uses.any (fun u => u.session == sid)

/-- A SESSION_CLOSE of the session that has not failed. -/
def Cmd.closes (c : Cmd) (f sid : Nat) : Bool := c.opcode == 0x41 && c.func == f && c.session == sid && c.alive

/-- The session is open for a command: its SESSION_OPEN was accepted before the command, and a SESSION_CLOSE that names it, if at all, after the
command (R255). -/
def openFor (s : State) (c : Cmd) (x : Session) : Bool :=
  decide (x.opened < c.id) && (!x.closing || s.hif.cmds.any (fun k => k.opcode == 0x41 && k.func == c.func && k.session == x.sid && decide (c.id < k.id))) &&
    !s.hif.cmds.any (fun k => k.closes c.func x.sid && decide (k.id < c.id))

/-- Sessions that a command names. -/
def sessionsNamed (c : Cmd) : List Nat :=
  ((if c.session = 0xFFFF then [] else [c.session]) ++ c.bound.uses.map (fun u => u.session)).eraseDups

/-- A command waits for an earlier one of its function by the order of its sessions (R254, R255, R265). -/
def sessionOrder (c k : Cmd) : Bool :=
  ((c.opcode == 0x41 || c.opcode == 0x42) && k.names c.session) ||
  (k.opcode == 0x42 && (sessionsNamed c).contains k.session) ||
  c.bound.uses.any (fun u => u.write && k.writes u.session u.layer)

/-- The open session a command's header names. -/
def ownSession (s : State) (c : Cmd) : Option Session := (sessionOf s c.func c.session).filter (openFor s c)

def noSession : Fail := bad (locator 0 0 10)

/-! ## SESSION_OPEN, SESSION_CLOSE, SESSION_TRUNCATE (R247 to R255) -/

def sessionOpenFault (b : Bytes) : Option Nat :=
  firstBad [(decide (leAt b 0 8 % 65536 = 0) && decide (apertureBase ≤ leAt b 0 8) && decide (leAt b 0 8 < apertureEnd), 0),
    (decide (leAt b 8 4 % 64 = 0) && decide (64 ≤ leAt b 8 4) && decide (leAt b 8 4 ≤ 262144), 8),
    (decide (1 ≤ leAt b 12 2) && decide (leAt b 12 2 ≤ 256), 12),
    (decide (1 ≤ leAt b 14 2) && decide (leAt b 14 2 ≤ 64), 14),
    (decide (leAt b 16 2 % 32 = 0) && decide (32 ≤ leAt b 16 2) && decide (leAt b 16 2 ≤ 256), 16),
    (decide (byteAt b 18 ≤ 3), 18), (zeroAt b 19 13, 19)]

/-- The session a SESSION_OPEN would make. -/
def newSession (c : Cmd) : Session :=
  let b := c.params
  { func := c.func, sid := c.session, handle := c.model, version := c.bound.version, kvBase := leAt b 0 8,
    maxLen := leAt b 8 4, layers := leAt b 12 2, kvHeads := leAt b 14 2, headDim := leAt b 16 2, kvFmt := byteAt b 18,
    fills := List.replicate (leAt b 12 2) 0, opened := c.id }

/-- Why a SESSION_OPEN fails, if it does (R248). -/
def openFail (s : State) (c : Cmd) : Option Fail :=
  let x := newSession c
  firstFail [((sessionOf s c.func c.session).isNone, noSession),
    (decide (x.kvBase + x.regionLen ≤ apertureEnd), bad (locator 2 0 0)),
    (s.atn.sessions.all (fun y => y.func != c.func || !overlap x.kvBase x.regionLen y.kvBase y.regionLen), bad (locator 2 0 0)),
    (decide (s.atn.sessions.length < 4096) && decide (sessionsOf s c.func < (quotaOf s c.func).sessions), quotaFail 1)]

def runSessionOpen (c : Cmd) (s : State) : State :=
  match openFail s c with
  | some e => failCmd c.id e s
  | none => stageDone c.id [] (newSession c).slotPages s

/-- SESSION_OPEN (R247, R248). -/
def execSessionOpen (id : Nat) (s : State) : Res := ok (runReady id 0x40 runSessionOpen s)

def commitSessionOpen (c : Cmd) (s : State) : Except Fail State :=
  match openFail s c with
  | some e => .error e
  | none => .ok { s with atn := { s.atn with sessions := s.atn.sessions ++ [newSession c] } }

/-- SESSION_CLOSE waits for a SESSION_OPEN of the same session that was accepted before it. -/
def openPending (s : State) (c : Cmd) : Bool :=
  s.hif.cmds.any (fun k => k.opcode == 0x40 && k.func == c.func && k.session == c.session && decide (k.id < c.id))

/-- SESSION_CLOSE closes the session that was open, or being opened, at its acceptance. -/
def runSessionClose (c : Cmd) (s : State) : State :=
  match (sessionOf s c.func c.session).filter (fun x => decide (x.opened < c.id)) with
  | none => if openPending s c then s else failCmd c.id noSession s
  | some _ => stageDone c.id [] 0 (modSession c.func c.session (fun x => { x with closing := true }) s)

/-- SESSION_CLOSE (R255). -/
def execSessionClose (id : Nat) (s : State) : Res := ok (runReady id 0x41 runSessionClose s)

/-- Close a session: its pages go back to their pools and its entry is free. -/
def closeSession (x : Session) (s : State) : State :=
  let s1 := unmapSlots x (List.range (x.maxLen / 64)) s
  { s1 with atn := { s1.atn with sessions := s1.atn.sessions.filter (fun y => !(y.func == x.func && y.sid == x.sid)) } }

def commitSessionClose (c : Cmd) (s : State) : State :=
  match (sessionOf s c.func c.session).filter (fun x => decide (x.opened < c.id)) with
  | none => s
  | some x => closeSession x s

/-- A SESSION_CLOSE that did not commit leaves its session open. -/
def reopenSession (c : Cmd) (s : State) : State :=
  if s.hif.cmds.any (fun k => k.opcode == 0x41 && k.func == c.func && k.session == c.session && k.id != c.id) then s
  else modSession c.func c.session (fun x => { x with closing := false }) s

def sessionTruncateFault (b : Bytes) : Option Nat := firstBad [(zeroAt b 4 4, 4)]

def runSessionTruncate (c : Cmd) (s : State) : State :=
  match ownSession s c with
  | none => failCmd c.id noSession s
  | some x => if leAt c.params 0 4 ≤ x.maxLen then stageDone c.id [] 0 s else failCmd c.id (bad (locator 2 0 0)) s

/-- SESSION_TRUNCATE (R254). -/
def execSessionTruncate (id : Nat) (s : State) : Res := ok (runReady id 0x42 runSessionTruncate s)

def commitSessionTruncate (c : Cmd) (s : State) : State :=
  match sessionOf s c.func c.session with
  | none => s
  | some x =>
    let n := leAt c.params 0 4
    unmapSlots x ((List.range (x.maxLen / 64)).filter (fun b => decide (n ≤ 64 * b)))
      (modSession c.func c.session (fun x => { x with fills := x.fills.map (fun v => min v n) }) s)

/-! ## The block hash (R274) -/

def hashMod : Nat := 2 ^ 64
def absorb (h w : Nat) : Nat :=
  let v := (h ^^^ w) % hashMod
  rotl64 ((v + rotl64 v 24) % hashMod) 40
def finishStep (h c : Nat) : Nat :=
  let a := (h + c) % hashMod
  let b := a ^^^ rotl64 a 20
  (b + rotl64 b 44) % hashMod
def finish (h : Nat) : Nat := [0x5A3C96E10F2BD748, 0xC41D7A05E9632B8F, 0x2E97B0C85D146FA3].foldl finishStep h
/-- The words of a block's 256 bytes, in order. -/
def blockWords (b : Bytes) : List Nat := (List.range 32).map (fun j => leAt b (8 * j) 8)
/-- `h` after the parent is absorbed. -/
def absorbed (parent : Nat) (w : List Nat) : Nat := absorb (w.foldl absorb 0) parent
def blockHash (k parent : Nat) (w : List Nat) : Nat :=
  let h := finish (absorbed parent w ^^^ k)
  if h = 0 then 1 else h

/-- The hashes of consecutive blocks, each chained from the one before. -/
def chainHashes (k : Nat) : Nat → List Bytes → List Nat
  | _, [] => []
  | parent, b :: bs => blockHash k parent (blockWords b) :: chainHashes k (blockHash k parent (blockWords b)) bs

def blockTokens (b : Bytes) : List Nat := (List.range 64).map (fun i => leAt b (4 * i) 4)

/-! ## The prefix table (R276 to R280) -/

/-- The share group of a function: 8 × port + `group`. -/
def groupOf (s : State) (f : Nat) : Nat := 8 * portOf f + s.atn.groups.getD f 0
def keyOfGroup (s : State) (g : Nat) : Nat := s.atn.keys.getD g 0

/-- An entry matches a session's block. -/
def prefixHits (s : State) (x : Session) (hash : Nat) (tokens : List Nat) (e : PrefixEntry) : Bool :=
  e.hash == hash && e.group == groupOf s x.func && e.handle == x.handle && e.version == x.version &&
  e.layers == x.layers && e.kvHeads == x.kvHeads && e.headDim == x.headDim && e.kvFmt == x.kvFmt && e.tokens == tokens

def findPrefix (s : State) (x : Session) (hash : Nat) (tokens : List Nat) : Option PrefixEntry :=
  s.atn.prefixes.find? (fun e => e.set == hash % 16384 && prefixHits s x hash tokens e)

def bump (p : Nat) (l : List Nat) : List Nat := modAt p (fun v => wrapAdd 32 v 1) l

/-- The entry a publication replaces in a full set: the least recently hit unpinned one (R277). One that was never hit ranks by the time at which
it was entered (DESIGN CHOICE, log entry 76). -/
def replaceable (s : State) (set : Nat) : Option PrefixEntry :=
  (s.atn.prefixes.filter (fun e => e.set == set && !e.pin)).foldl (fun b e => match b with
    | none => some e
    | some x => if e.lastHit < x.lastHit then some e else some x) none

/-- Remove entries, and return the pages that nothing uses any longer (R279, R281). Mappings of the pages stay marked shared, so that a write still
copies, when the last entry is gone and one session alone maps them (DESIGN CHOICE, log entry 76). -/
def removePrefixes (p : PrefixEntry → Bool) (s : State) : State :=
  let pages := (s.atn.prefixes.filter p).flatMap (fun e => e.pages)
  sweepPages pages { s with atn := { s.atn with prefixes := s.atn.prefixes.filter (fun e => !p e) } }

/-- Enter a block into a set of the prefix tree; its pages become shared. Its place in the order of last hits is that of its entry (R277; DESIGN
CHOICE, log entry 76). -/
def enterPrefix (x : Session) (pin : Bool) (b hash : Nat) (tokens : List Nat) (t : State) (set : Nat) : State :=
  let keys := slotKeys x b
  let pages := (slotMap t x b).filterMap (fun e => e.map (fun k => k.page))
  { t with atn := { t.atn with
      clock := t.atn.clock + 1
      aperture := keys.foldl (fun m k => match smGet none m k with
        | none => m
        | some e => smSet none k (some { e with shared := true }) m) t.atn.aperture
      prefixes := t.atn.prefixes ++ [{
        set := set, hash := hash, group := groupOf t x.func, handle := x.handle, version := x.version,
        layers := x.layers, kvHeads := x.kvHeads, headDim := x.headDim, kvFmt := x.kvFmt, tokens := tokens,
        pages := pages, pin := pin, publisher := x.func, lastHit := t.atn.clock }] } }

/-- Enter one block of a session; whether it was entered and whether it was present. -/
def publishBlock (x : Session) (pin : Bool) (b hash : Nat) (tokens : List Nat) (s : State) : State × Nat × Nat :=
  if (findPrefix s x hash tokens).isSome then (s, 0, 1) else
  let set := hash % 16384
  let full := decide (4 ≤ (s.atn.prefixes.filter (fun e => e.set == set)).length)
  match (if full then replaceable s set else none) with
  | none =>
    if full then (s, 0, 0) else (enterPrefix x pin b hash tokens s set, 1, 0)
  | some old =>
    let s1 := removePrefixes (fun e => e == old) s
    (enterPrefix x pin b hash tokens { s1 with atn := { s1.atn with evictions := bump (old.group / 8) s1.atn.evictions } } set, 1, 0)

/-- Blocks of tokens read for a prefix command. -/
def readBlocks (s : State) (c : Cmd) (n : Nat) : Except Fail (List Bytes) :=
  match vaRead s c.func c.domain (leAt c.params 0 8) (256 * n) (locator 2 0 0) with
  | .error e => .error e
  | .ok bs => .ok (chunksOf 256 n bs)

/-- Stage hashes at `hash_out`, when it is given. -/
def stageHashes (s : State) (c : Cmd) (hs : List Nat) : Except Fail (List Seg) :=
  if leAt c.params 8 8 = 0 then .ok []
  else vaStage s c.func c.domain (leAt c.params 8 8) (hs.flatMap (leBytes 8)) (locator 2 0 8)

def prefixPublishFault (b : Bytes) : Option Nat :=
  firstBad [(leAt b 24 4 != 0 || leAt b 16 8 == 0, 16), (decide (1 ≤ leAt b 28 2) && decide (leAt b 28 2 ≤ 4096), 28),
    (decide (byteAt b 30 ≤ 1), 30), (byteAt b 31 == 0, 31)]

def runPrefixPublish (c : Cmd) (s : State) : State :=
  match ownSession s c with
  | none => failCmd c.id noSession s
  | some x =>
    let first := leAt c.params 24 4
    let n := leAt c.params 28 2
    if x.length < 64 * (first + n) then failCmd c.id (bad (locator 2 0 24)) s else
    match readBlocks s c n with
    | .error e => failCmd c.id e s
    | .ok bs =>
      let hs := chainHashes (keyOfGroup s (groupOf s c.func)) (leAt c.params 16 8) bs
      match stageHashes s c hs with
      | .error e => failCmd c.id e s
      | .ok segs => stageDone c.id segs 0 (modCmd c.id (fun c => { c with stages := bs, aux := hs }) s)

/-- PREFIX_PUBLISH (R277). -/
def execPrefixPublish (id : Nat) (s : State) : Res := ok (runReady id 0x44 runPrefixPublish s)

def commitPrefixPublish (c : Cmd) (s : State) : State :=
  match sessionOf s c.func c.session with
  | none => s
  | some x =>
    let first := leAt c.params 24 4
    let pin := bit (byteAt c.params 30) 0
    let r := (c.stages.zip c.aux).zipIdx.foldl (fun (t : State × Nat × Nat) e =>
      let u := publishBlock x pin (first + e.2) e.1.2 (blockTokens e.1.1) t.1
      (u.1, t.2.1 + u.2.1, t.2.2 + u.2.2)) (s, 0, 0)
    modCmd c.id (fun c => { c with result := r.2.1 + 65536 * r.2.2 }) r.1

def prefixAttachFault (b : Bytes) : Option Nat :=
  firstBad [(decide (1 ≤ leAt b 16 2) && decide (leAt b 16 2 ≤ 4096), 16), (zeroAt b 18 6, 18)]

/-- The blocks that a chain of lookups hits: hash and entry of each, until the first miss or the limit. -/
def attachChain (s : State) (c : Cmd) (x : Session) : Nat → Nat → Nat → Except Fail (List (Nat × PrefixEntry) × Bool)
  | 0, _, _ => .ok ([], false)
  | fuel + 1, i, parent =>
    if x.maxLen < 64 * (i + 1) then .ok ([], false) else
    match vaRead s c.func c.domain (leAt c.params 0 8 + 256 * i) 256 (locator 2 0 0) with
    | .error e => .error e
    | .ok b =>
      let h := blockHash (keyOfGroup s (groupOf s c.func)) parent (blockWords b)
      match findPrefix s x h (blockTokens b) with
      | none => .ok ([], true)
      | some e => match attachChain s c x fuel (i + 1) h with
        | .error f => .error f
        | .ok (l, m) => .ok ((h, e) :: l, m)

def runPrefixAttach (c : Cmd) (s : State) : State :=
  match ownSession s c with
  | none => failCmd c.id noSession s
  | some x =>
    if x.length ≠ 0 then failCmd c.id noSession s else
    match attachChain s c x (leAt c.params 16 2) 0 0 with
    | .error e => failCmd c.id e s
    | .ok (l, _) => match stageHashes s c (l.map (fun e => e.1)) with
      | .error e => failCmd c.id e s
      | .ok segs => stageDone c.id segs 0 s

/-- PREFIX_ATTACH (R278). -/
def execPrefixAttach (id : Nat) (s : State) : Res := ok (runReady id 0x43 runPrefixAttach s)

/-- Map the pages of an entry read-only into slot `i` of a session, and count the hit: pages that nothing maps any longer
return to their pools (R281). -/
def attachBlock (x : Session) (i : Nat) (e : PrefixEntry) (s : State) : State :=
  sweepPages ((slotMap s x i).filterMap (fun m => m.map (fun k => k.page))) { s with atn := { s.atn with
      clock := s.atn.clock + 1
      prefixes := s.atn.prefixes.map (fun y => if y.hash = e.hash ∧ y.set = e.set ∧ y.group = e.group ∧ y.pages = e.pages
        then { y with lastHit := s.atn.clock } else y)
      aperture := ((slotKeys x i).zip e.pages).foldl (fun m k => smSet none k.1 (some { page := k.2, shared := true }) m) s.atn.aperture
      hits := bump (portOf x.func) s.atn.hits } }

def commitPrefixAttach (c : Cmd) (s : State) : Except Fail State :=
  match sessionOf s c.func c.session with
  | none => .error noSession
  | some x => match attachChain s c x (leAt c.params 16 2) 0 0 with
    | .error e => .error e
    | .ok (l, miss) =>
      let s1 := l.zipIdx.foldl (fun t e => attachBlock x e.2 e.1.2 t) s
      let s2 := if miss then { s1 with atn := { s1.atn with misses := bump (portOf c.func) s1.atn.misses } } else s1
      .ok (modCmd c.id (fun c => { c with result := l.length })
        (modSession c.func c.session (fun x => { x with fills := x.fills.map (fun _ => 64 * l.length) }) s2))

def prefixDropFault (b : Bytes) : Option Nat := firstBad [(decide (leAt b 8 2 ≤ 4096), 8), (zeroAt b 10 6, 10)]

/-- The hashes a PREFIX_DROP lists. -/
def dropList (bs : Bytes) : List Nat := (List.range (bs.length / 8)).map (fun i => leAt bs (8 * i) 8)

def runPrefixDrop (c : Cmd) (s : State) : State :=
  match vaRead s c.func c.domain (leAt c.params 0 8) (8 * leAt c.params 8 2) (locator 2 0 0) with
  | .error e => failCmd c.id e s
  | .ok bs => stageDone c.id [] 0 (modCmd c.id (fun c => { c with aux := dropList bs }) s)

/-- PREFIX_DROP (R280). -/
def execPrefixDrop (id : Nat) (s : State) : Res := ok (runReady id 0x45 runPrefixDrop s)

def commitPrefixDrop (c : Cmd) (s : State) : State :=
  let p (e : PrefixEntry) : Bool := e.publisher == c.func && (leAt c.params 8 2 == 0 || c.aux.contains e.hash)
  modCmd c.id (fun x => { x with result := (s.atn.prefixes.filter p).length }) (removePrefixes p s)

/-- ATN_KEY_WRITE (R280, R286): the group's entries go. A write of 0 does nothing (00_scope R15). -/
def execAtnKeyWrite (func g key : Nat) (s : State) : Res :=
  regWrite func 4 s <|
  unit g 8 (ok (if !isPhys func || key == 0 then s else
    removePrefixes (fun e => e.group == func + g)
      { s with atn := { s.atn with keys := setAt (func + g) (key % hashMod) s.atn.keys } }))

/-! ## MMU invalidation (R284, R285) -/

/-- The function whose MMU window an access of `func` to window `w` reaches: a virtual function has its own alone. -/
def mmuTarget (func w : Nat) : Option Nat :=
  if isPhys func then (if w < 8 then some (func + w) else none) else if w = 0 then some func else none

/-- A staged write was translated from a scope: from the page that holds an address, or from any page. -/
def inScope (va : Option Nat) (g : Seg) : Bool :=
  match g.via, va with
  | none, _ => false
  | some _, none => true
  | some p, some a => decide (p.1 ≤ a) && decide (a < p.1 + p.2)

/-- An invalidation is in progress until MMU_INVAL_DONE: it waits for the commands that hold writes translated from its scope (DESIGN CHOICE,
log entry 10). -/
def startInval (func w : Nat) (va : Option Nat) (s : State) : State :=
  match mmuTarget func w with
  | none => s
  | some f => modMmu f (fun m => { m with
      busy := true
      inFlight := (m.inFlight ++ (s.hif.cmds.filter (fun c => c.func == f && c.staged.any (inScope va))).map (fun c => c.id)).eraseDups }) s

/-- MMU_INVAL_PAGE (R284). -/
def execMmuInvalPage (func window va : Nat) (s : State) : Res :=
  regWrite func 1 s <|
  ok (startInval func window (some va) s)
/-- MMU_INVAL_ALL (R284). -/
def execMmuInvalAll (func window : Nat) (s : State) : Res :=
  regWrite func 1 s <|
  ok (startInval func window none s)
/-- MMU_INVAL_DONE (R284): every write that had been translated before the invalidation has reached its target. -/
def execMmuInvalDone (target : Nat) (s : State) : Res :=
  unit target 16 (ok (if (mmuOf s target).inFlight.all (fun id => (cmdOf s id).isNone) then
    modMmu target (fun m => { m with busy := false, inFlight := [] }) s else s))

end Sys2Proof.Machine
end

