-- ==== Sys2Proof/Machine/Wst.lean ====
section
/-! DEFINITION. Machine/Wst.lean: the weight store: blocks, the remap table, the journal, relocation, wear,
retention patrol and mount, and the rows of 03_weight_store (R92 to R131). -/

namespace Sys2Proof.Machine
open Sys2Proof

/-! ## Geometry (R92, R95, R98) -/

def dieCount (s : State) : Nat := if s.ident.variant = 0 then 64 else 128
def blocksPerDie (s : State) : Nat := if s.ident.variant = 2 then 688 else 344
/-- Blocks of a die that lie in superblocks. -/
def superPerDie (s : State) : Nat := if s.ident.variant = 2 then 622 else 310
/-- Key of a physical block, or of a logical one: die × 1,024 + index. -/
def blockKey (die b : Nat) : Nat := 1024 * die + b
def dieOf (k : Nat) : Nat := k / 1024
/-- The 16 dies of a superblock: one channel group of one rank. -/
def groupDies (die : Nat) : List Nat := (List.range 16).map (fun i => die / 16 * 16 + i)
/-- A die holds the parity of superblocks of logical index `b` (R95). -/
def isParityDie (die b : Nat) : Bool := die % 16 == b % 16

/-- A block as the part left manufacture: blocks 0 and 1 of dies 0 to 31 are the two firmware slots, those of the other
dies the journal, with the slot or the segment as its logical block; none is FACTORY_BAD, since the manual gives no list of them (R98,
R105; DESIGN CHOICE, log entry 14). -/
def madeBlock (s : State) (k : Nat) : Block :=
  if dieCount s ≤ dieOf k ∨ blocksPerDie s ≤ k % 1024 then { state := 15 }
  else if k % 1024 < 2 then { state := if dieOf k < 32 then 7 else 6, pslc := true, lblock := k % 1024 }
  else {}

def blockOf (s : State) (k : Nat) : Block := (smFind s.wst.blocks k).getD (madeBlock s k)
/-- Change a block's entry; it is written to the journal with the next BSTATE_DELTA. -/
def modBlock (k : Nat) (g : Block → Block) (s : State) : State :=
  { s with wst := { s.wst with blocks := smPut k (g (blockOf s k)) s.wst.blocks, changed := insertN k s.wst.changed } }

/-- The physical block of a logical one. -/
def physBlock (s : State) (die l : Nat) : Nat :=
  match smGet 0 s.wst.remap (blockKey die l) with
  | 0 => blockKey die l
  | p + 1 => blockKey die p

def blockPages (b : Block) : Nat := if b.pslc then 128 else 384
/-- The refresh limit of a block in die-page reads (R107). -/
def refreshLimit (s : State) (b : Block) : Nat :=
  1000 * (if b.pslc then s.wst.pslcLimitK else s.wst.tlcLimitK) * blockPages b

def holdsData (b : Block) : Bool := b.state == 2 || b.state == 3

/-- Free blocks of a die. -/
def freeBlocks (s : State) (die : Nat) : List Nat :=
  ((List.range (blocksPerDie s)).map (blockKey die)).filter (fun k => (blockOf s k).state == 0)

/-- Free blocks of a die, with those that come free again: blocks to be erased, and the sources of relocations under way. -/
def keepable (s : State) (die : Nat) : Nat :=
  (((List.range (blocksPerDie s)).map (blockKey die)).filter (fun k =>
    (blockOf s k).state == 0 || (blockOf s k).state == 5 || (blockOf s k).state == 4)).length

/-- The free block of highest wear, to which static levelling moves (R115). -/
def highestFree (s : State) (die : Nat) : Option Nat :=
  (freeBlocks s die).foldl (fun b k => match b with
    | none => some k
    | some x => if (blockOf s x).pe < (blockOf s k).pe then some k else some x) none

/-- The free block of lowest wear (R115). -/
def lowestFree (s : State) (die : Nat) : Option Nat :=
  (freeBlocks s die).foldl (fun b k => match b with
    | none => some k
    | some x => if (blockOf s k).pe < (blockOf s x).pe then some k else some x) none

/-! ## Events and journal (R101, WST_EVENTS; 05_command_rings R202) -/

/-- Set bits of WST_EVENTS, and report those newly set. -/
def wstEvent (bits : Nat) (s : State) : State :=
  let new := clearBits bits s.wst.events
  let s1 := { s with wst := { s.wst with events := s.wst.events ||| bits } }
  if new = 0 then s1 else postBoth 0x0010 0 new 0xFFFF s1

/-! The layout of a record (R101); the fields of a payload are the model's (DESIGN CHOICE, log entry 72). -/

def optionCode : Option Nat → Nat
  | none => 0xFFFFFFFF
  | some k => k

def changeType : Change → Nat
  | .mapRange _ _ _ => 1
  | .mapPoison _ _ _ => 1
  | .unmap _ _ _ => 2
  | .remap _ _ _ _ _ => 2
  | .retire _ => 3
  | .bstateDelta _ _ => 4
  | .tempHist _ => 5
  | .installBegin _ => 6
  | .installExtent _ _ _ => 7
  | .installCommit _ => 8
  | .installCancel _ => 9
  | .checkpoint => 10
  | .cleanShutdown => 11

def changePayload : Change → Bytes
  | .mapRange f n on => leBytes 4 f ++ leBytes 4 n ++ leBytes 8 (b2n on)
  | .mapPoison d l p => leBytes 2 d ++ leBytes 2 l ++ leBytes 4 p ++ leBytes 8 2
  | .unmap d l c => leBytes 2 d ++ leBytes 2 l ++ leBytes 4 0xFFFFFFFF ++ leBytes 4 0xFFFFFFFF ++ leBytes 4 c
  | .remap d l p m o => leBytes 2 d ++ leBytes 2 l ++ leBytes 4 p ++ leBytes 4 (optionCode o) ++ leBytes 4 (b2n m)
  | .retire k => leBytes 4 k ++ zeros 12
  | .bstateDelta k b => leBytes 4 (fields [(b.lblock % 32, 27), (b.state, 23), (b2n b.pslc, 22), (b2n b.suspect, 21), (b.retry, 17), (k, 0)]) ++
      leBytes 4 b.ageStamp ++ leBytes 2 b.berPeak ++ leBytes 2 b.pe ++ leBytes 4 b.rdPages
  | .tempHist b => leBytes 1 b ++ zeros 15
  | .installBegin x => leBytes 4 x ++ zeros 12
  | .installExtent x g none => leBytes 4 x ++ leBytes 4 g ++ zeros 8
  | .installExtent x g (some (d, l, c)) => leBytes 4 x ++ leBytes 4 g ++ leBytes 1 1 ++ leBytes 1 c ++ leBytes 2 d ++ leBytes 4 l
  | .installCommit x => leBytes 4 x ++ zeros 12
  | .installCancel x => leBytes 4 x ++ zeros 12
  | .checkpoint => zeros 16
  | .cleanShutdown => zeros 16

/-- Bytes 0 to 27 of a record. -/
def recordBody (seq : Nat) (c : Change) : Bytes := leBytes 8 seq ++ leBytes 1 (changeType c) ++ zeros 3 ++ changePayload c
/-- The 32 bytes of a record. -/
def recordBytes (r : Record) : Bytes := recordBody r.seq r.change ++ leBytes 4 r.crc

/-- A record stands in the journal. -/
def recorded (c : Change) (s : State) : State :=
  { s with
      wst := { s.wst with
        journal := s.wst.journal ++ [{ seq := s.wst.seq + 1, change := c, crc := crc32 (recordBody (s.wst.seq + 1) c) }]
        seq := s.wst.seq + 1 }
      wstMore := { s.wstMore with cleanShutdown := decide (c = .cleanShutdown) } }

/-! ## Activities (R128 to R130) -/

/-- A firmware slot write or erase runs. -/
def fwWrites (s : State) : Bool := s.fwu.erasing || s.hif.cmds.any (fun c => c.opcode == 0x65 && decide (c.phase = .done))

/-- Journal compaction runs. -/
def compacts (s : State) : Bool := bit s.wst.running 7

/-- Dies that program now: destinations of relocations, the journal, blocks of a firmware slot, and granules of installs (R130). -/
def programsNow (s : State) : Nat :=
  (s.wst.relocs.filter (fun r => r.dest.isSome)).length + b2n s.wstMore.appending + s.wstMore.programming.length +
  (s.hif.cmds.filter (fun c => c.opcode == 0x65 && decide (c.phase = .done))).length

/-- The budget admits one more program beside `n` that go before it. -/
def budgetFree (s : State) (n : Nat) : Bool := decide (programsNow s + n < s.wst.pgmDiesEff)

/-- A record that waits is appended when the budget admits it (R130). -/
def grantAppend (s : State) : State :=
  if !s.wst.pending.isEmpty && !s.wstMore.appending && budgetFree s 0 then { s with wstMore := { s.wstMore with appending := true } } else s

/-- Write a record: it is durable with JOURNAL_RECORD_DURABLE. -/
def journal (c : Change) (s : State) : State := grantAppend { s with wst := { s.wst with pending := s.wst.pending ++ [c] } }

/-- Records that no longer wait. -/
def dropRecords (p : Change → Bool) (s : State) : State :=
  let l := s.wst.pending.filter (fun c => !p c)
  { s with wst := { s.wst with pending := l }, wstMore := { s.wstMore with appending := s.wstMore.appending && !l.isEmpty } }

/-- The record that would commit a relocation of a block. -/
def isRemapOf (k : Nat) : Change → Bool
  | .remap _ _ _ _ (some a) => a == k
  | _ => false

/-- Blocks of firmware slots that wait to be programmed: their commands may run, and neither the slot's erase nor a compaction holds them
(R129, R130). -/
def fwWaits (s : State) : Nat :=
  if s.fwu.erasing || compacts s then 0 else (s.hif.cmds.filter (fun c => c.opcode == 0x65 && decide (c.phase = .ready))).length

/-- `running` of WST_MAINT_STATUS (R128): RF, PT, IN, MG, SC, ST, FW, JC. -/
def runningBits (s : State) : Nat :=
  b2n (!s.wst.relocs.isEmpty) + 2 * b2n (bit s.wst.running 1 || s.wst.relocs.any (fun r => r.patrol)) +
  4 * b2n (s.wst.installs.any (fun i => i.state != .suspended)) +
  8 * b2n (s.stream.mig.slots.any (fun p => match p.2 with | none => false | some x => !x.valid && !x.draining)) +
  16 * b2n (bit s.wst.running 4) +
  32 * b2n ([7, 8, 9, 10].any (fun d => let x := domainOf s d
    decide (x.state = .bringup) && x.fromRet && !x.regSave)) +
  64 * b2n (fwWrites s) + 128 * b2n (compacts s)

/-! ## Spare blocks and retirement (R114, R125, R126) -/

/-- Superblocks of a die's group that no logical block uses, in MiB of data. -/
def groupFreeMib (s : State) (die : Nat) : Nat :=
  (List.range (superPerDie s)).foldl (fun a l =>
    if (groupDies die).all (fun d => smGet 0 s.wst.remap (blockKey d l) == 0) then a + 15 * 24 else a) 0

/-- A die that cannot keep 4 free blocks takes no new superblock, nor does its group. -/
def checkSpare (die : Nat) (s : State) : State :=
  if 4 ≤ keepable s die ∨ s.wstMore.spareLowDies.contains die then s else
  let counted := s.wstMore.spareLowDies.any (fun d => d / 16 == die / 16)
  wstEvent 8 { s with wstMore := { s.wstMore with
    spareLowDies := die :: s.wstMore.spareLowDies,
    unusableMib := s.wstMore.unusableMib + (if counted then 0 else groupFreeMib s die) } }

/-! ## Relocation (R107 to R111, R124) -/

def relocOf (s : State) (k : Nat) : Option Reloc := s.wst.relocs.find? (fun r => r.block == k)
def modReloc (k : Nat) (g : Reloc → Reloc) (s : State) : State :=
  { s with wst := { s.wst with relocs := s.wst.relocs.map (fun r => if r.block = k then g r else r) } }

/-- Open a destination for a relocation. -/
def openDest (k d : Nat) (s : State) : State :=
  let src := blockOf s k
  let s1 := modReloc k (fun r => { r with dest := some d }) s
  let s2 := modBlock d (fun b => { b with state := 1, pslc := src.pslc, lblock := src.lblock }) s1
  modBlock k (fun b => { b with state := if holdsData b then 4 else b.state }) s2

/-- The block that a relocation takes: the free one of its die of lowest wear, or of highest for static levelling; of a retired block one
beyond the last 4 (R115, R125). -/
def destFor (s : State) (r : Reloc) : Option Nat :=
  if (blockOf s r.block).state = 8 ∧ (freeBlocks s (dieOf r.block)).length ≤ 4 then none
  else if r.level then highestFree s (dieOf r.block) else lowestFree s (dieOf r.block)

/-- Begin a queued relocation when its die has a block for it and the budget a program beside `n` others (R130). -/
def beginReloc (n k : Nat) (s : State) : State :=
  match relocOf s k with
  | none => s
  | some r => if r.dest.isSome || !budgetFree s n then s else
    match destFor s r with
    | none => s
    | some d => openDest k d s

/-- The relocations that wait for a program: the raised ones, and then refresh and patrol (R130). -/
def raisedRelocs (s : State) : List Nat := (s.wst.relocs.filter (fun r => r.dest.isNone && r.prio == 7)).map (fun r => r.block)
def plainRelocs (s : State) : List Nat :=
  let w := s.wst.relocs.filter (fun r => r.dest.isNone && r.prio != 7)
  (w.filter (fun r => !r.patrol) ++ w.filter (fun r => r.patrol)).map (fun r => r.block)

/-- Units of 4 KiB of granule `j`. -/
def granuleUnits (i : Install) (j : Nat) : List Nat :=
  ((List.range 16).map (fun u => 16 * j + u)).filter (fun u => decide (4096 * u < i.len))
def unitIn (i : Install) (u : Nat) : Bool := (smGet none i.buffer u).isSome
/-- Every unit of a granule is in the buffer. -/
def granuleWhole (i : Install) (j : Nat) : Bool := (granuleUnits i j).all (unitIn i)

/-- The granule that is programmed next: installs program in the order of their acceptance (R129). -/
def nextGranule (s : State) : Option (Nat × Nat) :=
  match s.wst.installs.find? (fun i => i.buffer.any (fun p => granuleWhole i (p.1 / 16))) with
  | none => none
  | some i => (i.buffer.find? (fun p => granuleWhole i (p.1 / 16) && !s.wstMore.programming.contains (i.xfer, p.1 / 16))).map
      (fun p => (i.xfer, p.1 / 16))

/-- Grant programs to granules of installs, at most `fuel` of them. -/
def grantGranules : Nat → State → State
  | 0, s => s
  | fuel + 1, s => match nextGranule s with
    | none => s
    | some g => if budgetFree s (fwWaits s)
      then grantGranules fuel { s with wstMore := { s.wstMore with programming := s.wstMore.programming ++ [g] } } else s

/-- Grant programs to what waits, in the order of R130: raised relocations, the journal, firmware writes, which keep their place until
their row takes it, refresh, patrol and installs. A granule of an install counts as one program (DESIGN CHOICE, log entry 72). -/
def grantPrograms (s : State) : State :=
  let s1 := grantAppend ((raisedRelocs s).foldl (fun t k => beginReloc 0 k t) s)
  grantGranules 64 ((plainRelocs s1).foldl (fun t k => beginReloc (fwWaits s1) k t) s1)

/-- Queue a relocation of a block, or raise one that is queued; blocks of a failed die are not relocated (R127). -/
def queueReloc (k prio : Nat) (rebuilt patrol : Bool) (s : State) : State :=
  if s.wst.failedDies.contains (dieOf k) then s else
  match relocOf s k with
  | some _ => grantPrograms (modReloc k (fun r => { r with prio := max r.prio prio, rebuilt := r.rebuilt || rebuilt }) s)
  | none => grantPrograms { s with wst := { s.wst with
      relocs := s.wst.relocs ++ [{ block := k, dest := none, prio := prio, rebuilt := rebuilt, patrol := patrol, lost := [] }] } }

/-- A pass over every block has reached its end. -/
def patrolEnd (s : State) : State :=
  if !s.wstMore.patrolLeft.isEmpty then s else
  let s1 := { s with wst := { s.wst with running := putBit s.wst.running 1 false } }
  if s1.wstMore.mountPatrol then wstEvent 64 { s1 with wstMore := { s1.wstMore with mountPatrol := false } } else s1

/-- A pass visits no block that holds data no longer: released, relocated away or retired (R105, R121). -/
def prunePatrol (s : State) : State :=
  if s.wstMore.patrolLeft.isEmpty then s else
  patrolEnd { s with wstMore := { s.wstMore with
    patrolLeft := s.wstMore.patrolLeft.filter (fun k => holdsData (blockOf s k) || (blockOf s k).state == 4) } }

/-- Retire a block: its record is written, and what it held is moved (R125). -/
def retireBlock (k : Nat) (s : State) : State :=
  let b := blockOf s k
  if b.state = 8 ∨ b.state = 9 then s else
  let held := holdsData b || b.state == 4
  let s1 := journal (.retire k) (modBlock k (fun b => { b with state := 8 }) s)
  let s2 := wstEvent 4 { s1 with wstMore := { s1.wstMore with retired := s1.wstMore.retired + 1 } }
  prunePatrol (checkSpare (dieOf k) (if held then queueReloc k 7 false false s2 else s2))

/-- Abandon a relocation: the source serves on, the destination is to be erased, and its record is not written (R105, R108). -/
def abandonReloc (r : Reloc) (s : State) : State :=
  let s1 := dropRecords (isRemapOf r.block) { s with wst := { s.wst with relocs := s.wst.relocs.filter (fun x => x.block != r.block) } }
  let s2 := match r.dest with
    | none => s1
    | some d => modBlock d (fun b => { b with state := 5 }) s1
  modBlock r.block (fun b => if b.state = 4 then { b with state := if isParityDie (dieOf r.block) b.lblock then 3 else 2 } else b) s2

/-- The die of replica `k` of a die (R112). -/
def replicaDie (die k : Nat) : Nat := die / 64 * 64 + (die % 64 + 16 * k) % 64

/-- The granules that a die-page holds, in whichever replica: their map entries. -/
def onPage (die l page : Nat) (e : MapEntry) : Bool :=
  e.valid && e.lblock == l && e.page == page && (List.range (e.rep + 1)).any (fun k => replicaDie e.die k == die)

/-- Poison the map entries of a die-page. -/
def poisonPage (die l page : Nat) (m : SMap MapEntry) : SMap MapEntry :=
  m.map (fun p => if onPage die l page p.2 then (p.1, { p.2 with poison := true }) else p)

/-- The device writes zeros for a lost die-page: the stored bytes of its granules (R111). -/
def zeroPage (die l page : Nat) (s : State) : State :=
  let gs := (s.wst.map.filter (fun p => onPage die l page p.2)).map Prod.fst
  { s with wst := { s.wst with images := s.wst.images.map (fun m => { m with cells := gs.foldl (fun c g =>
      if m.base ≤ g ∧ g < m.base + m.replicas.length then cellsZero (65536 * (g - m.base)) 65536 c else c) m.cells }) } }

/-- The key of a stripe: superblock × 512 + die-page. -/
def stripeKey (die l page : Nat) : Nat := (die / 16 * 1024 + l) * 512 + page

/-- Static levelling (R115): when the wear of a die's DATA and FREE blocks differs by more than 2,000 units, a refresh relocation moves the
DATA block of lowest wear to the FREE block of highest. -/
def levelDie (die : Nat) (s : State) : State :=
  if s.wst.failedDies.contains die || !s.wst.blocks.any (fun p => dieOf p.1 == die && decide (2000 < p.2.pe)) ||
      s.wst.relocs.any (fun r => r.level && dieOf r.block == die) then s else
  let pool := ((List.range (blocksPerDie s)).map (blockKey die)).filter (fun k => (blockOf s k).state == 2 || (blockOf s k).state == 0)
  let hi := pool.foldl (fun a k => max a (blockOf s k).pe) 0
  let lo := pool.foldl (fun a k => min a (blockOf s k).pe) hi
  if hi ≤ lo + 2000 then s else
  let low := (pool.filter (fun k => (blockOf s k).state == 2)).foldl (fun b k => match b with
    | none => some k
    | some x => if (blockOf s k).pe < (blockOf s x).pe then some k else some x) none
  match low with
  | none => s
  | some k => if (relocOf s k).isSome then s else grantPrograms { s with wst := { s.wst with
      relocs := s.wst.relocs ++ [{ block := k, dest := none, prio := 0, rebuilt := false, patrol := false, lost := [], level := true }] } }

/-- Level each of some dies. -/
def levelDies (ds : List Nat) (s : State) : State := ds.foldl (fun t d => levelDie d t) s

/-- A REMAP record is durable: the destination serves reads (R105, R108, R111). -/
def finishReloc (src dst : Nat) (s : State) : State :=
  match relocOf s src with
  | none => s
  | some r =>
    if r.dest ≠ some dst then s else
    let b := blockOf s src
    let die := dieOf src
    let s1 := modBlock dst (fun d => { d with
      state := if isParityDie die b.lblock then 3 else 2, lblock := b.lblock, ageStamp := s.wst.ageClock,
      rdPages := 0, suspect := false, berPeak := 0 }) s
    let s2 := modBlock src (fun b => { b with state := if b.state = 4 then 5 else b.state }) s1
    let s3 := r.lost.foldl (fun t p => recorded (.mapPoison die b.lblock p) (zeroPage die b.lblock p t)) s2
    levelDie die (prunePatrol (grantPrograms { s3 with
        wst := { s3.wst with
          remap := smSet 0 (blockKey die b.lblock) (dst % 1024 + 1) s3.wst.remap
          relocs := s3.wst.relocs.filter (fun x => x.block != src)
          map := r.lost.foldl (fun m p => poisonPage die b.lblock p m) s3.wst.map
          noParity := s3.wst.noParity ++ r.lost.map (stripeKey die b.lblock) }
        wstMore := { s3.wstMore with relocations := wrapAdd 32 s3.wstMore.relocations 1 } }))

/-! ## Stored pages and parity (R96, R97) -/

/-- The stored bytes of the granule at a die-page of a superblock: of an image, and zeros where none lies there. -/
def dataPage (s : State) (die l page : Nat) : Bytes :=
  match s.wst.map.find? (fun p => onPage die l page p.2) with
  | none => zeros 65536
  | some (g, _) => match s.wst.images.find? (fun m => decide (m.base ≤ g) && decide (g < m.base + m.replicas.length)) with
    | none => zeros 65536
    | some m => cellsRead m.cells (65536 * (g - m.base)) 65536

/-- The bytewise exclusive OR of two die-pages. -/
def xorBytes (a b : Bytes) : Bytes := (List.range (max a.length b.length)).map (fun i => (a.getD i 0) ^^^ (b.getD i 0))

/-- A die-page as stored: data, or on the parity member the exclusive OR of the 15 data die-pages of its stripe. -/
def storedPage (s : State) (die l page : Nat) : Bytes :=
  if isParityDie die l then
    ((groupDies die).filter (fun d => d != die)).foldl (fun a d => xorBytes a (dataPage s d l page)) (zeros 65536)
  else dataPage s die l page

/-- What a rebuild forms: the exclusive OR of the other 15 die-pages of the stripe (R124). -/
def rebuiltPage (s : State) (die l page : Nat) : Bytes :=
  ((groupDies die).filter (fun d => d != die)).foldl (fun a d => xorBytes a (storedPage s d l page)) (zeros 65536)

/-! ## Reads (R106, R113, R123, R124, R82) -/

/-- Count reads of a block. -/
def countReads (k n : Nat) (s : State) : State := modBlock k (fun b => { b with rdPages := satAdd 32 b.rdPages n }) s

/-- The other blocks of a block's superblock that can be read: those of dies that have not failed. -/
def stripeMates (s : State) (k : Nat) : List Nat :=
  ((groupDies (dieOf k)).filter (fun d => d != dieOf k && !s.wst.failedDies.contains d)).map (fun d => physBlock s d (blockOf s k).lblock)

/-- The superblock that a block belongs to, of an image or of an install. -/
def superOf (s : State) (k : Nat) : Option Super :=
  let l := (blockOf s k).lblock
  ((s.wst.images.flatMap (fun m => m.supers)) ++ (s.wst.installs.flatMap (fun i => i.supers))).find? (fun x =>
    x.lblock == l && (List.range (x.cls % 4 + 1)).any (fun r => replicaDie x.die r / 16 == dieOf k / 16))

/-- Replica `r` of the place that a block holds within its superblock set. -/
def replicaBlock (s : State) (x : Super) (k r : Nat) : Nat :=
  physBlock s (replicaDie x.die r / 16 * 16 + dieOf k % 16) x.lblock

/-- A replica is passed over: its die has failed, or it is RELOCATING while another is DATA (R113). -/
def passedOver (s : State) (ks : List Nat) (k : Nat) : Bool :=
  s.wst.failedDies.contains (dieOf k) ||
  ((blockOf s k).state == 4 && ks.any (fun j => holdsData (blockOf s j) && !s.wst.failedDies.contains (dieOf j)))

/-- The replicas of a place in the order in which its reads take them: from the one whose turn it is, without those passed over,
which come last. -/
def replicasInTurn (s : State) (x : Super) (k : Nat) : List (Nat × Nat) :=
  let n := x.cls % 4 + 1
  let t := smGet 0 s.wst.turns (blockKey x.die x.lblock)
  let all := (List.range n).map (fun i => ((t + i) % n, replicaBlock s x k ((t + i) % n)))
  let ks := all.map Prod.snd
  all.filter (fun p => !passedOver s ks p.2) ++ all.filter (fun p => passedOver s ks p.2)

/-- The replica chosen, and the turn that follows. -/
def takeTurn (x : Super) (r : Nat) (s : State) : State :=
  { s with wst := { s.wst with turns := smSet 0 (blockKey x.die x.lblock) ((r + 1) % (x.cls % 4 + 1)) s.wst.turns } }

/-- A read of installed data, which any replica may serve. -/
def streamRead : ReadFor → Bool
  | .unit _ _ => true
  | .migration _ => true
  | .place _ => true
  | .other => true
  | .relocation => false

/-- The block that a read goes to, and the other replicas in turn: of installed data the replica whose turn it is (R113). -/
def chooseReplica (k : Nat) (use : ReadFor) (s : State) : State × Nat × List Nat :=
  match superOf s k with
  | none => (s, k, [])
  | some x =>
    if !streamRead use then (s, k, []) else
    match replicasInTurn s x k with
    | [] => (s, k, [])
    | p :: l => (takeTurn x p.1 s, p.2, l.map Prod.snd)

/-- A rebuild of a die-page must fail: a die of another member has failed, or its stripe has no parity (R111, R124, R127). -/
def noRebuild (s : State) (k page : Nat) : Bool :=
  (groupDies (dieOf k)).any (fun d => d != dieOf k && s.wst.failedDies.contains d) ||
  s.wst.noParity.contains (stripeKey (dieOf k) (blockOf s k).lblock page)

/-- The reads of a rebuild. -/
def countStripe (k : Nat) (s : State) : State := (stripeMates s k).foldl (fun t m => countReads m 1 t) s

/-- The parity block of a block's superblock. -/
def parityMate (s : State) (k : Nat) : Nat :=
  let l := (blockOf s k).lblock
  physBlock s (dieOf k / 16 * 16 + l % 16) l

/-- The reads of a rebuild, by what they serve: a stream, which reads the other data members anyway, adds the parity page in place of
one on a failed die (R127; DEDUCED, log entry 72). -/
def countRebuild (k : Nat) (use : ReadFor) (s : State) : State :=
  match use with
  | .unit _ _ => if s.wst.failedDies.contains (dieOf k) then countReads (parityMate s k) 1 s else countStripe k s
  | _ => countStripe k s

/-- A rebuild succeeded: the block is suspect and moves; a second one retires it. A block of a failed die stays (R127). -/
def rebuiltRead (k : Nat) (use : ReadFor) (s : State) : State :=
  let was := (blockOf s k).suspect
  let s1 := countRebuild k use s
  let s2 := wstEvent 2 { s1 with wstMore := { s1.wstMore with rebuilds := satAdd 16 s1.wstMore.rebuilds 1 } }
  if s.wst.failedDies.contains (dieOf k) then s2 else
  let s3 := queueReloc k 7 true false (modBlock k (fun b => { b with suspect := true }) s2)
  if was then retireBlock k s3 else s3

/-- The layer of the first tensor of an image that has a stored byte within a run of its granules; 0 without one (05_command_rings R199). -/
def granuleLayer (s : State) (gs : List Nat) : Nat :=
  ((s.wst.images.flatMap (fun m => ((infoOf m).tensors.filter (fun t => (granulesOf m (storedRuns t none)).any gs.contains)).map
    (fun t => t.layer))).head?).getD 0
def regionLayer (s : State) (r : Nat) : Nat := granuleLayer s ((List.range 32).map (fun i => 32 * r + i))
def pageLayer (s : State) (k page : Nat) : Nat :=
  granuleLayer s ((s.wst.map.filter (fun p => p.2.die == dieOf k && p.2.lblock == (blockOf s k).lblock && p.2.page == page)).map Prod.fst)

/-- A read failed every step: what needed it fails. A page that a relocation copies is lost (R111). -/
def failedRead (k page : Nat) (use : ReadFor) (s : State) : State :=
  match use with
  | .unit p u => dispatch (settleStream (failPass p u stFlashUnc s))
  | .migration r => match slotOfRegion s r with
    | none => s
    | some (n, x) => if x.valid then s else
      ((s.hif.cmds.filter (fun c => decide (c.phase = .running) && (pinning s c).contains r)).map (fun c => c.id)).foldl
        (fun t id => failCmd id { status := stFlashUnc, result := regionLayer s r } t) (setSlot n none s)
  | .relocation => modReloc k (fun r => { r with lost := insertN page r.lost }) s
  | .place id => match cmdOf s id with
    | none => s
    | some c => if c.opcode = 0x23 ∧ (c.phase = .running ∨ c.phase = .done) then
        failCmd id { status := stFlashUnc, result := pageLayer s k page } s else s
  | .other => s

/-- What a read came to, once the dies and stripes that cannot serve it are set against it (R124, R127). -/
def trueOutcome (s : State) (k page : Nat) (others : List Nat) (o : ReadOutcome) : ReadOutcome :=
  let o1 := match o with
    | .ldpc n => if s.wst.failedDies.contains (dieOf k) then .rebuilt else .ldpc n
    | .replica => if others.any (fun j => !s.wst.failedDies.contains (dieOf j)) then .replica else .rebuilt
    | x => x
  if o1 = .rebuilt ∧ noRebuild s k page = true then .failed else o1

/-- WEIGHT_STORE_READ_DONE (R106, R113, R123, R124, R82). Every die-page read counts on the block read: the one read first, the
replica that gave the data, and the stripe's other blocks of a rebuild. -/
def execWeightStoreReadDone (at_ : DiePage) (outcome : ReadOutcome) (use : ReadFor) (s : State) : Res :=
  unit at_.block 131072 (ok (
    let r := chooseReplica at_.block use s
    let k := r.2.1
    let others := r.2.2.filter (fun j => !s.wst.failedDies.contains (dieOf j))
    let s1 := if s.wst.failedDies.contains (dieOf k) then r.1 else countReads k 1 r.1
    let step (t : State) : State := if streamRead use then t else modReloc k (fun x => { x with copied := at_.page + 1 }) t
    match trueOutcome s k at_.page r.2.2 outcome with
    | .ldpc level => step (modBlock k (fun b => { b with retry := level % 16 }) s1)
    | .replica => step ((others.take 1).foldl (fun t j => countReads j 1 t) s1)
    | .rebuilt => step (rebuiltRead k use (others.foldl (fun t j => countReads j 1 t) s1))
    | .failed => step (failedRead k at_.page use (countStripe k (others.foldl (fun t j => countReads j 1 t) s1)))))

/-- REFRESH_LIMIT_REACHED (R107). -/
def execRefreshLimitReached (block : Nat) (s : State) : Res :=
  let b := blockOf s block
  ok (if holdsData b && decide (refreshLimit s b ≤ b.rdPages) then queueReloc block 0 false false s else s)

/-- RELOCATION_RAISE (R109). -/
def execRelocationRaise (block : Nat) (s : State) : Res :=
  let b := blockOf s block
  ok (if 5 * refreshLimit s b ≤ 4 * b.rdPages then grantPrograms (modReloc block (fun r => { r with prio := 7 }) s) else s)

/-- DISTURB_OVERRUN (R110). The limits of a failed die are ignored (R127). -/
def execDisturbOverrun (block : Nat) (s : State) : Res :=
  let b := blockOf s block
  ok (if (holdsData b || b.state == 4) && !s.wst.failedDies.contains (dieOf block) && decide (2 * refreshLimit s b ≤ b.rdPages)
    then wstEvent 1 s else s)

/-- RELOCATION_COPY_DONE (R108): the REMAP record is written. -/
def execRelocationCopyDone (block : Nat) (s : State) : Res :=
  ok (match relocOf s block with
    | none => s
    | some r => match r.dest with
      | none => s
      | some d =>
        let c : Change := .remap (dieOf block) (blockOf s block).lblock (d % 1024) (blockOf s block).pslc (some block)
        if s.wst.pending.contains c then s else journal c s)

/-! ## Journal (R101, R102) -/

/-- The blocks of a die that serve as block `n` of the journal (6) or of a firmware slot (7). -/
def regionBlocks (s : State) (st n die : Nat) : List Nat :=
  ((s.wst.blocks.filter (fun p => dieOf p.1 == die && p.2.state == st && p.2.lblock == n)).map Prod.fst) ++
  (if (smFind s.wst.blocks (blockKey die n)).isNone && (madeBlock s (blockKey die n)).state == st then [blockKey die n] else [])

/-- The journal blocks of a segment: compaction switches between the two (DESIGN CHOICE, log entry 72). -/
def segmentBlocks (s : State) (n : Nat) : List Nat := (List.range (dieCount s)).flatMap (regionBlocks s 6 n)

/-- A block that is given up while it takes its first data, or that serves the journal or a firmware slot, is replaced by another free one of
its die, beyond the last 4 (R125). -/
def replaceBlock (k : Nat) (s : State) : State :=
  if (freeBlocks s (dieOf k)).length ≤ 4 then s else
  match lowestFree s (dieOf k) with
  | none => s
  | some d =>
    let b := blockOf s k
    let s1 := modBlock d (fun x => { x with state := b.state, pslc := b.pslc, lblock := b.lblock }) s
    if b.state = 1 then recorded (.remap (dieOf k) b.lblock (d % 1024) b.pslc none)
      { s1 with wst := { s1.wst with remap := smSet 0 (blockKey (dieOf k) b.lblock) (d % 1024 + 1) s1.wst.remap } }
    else recorded (.bstateDelta d (blockOf s1 d)) s1

/-- A pSLC block of the journal or of a firmware slot is erased: it wears by 1, and at the rating another takes its place (R114, R125). -/
def wearBlock (k : Nat) (s : State) : State :=
  let s1 := modBlock k (fun b => { b with pe := b.pe + 1 }) s
  if 30000 ≤ (blockOf s1 k).pe then retireBlock k (replaceBlock k s1) else s1

/-- Compaction has written its checkpoint: the old segment is erased (R114). -/
def switchSegment (s : State) : State :=
  let s1 := (segmentBlocks s s.wstMore.segment).foldl (fun t k => wearBlock k t) s
  { s1 with wstMore := { s1.wstMore with segment := 1 - s1.wstMore.segment } }

/-- A checkpoint is durable: the tables stand as they are, and the records before it are not needed (R102). -/
def checkpointed (s : State) : State :=
  let s1 := if compacts s then switchSegment s else s
  { s1 with wst := { s1.wst with
      journal := s1.wst.journal.drop (s1.wst.journal.length - 1), saved := s1.wst.blocks, savedRemap := s1.wst.remap,
      savedMap := s1.wst.map, changed := [], running := putBit s1.wst.running 7 false } }

/-- What a record changes when it is durable. -/
def applyChange (c : Change) (s : State) : State :=
  match c with
  | .remap d _ b _ (some a) => finishReloc a (blockKey d b) s
  | .checkpoint => checkpointed s
  | _ => s

/-- JOURNAL_RECORD_DURABLE (R101): the oldest record written becomes durable and takes effect. -/
def execJournalRecordDurable (s : State) : Res :=
  ok (match s.wst.pending with
    | [] => s
    | c :: l => if !s.wstMore.appending then s else grantPrograms (applyChange c (recorded c
        { s with wst := { s.wst with pending := l }, wstMore := { s.wstMore with appending := false } })))

/-- Journal compaction starts: a second start joins the running one, and one beside a firmware slot write waits for its end
(R128, R129). -/
def startCompaction (s : State) : State :=
  if compacts s then s
  else if fwWrites s then { s with wstMore := { s.wstMore with compactionDue := true } }
  else journal .checkpoint { s with wst := { s.wst with running := putBit s.wst.running 7 true }
                                    wstMore := { s.wstMore with compactionDue := false } }

/-- A firmware slot write has ended: a compaction that waited starts. -/
def settleCompaction (s : State) : State := if s.wstMore.compactionDue && !fwWrites s then startCompaction s else s

/-- JOURNAL_CHECKPOINT_TRIGGER (R102). -/
def execJournalCheckpointTrigger (s : State) : Res := ok (startCompaction s)

/-- Write the records of every entry that changed (R102). -/
def flushDeltas (s : State) : State :=
  let recs := s.wst.changed.map (fun k => Change.bstateDelta k (blockOf s k)) ++ s.wst.tempChanged.map Change.tempHist
  grantAppend { s with wst := { s.wst with pending := s.wst.pending ++ recs, changed := [], tempChanged := [] } }

/-- BSTATE_DELTA_TIMER (R102). -/
def execBstateDeltaTimer (s : State) : Res := ok (flushDeltas s)

/-! ## Programs and erases (R105, R114, R115, R125) -/

/-- A program of a block failed: the block is given up and retired, and the program repeated on another (R105, R125). -/
def programFailed (k : Nat) (s : State) : State :=
  let giveUp (t : State) : State := retireBlock k (modBlock k (fun b => if b.state = 1 then { b with state := 5 } else b) t)
  match s.wst.relocs.find? (fun r => r.dest == some k) with
  | some r => grantPrograms (giveUp (dropRecords (isRemapOf r.block) (modReloc r.block (fun r => { r with dest := none, copied := 0 }) s)))
  | none => giveUp (replaceBlock k s)

/-- PROGRAM_DONE (R125). -/
def execProgramDone (block : Nat) (ok_ : Bool) (s : State) : Res :=
  unit block 131072 (ok (
    let s1 := { s with wstMore := { s.wstMore with suspended := s.wstMore.suspended.filter (fun d => d != dieOf block) } }
    if ok_ || !([1, 6, 7].contains (blockOf s block).state) then s1 else programFailed block s1))

/-- ERASE_PENDING_ERASE (R105): the erase of a block begins. -/
def execErasePendingErase (block : Nat) (s : State) : Res :=
  unit block 131072 (ok (when ((blockOf s block).state == 5 && !s.capo.dip && !s.capo.holdoff)
    (fun s => { s with wst := { s.wst with erasing := insertN block s.wst.erasing } }) s))

/-- A block of the journal's old segment, or of the firmware slot being erased. -/
def regionErased (s : State) (k : Nat) : Bool :=
  let b := blockOf s k
  (b.state == 6 && b.lblock != s.wstMore.segment) || (b.state == 7 && s.fwu.erasing && b.lblock != s.fwu.active)

/-- BLOCK_ERASE_DONE (R105, R114, R115, R125). The wear of the journal's and the firmware slots' blocks is counted where their regions are
erased; one that fails to erase is replaced. -/
def execBlockEraseDone (block : Nat) (ok_ : Bool) (s : State) : Res :=
  unit block 131072 (ok (
    if !s.wst.erasing.contains block then
      (if !ok_ && regionErased s block then retireBlock block (replaceBlock block s) else s) else
    let s1 := { s with
      wst := { s.wst with erasing := s.wst.erasing.filter (fun x => x != block) }
      wstMore := { s.wstMore with suspended := s.wstMore.suspended.filter (fun d => d != dieOf block) } }
    let s2 := modBlock block (fun b => { b with pe := b.pe + (if b.pslc then 1 else 10) }) s1
    if !ok_ || decide (30000 ≤ (blockOf s2 block).pe) then retireBlock block s2
    else levelDie (dieOf block) (grantPrograms
      (modBlock block (fun b => { b with state := 0, lblock := 0, rdPages := 0, suspect := false }) s2))))

/-- Move the blocks of a released version to ERASE_PENDING; relocations of them are abandoned (R105, R130). -/
def releaseBlocks (ks : List Nat) (s : State) : State :=
  prunePatrol (grantPrograms (ks.foldl (fun t k =>
    let t1 := match relocOf t k with | none => t | some r => abandonReloc r t
    modBlock k (fun b => { b with state := if holdsData b || b.state == 1 then 5 else b.state }) t1) s))

/-! ## Retention patrol (R118 to R121, R128) -/

/-- The patrol may visit a block: a pass lists it, or the interval patrol finds it old enough (R120, R121). -/
def patrolDueFor (s : State) (k : Nat) : Bool :=
  let b := blockOf s k
  holdsData b && (s.wstMore.patrolLeft.contains k ||
    (s.wst.patrolEnable && decide (b.ageStamp + s.wst.intervalH * 60 ≤ s.wst.ageClock)))

/-- PATROL_DUE (R120, R129). A block that a relocation holds is passed over. -/
def execPatrolDue (block ber : Nat) (s : State) : Res :=
  unit block 131072 (ok (
    let s0 := { s with wstMore := { s.wstMore with patrolLeft := s.wstMore.patrolLeft.filter (fun k => k != block) } }
    let held := s.wstMore.patrolLeft.contains block
    if !patrolDueFor s block then (if (blockOf s block).state = 4 then when held patrolEnd s0 else s) else
    let s1 := modBlock block (fun b => { b with rdPages := satAdd 32 b.rdPages 6, berPeak := min ber 0xFFFF }) s0
    when held patrolEnd (if s.wst.berRefresh < ber then queueReloc block 0 false true s1
      else modBlock block (fun b => { b with ageStamp := s.wst.ageClock }) s1)))

/-- Every block that holds data or parity. -/
def patrolBlocks (s : State) : List Nat := (s.wst.blocks.filter (fun p => holdsData p.2)).map Prod.fst

/-- Start a patrol pass over every DATA and PARITY block; a second start joins the first (R129). -/
def startPass (mount : Bool) (s : State) : State :=
  let s1 := { s with
    wst := { s.wst with running := putBit s.wst.running 1 true }
    wstMore := { s.wstMore with
      patrolLeft := if s.wstMore.patrolLeft.isEmpty then patrolBlocks s else s.wstMore.patrolLeft,
      mountPatrol := s.wstMore.mountPatrol || mount } }
  patrolEnd s1

/-- START_PATROL (R128). -/
def execStartPatrol (func : Nat) (s : State) : Res :=
  regWrite func 2 s <|
  ok (when (isPhys func) (startPass false) s)
/-- START_COMPACTION (R128, R102): a second start joins the running one. -/
def execStartCompaction (func : Nat) (s : State) : Res :=
  regWrite func 2 s <|
  ok (when (isPhys func) startCompaction s)
/-- A DDR5 patrol scrub runs: a second start joins it (R129). -/
def startScrub (s : State) : State :=
  if bit s.wst.running 4 then s else
  { s with wst := { s.wst with running := putBit s.wst.running 4 true }, wstMore := { s.wstMore with scrubAt := 0 } }

/-- The scrub reads a line every second tick, 0.79 GB/s, and ends behind the last one (R128; DESIGN CHOICE, log entry 31). -/
def scrubTick (s : State) : State :=
  if !bit s.wst.running 4 || s.now / 15625 % 2 == 0 then s
  else if ddrEnd / 64 ≤ s.wstMore.scrubAt + 1 then
    { s with wst := { s.wst with running := putBit s.wst.running 4 false }, wstMore := { s.wstMore with scrubAt := 0 } }
  else { s with wstMore := { s.wstMore with scrubAt := s.wstMore.scrubAt + 1 } }

/-- START_SCRUB (R128). -/
def execStartScrub (func : Nat) (s : State) : Res :=
  regWrite func 2 s <|
  ok (when (isPhys func) startScrub s)
/-- DDR5_PATROL_SCRUB_DUE (R128): lines are rewritten as they read, so no byte changes. -/
def execDdr5PatrolScrubDue (s : State) : Res := ok (startScrub s)

/-! ## The age clock (R118, R119) -/

/-- The bin of a NAND stack temperature in 0.1 °C. -/
def tempBin (t : Int) : Nat := ([550, 650, 750, 850, 950, 1050, 1150].filter (fun b => decide ((b : Int) < t))).length
def ageFactor (t : Int) : Nat := 2 ^ tempBin t
/-- The hottest NAND stack sensor (14_capo_thermal_supply R454: 55 to 62). -/
def nandTemp (s : State) : Int :=
  ((s.capoMore.sensors.drop 55).map (fun x => x.temp)).foldl max ((s.capoMore.sensors.getD 55 {}).temp)

/-- AGE_CLOCK_MINUTE (R118): the clock advances by the factor of the hottest reading of the minute, and the minute counts
in its bin. -/
def execAgeClockMinute (s : State) : Res :=
  let t := s.wstMore.minuteTemp.getD (nandTemp s)
  let b := tempBin t
  let m := s.wst.tempMinutes.getD b 0 + 1
  ok { s with
    wst := { s.wst with
      ageClock := wrapAdd 32 s.wst.ageClock (2 ^ b)
      tempMinutes := setAt b (m % 60) s.wst.tempMinutes
      tempHours := if m = 60 then modAt b (fun h => h + 1) s.wst.tempHours else s.wst.tempHours
      tempChanged := insertN b s.wst.tempChanged }
    wstMore := { s.wstMore with minuteTemp := none } }

/-- DIE_FAILED (R127). -/
def execDieFailed (die : Nat) (s : State) : Res :=
  unit die (dieCount s) (ok (if s.wst.failedDies.contains die then s else
    let s1 := (s.wst.relocs.filter (fun r => dieOf r.block == die)).foldl (fun t r => abandonReloc r t) s
    wstEvent 16 { s1 with wst := { s1.wst with failedDies := insertN die s1.wst.failedDies } }))

/-- SUSPEND_DIE_READY (R94): the die serves reads while its program or erase stands suspended. -/
def execSuspendDieReady (die : Nat) (s : State) : Res :=
  unit die (dieCount s) (ok { s with wstMore := { s.wstMore with suspended := insertN die s.wstMore.suspended } })

/-! ## Mount and shutdown (R102, R103, R119, R121) -/

/-- Reads that an unclean mount adds to a DATA block. -/
def uncleanReads : Nat := 1333333

/-- The tables that a mount restores. -/
structure Tables where
  blocks : SMap Block
  remap : SMap Nat
  map : SMap MapEntry

/-- First dies of the groups of a superblock of a class and its replicas (R112). -/
def groupsFrom (die cls : Nat) : List Nat := (List.range (cls % 4 + 1)).map (fun k => die / 64 * 64 + (die % 64 / 16 + k) % 4 * 16)
/-- Every die that holds a block of such a superblock. -/
def diesFrom (die cls : Nat) : List Nat := (groupsFrom die cls).flatMap (fun d => (List.range 16).map (fun i => d + i))

/-- A block's entry with what a BSTATE_DELTA record holds of it: the logical block of a block in a superblock is its REMAP record's (R101;
DESIGN CHOICE, log entry 72). -/
def deltaEntry (old x : Block) : Block :=
  { x with lblock := if x.state = 6 ∨ x.state = 7 then x.lblock else if x.state = 0 then 0 else old.lblock }

/-- What a record says of the tables (R101). -/
def replayOne (s : State) (t : Tables) (r : Record) : Tables :=
  let b (k : Nat) : Block := (smFind t.blocks k).getD (madeBlock s k)
  let held (d l : Nat) : Nat := match smGet 0 t.remap (blockKey d l) with
    | 0 => blockKey d l
    | p + 1 => blockKey d p
  match r.change with
  | .remap d l p m none => { t with
      blocks := smPut (blockKey d p) { b (blockKey d p) with state := 1, pslc := m, lblock := l } t.blocks
      remap := smSet 0 (blockKey d l) (p + 1) t.remap }
  | .remap d l p m (some a) => { t with
      blocks := smPut a { b a with state := if (b a).state = 8 then 8 else 5 } (smPut (blockKey d p)
        { b (blockKey d p) with state := if isParityDie d l then 3 else 2, pslc := m, lblock := l, ageStamp := s.wst.ageClock, rdPages := 0,
                                suspect := false, berPeak := 0 } t.blocks)
      remap := smSet 0 (blockKey d l) (p + 1) t.remap }
  | .unmap d l c => { t with
      blocks := (diesFrom d c).foldl (fun m i =>
        let k := held i l
        smPut k { b k with state := if holdsData (b k) || (b k).state == 1 then 5 else (b k).state } m) t.blocks
      remap := (diesFrom d c).foldl (fun m i => smSet 0 (blockKey i l) 0 m) t.remap }
  | .installExtent _ _ (some (d, l, c)) => { t with
      blocks := (diesFrom d c).foldl (fun m i =>
        let k := held i l
        if (b k).state = 1 then smPut k { b k with state := if isParityDie i l then 3 else 2, ageStamp := s.wst.ageClock, rdPages := 0 } m else m) t.blocks }
  | .retire k => { t with blocks := smPut k { b k with state := 8 } t.blocks }
  | .bstateDelta k x => { t with blocks := smPut k (deltaEntry (b k) x) t.blocks }
  | .mapRange f n false => { t with map := t.map.map (fun p => if f ≤ p.1 ∧ p.1 < f + n then (p.1, { p.2 with valid := false }) else p) }
  | .mapPoison d l p => { t with map := poisonPage d l p t.map }
  | _ => t

/-- The records of a journal up to the first whose `crc` fails or whose `seq` breaks the sequence (R103). -/
def validRun : Option Nat → List Record → List Record
  | _, [] => []
  | prev, r :: l =>
    if r.crc ≠ crc32 (recordBody r.seq r.change) ∨ (prev.isSome = true ∧ prev ≠ some (r.seq - 1)) then []
    else r :: validRun (some r.seq) l

/-- The logical blocks that images and installs hold. -/
def heldLogical (s : State) : List Nat :=
  ((s.wst.images.flatMap (fun m => m.supers)) ++ (s.wst.installs.flatMap (fun i => i.supers))).flatMap (fun x =>
    (List.range (x.cls % 4 + 1)).flatMap (fun r => (List.range 16).map (fun i => blockKey (replicaDie x.die r / 16 * 16 + i) x.lblock)))

/-- A block as a mount finds it: a source whose relocation was cut off serves on; a block that holds nothing which is mapped, or was
written to since its record, is to be erased (R105, R108). -/
def mountBlock (s : State) (held : List Nat) (remap : SMap Nat) (k : Nat) (b : Block) : Block :=
  let mine := held.contains (blockKey (dieOf k) b.lblock) && smGet 0 remap (blockKey (dieOf k) b.lblock) == k % 1024 + 1
  if b.state = 4 ∧ mine = true then { b with state := if isParityDie (dieOf k) b.lblock then 3 else 2 }
  else if [1, 2, 3, 4].contains b.state && !mine then { b with state := 5 }
  else if b.state = 0 ∧ [1, 5].contains (blockOf s k).state = true then { b with state := 5, pslc := (blockOf s k).pslc }
  else b

/-- Load the newest checkpoint and replay the records after it (R103). -/
def replay (s : State) : Tables :=
  let t := (validRun none s.wst.journal).foldl (replayOne s) { blocks := s.wst.saved, remap := s.wst.savedRemap, map := s.wst.savedMap }
  let held := heldLogical s
  let remap := t.remap.filter (fun p => held.contains p.1)
  let keys := t.blocks ++ s.wst.blocks.filter (fun p => (smFind t.blocks p.1).isNone)
  { t with remap := remap, blocks := keys.foldl (fun m p =>
      smPut p.1 (mountBlock s held remap p.1 ((smFind t.blocks p.1).getD (madeBlock s p.1))) m) [] }

/-- Repeat the relocations that were cut off (R108). -/
def redoRelocs (s : State) : State :=
  s.wst.redo.foldl (fun t r => if holdsData (blockOf t r.block) || (blockOf t r.block).state == 8 then
      queueReloc r.block r.prio r.rebuilt r.patrol t else t) { s with wst := { s.wst with redo := [] } }

/-- Mount the flash translation layer: the tables of its journal, the age of the off time, the unclean mount, the relocations cut
off, and the patrol after an unknown off time; an unfinished pass goes on. -/
def mountStore (s : State) : State :=
  if s.wstMore.mounted then s else
  let t := replay s
  let clean := s.wstMore.cleanShutdown && decide ((validRun none s.wst.journal).length = s.wst.journal.length)
  let blocks := if clean then t.blocks else
    t.blocks.map (fun p => if p.2.state = 2 then (p.1, { p.2 with rdPages := satAdd 32 p.2.rdPages uncleanReads }) else p)
  let off := (nowMs s - s.wstMore.offSince) / 60000
  let age := if s.clk.offUnknown then 0 else off * max (ageFactor s.wstMore.offTemp) (ageFactor (nandTemp s))
  let s1 := { s with
    wst := { s.wst with
      blocks := blocks, remap := t.remap, map := t.map, ageClock := wrapAdd 32 s.wst.ageClock age, pending := [], erasing := [],
      changed := if clean then [] else (t.blocks.filter (fun p => p.2.state == 2)).map Prod.fst,
      running := putBit s.wst.running 1 (!s.wstMore.patrolLeft.isEmpty) }
    wstMore := { s.wstMore with mounted := true, suspended := [], programming := [], appending := false } }
  let s2 := redoRelocs (prunePatrol (if clean then s1 else wstEvent 32 s1))
  if s.clk.offUnknown then { (startPass true s2) with clk := { s2.clk with offUnknown := false } } else s2

/-- Relocations that a reset or a power-down interrupts before their record is durable are abandoned, and repeated after the next
mount (R108). -/
def abandonRelocs (s : State) : State :=
  let s1 := s.wst.relocs.foldl (fun t r => abandonReloc r t) s
  { s1 with wst := { s1.wst with redo := s.wst.redo ++ s.wst.relocs.map (fun r => { r with dest := none, copied := 0 }) } }

/-- The off time begins, unless the domain was off already (R119). -/
def offBegins (s : State) (m : WstMore) : WstMore :=
  if m.mounted then { m with mounted := false, offSince := nowMs s, offTemp := nandTemp s, suspended := [] } else m

/-- The FLASH domain is turned off: the changed entries and a CLEAN_SHUTDOWN record are written. -/
def unmountStore (s : State) : State :=
  let s0 := abandonRelocs s
  let s1 := { s0 with wstMore := { s0.wstMore with programming := [], appending := false } }
  let s2 := (flushDeltas s1).wst.pending.foldl (fun t c => applyChange c (recorded c t)) { s1 with wst := { s1.wst with pending := [], changed := [], tempChanged := [] } }
  let s3 := recorded .cleanShutdown s2
  { s3 with wstMore := offBegins s s3.wstMore }

/-- The FLASH domain stops without a shutdown. -/
def dropStore (s : State) : State :=
  let s1 := abandonRelocs s
  { s1 with
      wst := { s1.wst with pending := [], erasing := [] }
      wstMore := offBegins s { s1.wstMore with programming := [], appending := false } }

/-! ## DDR_MIG_CTRL (02_memory_tiers R90, R91; 16_security R510) -/

/-- Disable the migration cache: its slots are dropped and its region zeroed, but for those that issued reads still use: these drain
(02_memory_tiers R79). -/
def dropCache (s : State) : State :=
  let busy := s.stream.mig.slots.filter (fun p => slotRead s p.1)
  let s1 := if busy.isEmpty then zeroDev s.stream.mig.base (0x200000 * s.stream.mig.size) s
    else (s.stream.mig.slots.filter (fun p => !slotRead s p.1)).foldl (fun t p => zeroDev (s.stream.mig.base + 0x200000 * p.1) 0x200000 t) s
  { s1 with stream := { s1.stream with mig := { s1.stream.mig with
      enable := false
      slots := busy.map (fun p => (p.1, p.2.map (fun x => { x with valid := false, pinned := false, draining := true }))) } } }

/-- DDR_MIG_CTRL_WRITE: fields out of range are left, and writing `enable` 0 disables the cache. -/
def execDdrMigCtrlWrite (func value : Nat) (s : State) : Res :=
  regWrite func 3 s <|
  ok (if !isPhys func || s.ident.variant != 2 then s else
    let g := s.stream.mig
    let s1 := { s with stream := { s.stream with mig := { g with
      bwLimit := if bf value 23 16 ≤ 100 then bf value 23 16 else g.bwLimit
      threshold := bf value 15 8
      epoch := bf value 7 4 } } }
    if bit value 0 then dispatch (settleStream (pinMore { s1 with stream := { s1.stream with mig := { s1.stream.mig with enable := true } } }))
    else if g.enable then dropCache s1 else s1)

end Sys2Proof.Machine
end

