-- ==== Sys2Proof/Machine/Install.lean ====
section
/-! DEFINITION. Machine/Install.lean: content keys and envelopes (16_security R500 to R505), installs
(17_firmware_reset R535 to R543), the release of versions and models (02_memory_tiers R86 to R88), and the rows of
both. -/

namespace Sys2Proof.Machine
open Sys2Proof

/-! ## Keys (R500 to R503) -/

/-- The bytes of an ASCII label. -/
def ascii (l : String) : Bytes := l.toList.map (fun c => BitVec.ofNat 8 c.toNat)

def kek (s : State) : Bytes := Config.hkdf Config.duk (leBytes 8 s.ident.serial) (ascii "zh-kek-1")

/-- An envelope's plaintext, when the envelope is accepted (R502, R503). -/
def openEnvelope (s : State) (env : Bytes) : Option Bytes :=
  if !s.sec.keysHeld then none else
  match Config.oaepDecrypt Config.identityPrivate (ascii "ZH4820-CK") env with
  | none => none
  | some p =>
    if p.length = 144 ∧ byteAt p 0 = 1 ∧ byteAt p 1 ≤ 1 ∧ zeroAt p 4 4 = true ∧ slice p 16 32 ≠ slice p 48 32 then some p else none

/-- Load a key slot. -/
def loadKey (id : Nat) (k1 k2 : Bytes) (s : State) : State :=
  { s with sec := { s.sec with slots := s.sec.slots ++ [(id, k1, k2)] } }
def freeKey (id : Nat) (s : State) : State :=
  { s with sec := { s.sec with slots := s.sec.slots.filter (fun k => k.1 != id) } }

/-- At mount the wrapped keys of installed images and installs go into their slots (R503); an unlocked part unwraps
none (R501). -/
def mountKeys (s : State) : State :=
  let pairs := s.wst.images.map (fun m => (m.id, m.wrapped)) ++ s.wst.installs.map (fun i => (i.image, i.wrapped))
  let unwrap (w : Bytes) : Option (Bytes × Bytes) := if w = [] then some ([], []) else
      (Config.keyUnwrap (kek s) w).map (fun k => (k.take 32, k.drop 32))
  let keys := pairs.filterMap (fun p => (unwrap p.2).map (fun k => (p.1, k.1, k.2)))
  let held := s.sec.keysHeld && decide (s.sec.lifecycle = .provisioned)
  { s with sec := { s.sec with slots := if held then keys else [] } }

/-! ## Extents and granules (R535, R536; 03_weight_store R97, R112, R116) -/

def extentFault (len : Nat) (b : Bytes) : Option Nat :=
  firstBad [(leAt b 0 8 % 65536 == 0, 0),
    (decide (1 ≤ leAt b 8 4) && decide (leAt b 0 8 + 65536 * leAt b 8 4 ≤ 65536 * ceilDiv len 65536), 8),
    (decide (1 ≤ byteAt b 12) && decide (byteAt b 12 ≤ 4), 12), (decide (byteAt b 13 ≤ 1), 13), (zeroAt b 14 2, 14)]

def extentOf (b : Bytes) : InstExtent :=
  { off := leAt b 0 8, len := 65536 * leAt b 8 4, replicas := byteAt b 12, pslc := bit (byteAt b 13) 0 }
def rawExtents (b : Bytes) : List Bytes := (List.range (byteAt b 9)).map (fun i => slice b (528 + 16 * i) 16)

/-- The first field of an INSTALL_BEGIN block that breaks R535. -/
def installFieldFault (b : Bytes) : Option Nat :=
  match firstBad [(leAt b 0 8 % 4096 == 0 && decide (4096 ≤ leAt b 0 8), 0), (decide (byteAt b 8 ≤ 1), 8), (decide (byteAt b 9 ≤ 64), 9),
      (zeroAt b 10 6, 10), (bit (byteAt b 8) 0 || zeroAt b 16 512, 16)] with
  | some o => some o
  | none =>
    let es := rawExtents b
    (List.range es.length).findSome? (fun i => (extentFault (leAt b 0 8) (es.getD i [])).map (fun o => 528 + 16 * i + o))

/-- The first extent that overlaps an earlier one. -/
def installOverlap (b : Bytes) : Option Nat :=
  let es := (rawExtents b).map extentOf
  (List.range es.length).findSome? (fun i => match es[i]? with
    | none => none
    | some x => if (es.take i).any (fun y => overlap x.off x.len y.off y.len) then some (528 + 16 * i) else none)

/-- The class of a granule: 4 × pSLC + replicas − 1. -/
def granuleClass (es : List InstExtent) (hot : List Nat) (j : Nat) : Nat :=
  match es.find? (fun e => decide (e.off ≤ 65536 * j) && decide (65536 * j < e.off + e.len)) with
  | none => if hot.contains j then 4 else 0
  | some e => (if e.pslc || hot.contains j then 4 else 0) + (e.replicas - 1)

/-- Usable capacity that a granule of a class consumes, in granules. -/
def classWeight (c : Nat) : Nat := (if 4 ≤ c then 3 else 1) * (c % 4 + 1)
/-- Granules in a superblock of a class. -/
def classGranules (c : Nat) : Nat := 15 * (if 4 ≤ c then 128 else 384)
def granuleCount (len : Nat) : Nat := ceilDiv len 65536
/-- The granules that an image marks hot: of an install without envelope, those that its bytes will be found to mark (DESIGN CHOICE,
log entry 6). -/
def hotGranules (manifest : Bytes) (image : Nat) : List Nat :=
  if manifest = [] then Config.hotMarks image else (Config.imageInfo manifest).hotGranules
def weightsOf (es : List InstExtent) (hot : List Nat) (len : Nat) : List Nat :=
  (List.range (granuleCount len)).map (fun j => classWeight (granuleClass es hot j))

/-- Where granule `j` stands in its class: class and number. -/
def granulePlace (es : List InstExtent) (hot : List Nat) (j : Nat) : Nat × Nat :=
  let c := granuleClass es hot j
  (c, ((List.range j).filter (fun i => granuleClass es hot i == c)).length)

/-! ## Superblocks (03_weight_store R95 to R98, R112) -/

/-- Every die of a superblock and its replicas. -/
def superDies (x : Super) : List Nat := diesFrom x.die x.cls
def superBlocks (s : State) (x : Super) : List Nat := (superDies x).map (fun d => physBlock s d x.lblock)

/-- A superblock can be taken: its logical block is unused on every die, no die of its groups is short of spares or
failed, and each keeps 4 free blocks (R126). -/
def superFree (s : State) (x : Super) : Bool :=
  (superDies x).all (fun d => decide (d < dieCount s) && smGet 0 s.wst.remap (blockKey d x.lblock) == 0 &&
    !s.wst.failedDies.contains d && decide (4 < (freeBlocks s d).length)) &&
  (groupsFrom x.die x.cls).all (fun g => !s.wstMore.spareLowDies.any (fun d => d / 16 == g / 16))

/-- The lowest superblock that can be taken for a class (DESIGN CHOICE, log entry 14). -/
def findSuper (s : State) (cls idx : Nat) : Option Super :=
  (List.range (superPerDie s)).findSome? (fun l => (List.range (dieCount s / 16)).findSome? (fun g =>
    let x : Super := { cls := cls, idx := idx, die := 16 * g, lblock := l }
    if superFree s x then some x else none))

/-- Take a superblock: a free block of each die opens for it, and a record says so (R101). -/
def takeSuper (x : Super) (s : State) : State :=
  (superDies x).foldl (fun t d => match lowestFree t d with
    | none => t
    | some k =>
      let t1 := modBlock k (fun b => { b with state := 1, pslc := decide (4 ≤ x.cls), lblock := x.lblock }) t
      recorded (.remap d x.lblock (k % 1024) (decide (4 ≤ x.cls)) none)
        { t1 with wst := { t1.wst with remap := smSet 0 (blockKey d x.lblock) (k % 1024 + 1) t1.wst.remap } }) s

/-- Dies that have given up blocks are held against their spares (R126). -/
def checkSpares (ds : List Nat) (s : State) : State := ds.foldl (fun t d => checkSpare d t) s

/-- Give superblocks back: their blocks are to be erased and their logical blocks are unused (R105). -/
def releaseSupers (xs : List Super) (s : State) : State :=
  let s1 := releaseBlocks (xs.flatMap (superBlocks s)) s
  let keys := xs.flatMap (fun x => (groupsFrom x.die x.cls).map (fun d => d / 16 * 1024 + x.lblock))
  let s2 := xs.foldl (fun t x => recorded (.unmap x.die x.lblock x.cls) t) s1
  { s2 with wst := { s2.wst with
      remap := xs.foldl (fun m x => (superDies x).foldl (fun m d => smSet 0 (blockKey d x.lblock) 0 m) m) s2.wst.remap
      noParity := s2.wst.noParity.filter (fun k => !keys.contains (k / 512))
      turns := xs.foldl (fun m x => smSet 0 (blockKey x.die x.lblock) 0 m) s2.wst.turns } }

/-- The blocks of superblocks hold data and parity from now on (R105). -/
def closeSupers (xs : List Super) (s : State) : State :=
  levelDies (xs.flatMap superDies) ((xs.flatMap (superBlocks s)).foldl (fun t k => modBlock k (fun b =>
    if b.state = 1 then { b with state := if isParityDie (dieOf k) b.lblock then 3 else 2, ageStamp := s.wst.ageClock, rdPages := 0 }
    else b) t) s)

/-- The map entry of the `n`-th granule of a superblock's class run (R97, R99). -/
def granuleEntry (x : Super) (m : Nat) : MapEntry :=
  let data := ((List.range 16).map (fun i => x.die + i)).filter (fun d => !isParityDie d x.lblock)
  { valid := true, rep := x.cls % 4, pslc := decide (4 ≤ x.cls), die := data.getD (m % 15) 0, lblock := x.lblock, page := m / 15 }

/-! ## Installs -/

def installOf (s : State) (xfer : Nat) : Option Install := s.wst.installs.find? (fun i => i.xfer == xfer)
def installFor (s : State) (handle port : Nat) : Option Install :=
  s.wst.installs.find? (fun i => i.handle == handle && i.port == port)
def modInstall (xfer : Nat) (g : Install → Install) (s : State) : State :=
  { s with wst := { s.wst with installs := s.wst.installs.map (fun i => if i.xfer = xfer then g i else i) } }
def Install.hot (i : Install) : List Nat := hotGranules i.manifest i.image
def Install.granules (i : Install) : Nat := granuleCount i.len

/-- Granules below the durable length (R538). -/
def durableRun (l : List Nat) : Nat → Nat → Nat
  | 0, j => j
  | fuel + 1, j => if l.contains j then durableRun l fuel (j + 1) else j
def Install.durable64k (i : Install) : Nat := durableRun i.durable i.granules 0
def Install.durableLen (i : Install) : Nat := min i.len (65536 * i.durable64k)

/-- The lowest gap of granules in the logical space that begins at a migration region (DESIGN CHOICE, log entry 14). -/
def logicalBase (s : State) (n : Nat) : Nat :=
  let used := s.wst.images.map (fun m => (m.base, m.replicas.length)) ++ s.wst.installs.map (fun i => (i.base, i.granules))
  let ok (a : Nat) : Bool := used.all (fun u => !overlap a n u.1 u.2)
  let next (a : Nat) : Nat := 32 * ceilDiv a 32
  ((0 :: used.map (fun u => next (u.1 + u.2))).filter ok).foldl min (next (used.foldl (fun a u => max a (u.1 + u.2)) 0))

/-- A port may install or release an image of this kind (15_functional_safety R495). -/
def safetyPortOk (s : State) (kind port : Nat) : Bool :=
  !(kind == 1 || kind == 2) || (match safetyHost s with | none => false | some f => portOf f == port)

/-- What an INSTALL_BEGIN asks for: `confOnly`, function mask, manifest, keys. -/
structure Request where
  confOnly : Bool
  mask : Nat
  manifest : Bytes
  key1 : Bytes
  key2 : Bytes
  deriving DecidableEq, Repr

def beginRequest (s : State) (c : Cmd) : Option Request :=
  if bit (byteAt c.params 8) 0 then
    (openEnvelope s (slice c.params 16 512)).map (fun p =>
      { confOnly := bit (byteAt p 1) 0, mask := leAt p 2 2, manifest := slice p 80 64, key1 := slice p 16 32, key2 := slice p 48 32 })
  else some { confOnly := false, mask := 255 * 2 ^ (8 * portOf c.func), manifest := [], key1 := [], key2 := [] }

/-- Capacity of the request in MiB. -/
def beginMib (s : State) (c : Cmd) (r : Request) : Nat :=
  mib (sumBy (fun w => 65536 * w) (weightsOf ((rawExtents c.params).map extentOf) (hotGranules r.manifest s.wst.nextImage) (leAt c.params 0 8)))

/-- Why an INSTALL_BEGIN fails, if it does (R536). -/
def beginFail (s : State) (c : Cmd) : Option Fail :=
  match beginRequest s c with
  | none => some (fwDenied (locator 2 0 16))
  | some r =>
    if s.sec.lifecycle ≠ .provisioned then some (fwDenied (locator 0 0 8))
    else if r.manifest ≠ [] && !safetyPortOk s (Config.imageInfo r.manifest).kind (portOf c.func) then some (fwDenied (locator 0 0 8))
    else match installOverlap c.params with
      | some o => some (bad (locator 2 0 o))
      | none =>
        if s.wst.installs.any (fun i => i.handle == c.model) || decide (4 ≤ s.wst.installs.length) then some (bad (locator 0 0 8))
        else if decide (shareMib s s.bow.k (portOf c.func) < installedMib s (portOf c.func) + beginMib s c r) ||
            decide (256 ≤ s.sec.slots.length) then some (quotaFail 6)
        else none

/-- A refused envelope is recorded (SEC_EVENTS). -/
def noteEnvelope (s : State) (c : Cmd) : State :=
  if bit (byteAt c.params 8) 0 && (beginRequest s c).isNone then { s with sec := { s.sec with events := s.sec.events ||| 1 } } else s

def runInstallBegin (c : Cmd) (s : State) : State :=
  match beginFail s c with
  | some e => failCmd c.id e (noteEnvelope s c)
  | none => stageDone c.id [] 0 s

/-- INSTALL_BEGIN (R535, R536). -/
def execInstallBegin (id : Nat) (s : State) : Res := ok (runReady id 0x60 runInstallBegin s)

/-- The regions of an image: the first and the last. -/
def imageRegions (m : Image) : Nat × Nat := (m.base / 32, (m.base + m.replicas.length - 1) / 32)
def regionIn (m : Image) (r : Nat) : Bool := decide ((imageRegions m).1 ≤ r) && decide (r ≤ (imageRegions m).2)

/-- Drop the copies of a version's regions that are under way, but for those that a MODEL_PLACE still waits for; a slot that drains goes on
draining (02_memory_tiers R79, R81, R86). -/
def cancelMigration (m : Image) (s : State) : State :=
  { s with stream := { s.stream with mig := { s.stream.mig with slots := s.stream.mig.slots.filter (fun p => match p.2 with
      | none => false
      | some x => x.valid || x.draining || !regionIn m x.region || s.hif.cmds.any (fun c => (pinning s c).contains x.region)) } } }

def commitInstallBegin (c : Cmd) (s : State) : Except Fail State :=
  match beginFail s c, beginRequest s c with
  | some e, _ => .error e
  | none, none => .error (fwDenied (locator 2 0 16))
  | none, some r =>
    let id := s.wst.nextImage
    let len := leAt c.params 0 8
    let i : Install := {
      xfer := s.wst.nextXfer, handle := c.model, port := portOf c.func, func := c.func, state := .open, len := len,
      confOnly := r.confOnly, funcMask := r.mask, envelope := bit (byteAt c.params 8) 0, manifest := r.manifest,
      wrapped := if r.key1 = [] then [] else Config.keyWrap (kek s) (r.key1 ++ r.key2), image := id,
      extents := (rawExtents c.params).map extentOf, reserved := beginMib s c r, base := logicalBase s (granuleCount len),
      buffer := [], durable := [], cells := [], supers := [] }
    let s1 := match imageInForce s c.model with | none => s | some m => cancelMigration m s
    let s2 := recorded (.installBegin i.xfer) (loadKey id r.key1 r.key2 { s1 with wst := { s1.wst with
      installs := s1.wst.installs ++ [i], nextImage := id + 1, nextXfer := if s.wst.nextXfer = 65535 then 1 else s.wst.nextXfer + 1 } })
    .ok (modCmd c.id (fun c => { c with result := i.xfer }) s2)

/-! ## INSTALL_DATA (R537, R543; 05_command_rings R194, R195) -/

def xferOffset (c : Cmd) : Nat := leAt c.desc 24 8
def xferLength (c : Cmd) : Nat := leAt c.desc 32 4
def xferCrc (c : Cmd) : Nat := leAt c.desc 36 4
def xferId (c : Cmd) : Nat := leAt c.desc 40 2

def bufferUnits (s : State) : Nat := sumBy (fun i => i.buffer.length) s.wst.installs
/-- Some granule in the buffer is whole and will leave it. -/
def bufferDrains (s : State) : Bool := s.wst.installs.any (fun i => i.buffer.any (fun p => granuleWhole i (p.1 / 16)))

/-- Put a block into the buffer; units of durable granules are already stored. -/
def bufferBlock (i : Install) (off : Nat) (bs : Bytes) : Install :=
  (chunksOf 4096 (bs.length / 4096) bs).zipIdx.foldl (fun (i : Install) e =>
    let u := off / 4096 + e.2
    if i.durable.contains (u / 16) then i else { i with buffer := smSet none u (some e.1) i.buffer }) i

/-- Units that blocks received and not yet committed bring to the buffer. -/
def unitsComing (s : State) : Nat :=
  sumBy (fun c => if c.opcode = 0x61 ∧ c.phase = .done then xferLength c / 4096 else 0) s.hif.cmds

/-- Units of a block that the buffer does not hold yet. -/
def newUnits (i : Install) (off len : Nat) : Nat :=
  ((List.range (len / 4096)).filter (fun e => !unitIn i (off / 4096 + e) && !i.durable.contains ((off / 4096 + e) / 16))).length

/-- Why an INSTALL_DATA fails before it waits for the buffer. -/
def dataFail (s : State) (c : Cmd) : Option Fail :=
  match installOf s (xferId c) with
  | none => some (bad (locator 0 0 40))
  | some i => firstFail [(i.port == portOf c.func, bad (locator 0 0 40)),
      (xferOffset c % 4096 == 0 && decide (xferOffset c ≤ i.len), bad (locator 0 0 24)),
      (xferLength c % 4096 == 0 && decide (xferOffset c + xferLength c ≤ i.len), bad (locator 0 0 32))]

def runInstallData (c : Cmd) (s : State) : State :=
  match dataFail s c, installOf s (xferId c) with
  | some e, _ => failCmd c.id e s
  | none, none => s
  | none, some i =>
    match vaRead s c.func c.domain (leAt c.desc 16 8) (xferLength c) (locator 0 0 16) with
    | .error e => failCmd c.id e s
    | .ok bs =>
      if crc32 bs ≠ xferCrc c then failCmd c.id (bad (locator 0 0 36)) s
      else if 16384 < bufferUnits s + unitsComing s + newUnits i (xferOffset c) (xferLength c) then
        (if bufferDrains s || decide (0 < unitsComing s) then s else failCmd c.id (bad (locator 0 0 24)) s)
      else stageDone c.id [] 0 (modCmd c.id (fun c => { c with params := bs }) s)

/-- Commit INSTALL_DATA: its block goes into the buffer (R537; 05_command_rings R204). -/
def commitInstallData (c : Cmd) (s : State) : Except Fail State :=
  match dataFail s c with
  | some e => .error e
  | none => .ok (grantPrograms (modInstall (xferId c) (fun i => bufferBlock { i with state := .open } (xferOffset c) c.params) s))

/-- INSTALL_DATA (R537, R543). -/
def execInstallData (id : Nat) (s : State) : Res := ok (runReady id 0x61 runInstallData s)

/-! ## Programming (R538) -/

/-- The bytes of a granule in the buffer. -/
def granuleBytes (i : Install) (j : Nat) : Bytes := (granuleUnits i j).flatMap (fun u => (smGet none i.buffer u).getD [])

/-- A granule is programmed and recorded. -/
def storeGranule (i : Install) (j : Nat) : Install :=
  { i with durable := insertN j i.durable, cells := cellsWrite (65536 * j) (granuleBytes i j) i.cells,
           buffer := i.buffer.filter (fun p => p.1 / 16 != j) }

/-- The superblock of a granule, taken when it is the first there. -/
def superFor (i : Install) (j : Nat) (s : State) : State × Option Super :=
  let p := granulePlace i.extents i.hot j
  let idx := p.2 / classGranules p.1
  match i.supers.find? (fun x => x.cls == p.1 && x.idx == idx) with
  | some x => (s, some x)
  | none => match findSuper s p.1 idx with
    | none => (s, none)
    | some x => (checkSpares (superDies x) (modInstall i.xfer (fun i => { i with supers := i.supers ++ [x] }) (takeSuper x s)), some x)

/-- Every granule of a superblock is durable: its blocks hold data and parity from now on. -/
def superFull (i : Install) (x : Super) : Bool :=
  decide (classGranules x.cls ≤ ((i.durable.filter (fun j =>
    let p := granulePlace i.extents i.hot j
    p.1 == x.cls && p.2 / classGranules x.cls == x.idx)).length))

/-- Program one whole granule of an install. -/
def programGranule (xfer j : Nat) (s : State) : State :=
  match installOf s xfer with
  | none => s
  | some i =>
    if !granuleWhole i j || i.durable.contains j || decide (i.granules ≤ j) then s else
    match superFor i j s with
    | (_, none) => s
    | (s1, some x) =>
      let s2 := modInstall xfer (fun i => storeGranule i j) s1
      if superFull (storeGranule i j) x then closeSupers [x] (recorded (.installExtent xfer j (some (x.die, x.lblock, x.cls))) s2)
      else recorded (.installExtent xfer j none) s2

/-- An install's granules are programmed no longer: of one install, or of one granule of it. -/
def dropPrograms (p : Nat × Nat → Bool) (s : State) : State :=
  { s with wstMore := { s.wstMore with programming := s.wstMore.programming.filter (fun g => !p g) } }

/-- INSTALL_GRANULE_DURABLE (R538; 03_weight_store R130): a granule that the budget admitted is programmed. -/
def execInstallGranuleDurable (xfer granule : Nat) (s : State) : Res :=
  ok (when (domOn s 3 && !fwGap s && s.wstMore.programming.contains (xfer, granule))
    (fun s => grantPrograms (programGranule xfer granule (dropPrograms (fun g => g == (xfer, granule)) s))) s)

/-! ## The end of an install (R539, R540, R541; 16_security R505) -/

/-- Report an install's suspension or roll-back (R533). -/
def installEvent (detail bits handle : Nat) (s : State) : State :=
  postBoth 0x0050 detail handle 0xFFFF { s with fwu := { s.fwu with events := s.fwu.events ||| bits } }

/-- Forget an install: its blocks, its reservation and its key slot. -/
def dropInstall (i : Install) (s : State) : State :=
  let s1 := releaseSupers i.supers (dropPrograms (fun g => g.1 == i.xfer) { s with wst := { s.wst with
    installs := s.wst.installs.map (fun x => if x.xfer = i.xfer then { x with buffer := [] } else x) } })
  freeKey i.image { s1 with wst := { s1.wst with installs := s1.wst.installs.filter (fun x => x.xfer != i.xfer) } }

def rollBack (i : Install) (s : State) : State := installEvent 6 16 i.handle (dropInstall i (recorded (.installCancel i.xfer) s))

/-- The digest of an install's plaintext. -/
def installDigest (s : State) (i : Install) : Bytes :=
  match s.sec.slots.find? (fun k => k.1 == i.image) with
  | none => []
  | some k => Config.sha512 (plainBytes k.2 i.cells 0 i.len)

def runInstallCommit (c : Cmd) (s : State) : State :=
  match installFor s c.model (portOf c.func) with
  | none => failCmd c.id (bad (locator 0 0 8)) s
  | some i =>
    if i.durableLen < i.len then failCmd c.id (bad (locator 0 0 8)) s
    else if i.envelope && decide (installDigest s i ≠ i.manifest) then
      failCmd c.id (fwDenied (locator 0 0 8)) (rollBack i { s with sec := { s.sec with events := s.sec.events ||| 2 } })
    else stageDone c.id [] 0 (modInstall i.xfer (fun i => { i with state := .committing }) s)

/-- INSTALL_COMMIT (R539). -/
def execInstallCommit (id : Nat) (s : State) : Res := ok (runReady id 0x62 runInstallCommit s)

/-- Remove every entry of a handle from the prefix table. -/
def dropHandlePrefixes (handle : Nat) (s : State) : State := removePrefixes (fun e => e.handle == handle) s

/-- A version no longer serves new commands: placements, copies and hot entries of it go when their last use is over
(02_memory_tiers R86, R87; 10_scheduling_sharing R362). -/
def retireVersion (m : Image) (s : State) : State :=
  let s1 := dropHandlePrefixes m.handle s
  { s1 with
      stream := { s1.stream with
        placements := s1.stream.placements.filter (fun (p : Placement) => !(p.handle == m.handle && p.version == m.version))
        copies := s1.stream.copies.map (fun (w : WCopy) => if w.handle = m.handle ∧ w.version = m.version ∧ w.staged = none then retireCopy s1.hif.nextId w else w) }
      bow := { s1.bow with hot := s1.bow.hot.map (fun (h : HotEntry) =>
        if h.handle = m.handle ∧ h.version = m.version ∧ h.staged = none then retireHot s1.hif.nextId h else h) } }

/-- Write the map entries of an install's granules. -/
def mapInstall (i : Install) (m : SMap MapEntry) : SMap MapEntry :=
  (List.range i.granules).foldl (fun m j =>
    let p := granulePlace i.extents i.hot j
    match i.supers.find? (fun x => x.cls == p.1 && x.idx == p.2 / classGranules p.1) with
    | none => m
    | some x => smSet {} (i.base + j) (granuleEntry x (p.2 % classGranules p.1)) m) m

/-- The hot entries of a version that pins keep loaded, with the tensors that their placements put there. -/
def pinnedLoads (s : State) (o : Image) : List (Nat × List PlaceEntry) :=
  (s.bow.hot.filter (fun h => h.handle == o.handle && h.version == o.version && liveHot h && pinned s h)).filterMap
    (fun h => (placementOf s h.func o.handle o.version).map (fun p => (h.func, p.entries)))

/-- A pinned handle reloads as its new version: an entry of the new version's tensors that the earlier placement would put there, with its
backing copies, where the function's quota and its copy area hold them (10_scheduling_sharing R362; DEDUCED, log entry 67). -/
def reloadPinned (m : Image) (s : State) (e : Nat × List PlaceEntry) : State :=
  let bytes := hotBytes e.2 m
  if bytes = 0 then s else match reserveCopies s.hif.nextId e.1 m true tensorLen (hotTensors e.2 m) s with
  | none => s
  | some s1 =>
    let id := s.hif.nextId
    if (quotaOf s e.1).ddrMib < ddrUsedMib s1 e.1 then s else
    let s2 := (s1.stream.copies.filter (fun w => w.staged == some id)).foldl (fillCopy m e.2) (addHot id e.1 m bytes 0 s1)
    { s2 with
        stream := { s2.stream with copies := s2.stream.copies.map (fun (w : WCopy) => if w.staged = some id then { w with staged := none } else w) }
        bow := { s2.bow with hot := s2.bow.hot.map (fun (h : HotEntry) => if h.staged = some id then { h with staged := none } else h) } }

def commitInstallCommit (c : Cmd) (s : State) : State :=
  match installFor s c.model (portOf c.func) with
  | none => s
  | some i =>
    let digest := if i.envelope then i.manifest else installDigest s i
    let m : Image := {
      id := i.image, handle := i.handle, version := i.image, port := i.port, confOnly := i.confOnly, funcMask := i.funcMask,
      len := i.len, manifest := digest, wrapped := i.wrapped, base := i.base, replicas := weightsOf i.extents i.hot i.len,
      supers := i.supers, cells := i.cells, inForce := true }
    let loads := match imageInForce s i.handle with | none => [] | some o => pinnedLoads s o
    let s1 := match imageInForce s i.handle with | none => dropHandlePrefixes i.handle s | some o => retireVersion o (cancelMigration o s)
    let s2 := closeSupers i.supers s1
    loads.foldl (reloadPinned m) <| checkpointed (recorded .checkpoint (recorded (.installCommit i.xfer) { s2 with wst := { s2.wst with
      map := mapInstall i s2.wst.map
      installs := s2.wst.installs.filter (fun x => x.xfer != i.xfer)
      images := s2.wst.images.map (fun o => if o.handle = i.handle then { o with inForce := false } else o) ++ [m] } }))

def runInstallCancel (c : Cmd) (s : State) : State :=
  match installFor s c.model (portOf c.func) with
  | none => failCmd c.id (bad (locator 0 0 8)) s
  | some i => stageDone c.id [] 0 (modInstall i.xfer (fun i => { i with state := .cancelling }) s)

/-- INSTALL_CANCEL (R540). -/
def execInstallCancel (id : Nat) (s : State) : Res := ok (runReady id 0x63 runInstallCancel s)

def commitInstallCancel (c : Cmd) (s : State) : State :=
  match installFor s c.model (portOf c.func) with
  | none => s
  | some i => dropInstall i (recorded (.installCancel i.xfer) s)

/-- Suspend an install: whole granules are programmed first when `program` holds, the rest of the buffer is discarded,
and what lies beyond the durable length is released (R541, R542). -/
def suspendInstall (program : Bool) (xfer : Nat) (s : State) : State :=
  let s1 := if program then match installOf s xfer with
      | none => s
      | some i => ((i.buffer.map (fun p => p.1 / 16)).eraseDups).foldl (fun t j => programGranule xfer j t) s
    else s
  match installOf s1 xfer with
  | none => s1
  | some i =>
    let d := i.durable64k
    let keep := i.supers.filter (fun x => (List.range d).any (fun j =>
      let p := granulePlace i.extents i.hot j
      p.1 == x.cls && p.2 / classGranules p.1 == x.idx))
    let s2 := releaseSupers (i.supers.filter (fun x => !keep.contains x))
      (dropPrograms (fun g => g.1 == xfer) (modInstall xfer (fun i => { i with buffer := [] }) s1))
    installEvent 5 8 i.handle (modInstall xfer (fun i =>
      { i with state := .suspended, buffer := [], durable := List.range d, supers := keep, cells := i.cells.filter (fun p => decide (p.1 < 65536 * d)) }) s2)

/-- Suspend every open install of a port. -/
def suspendPort (p : Nat) (s : State) : State :=
  ((s.wst.installs.filter (fun i => i.port == p && i.state != .suspended)).map (fun i => i.xfer)).foldl
    (fun t x => suspendInstall false x t) s

/-! ## MODEL_RELEASE (02_memory_tiers R87, R88) -/

/-- The handle serves in the configuration of a safety stream that is not UNCONFIGURED. -/
def inSafetyConfig (s : State) (handle : Nat) : Bool :=
  s.saf.state != .unconfigured && (leAt s.saf.config 20 2 == handle || leAt s.saf.config 22 2 == handle)

def releaseFail (s : State) (c : Cmd) : Option Fail :=
  let denied := fwDenied (locator 0 0 8)
  match imageVersion s c.model c.bound.version with
  | none => some denied
  | some m => firstFail [(c.model != 0 && (imageInForce s c.model).isSome, denied), (m.port == portOf c.func, denied),
      (safetyPortOk s (infoOf m).kind (portOf c.func), denied),
      (!s.wst.installs.any (fun i => i.handle == c.model && (i.state == .open || i.state == .suspended)), bad (locator 0 0 8)),
      (!inSafetyConfig s c.model, bad (locator 0 0 8))]

def runModelRelease (c : Cmd) (s : State) : State :=
  match releaseFail s c with
  | some e => failCmd c.id e s
  | none => stageDone c.id [] 0 s

/-- MODEL_RELEASE (R87, R88). -/
def execModelRelease (id : Nat) (s : State) : Res := ok (runReady id 0x64 runModelRelease s)

/-- Commit a release: the version serves no later command. -/
def commitModelRelease (c : Cmd) (s : State) : Except Fail State :=
  match releaseFail s c, imageVersion s c.model c.bound.version with
  | some e, _ => .error e
  | none, none => .error (fwDenied (locator 0 0 8))
  | none, some m =>
    let s1 := retireVersion m s
    .ok (checkpointed (recorded .checkpoint (recorded (.mapRange m.base m.replicas.length false) (freeKey m.id { s1 with
      wst := { s1.wst with
        map := s1.wst.map.map (fun p => if m.base ≤ p.1 ∧ p.1 < m.base + m.replicas.length then (p.1, { p.2 with valid := false }) else p)
        images := s1.wst.images.map (fun (x : Image) => if x.id = m.id then { x with released := true, heldKey := keyOf s m.id } else x) }
      atn := { s1.atn with sessions := s1.atn.sessions.map (fun (x : Session) =>
        if x.handle = m.handle ∧ x.version = m.version then { x with released := true } else x) } }))))

/-- A command uses a version: it bound it for one of the handles it names, in its header or in a stage (R86, R87). -/
def versionUsed (s : State) (m : Image) : Bool :=
  s.hif.cmds.any (fun c => (c.model == m.handle && c.bound.version == m.version) ||
    c.bound.places.any (fun p => p.handle == m.handle && p.version == m.version)) ||
  s.stream.passes.any (fun p => p.handle == m.handle && p.version == m.version && !p.members.isEmpty)

/-- Forget a version that nothing uses: its blocks, its map entries and its key slot; its migration slots drain (R79, R86, R87). -/
def dropVersion (m : Image) (s : State) : State :=
  let s1 := recorded (.mapRange m.base m.replicas.length false) (releaseSupers m.supers s)
  let slots := s1.stream.mig.slots.filter (fun p => match p.2 with | none => false | some x => regionIn m x.region && !x.draining)
  let s2 := slots.foldl (fun t p => drainSlot p.1 t) s1
  freeKey m.id { s2 with wst := { s2.wst with
    map := s2.wst.map.filter (fun p => decide (p.1 < m.base) || decide (m.base + m.replicas.length ≤ p.1))
    images := s2.wst.images.filter (fun x => x.id != m.id) } }

/-- Versions that were replaced or released go with the last command that uses them. -/
def sweepVersions (s : State) : State :=
  (s.wst.images.filter (fun m => (!m.inForce || m.released) && !versionUsed s m)).foldl (fun t m => dropVersion m t) s

/-! ## MODEL_PLACE, continued (02_memory_tiers R54 to R59, R82, R83) -/

/-- The runs of the copies that a MODEL_PLACE has reserved. -/
def stagedRuns (s : State) (id : Nat) : List (Nat × Nat) :=
  (s.stream.copies.filter (fun w => w.staged == some id)).map (fun w => (w.addr, w.len))

/-- The part of each tensor that a placement's copies are made from in the store: wholly for the hot set, else its DDR5 share. -/
def placeParts (s : State) (es : List PlaceEntry) (m : Image) : List (Config.TensorInfo × Nat × Nat) :=
  (copyTensors s es m).map (fun t => (t, ddrFraction (homeIn es t) t)) ++ (hotTensors es m).map (fun t => (t, 1, 1))

/-- The granule of the first chunk of the first `num` of `den` parts of an extent that does not decode (R74, R83). -/
def spoiltGranule (s : State) (m : Image) (num den : Nat) (e : Config.Extent) : Option Nat :=
  match keyOf s m.id with
  | none => none
  | some k => if !e.packed then none else
    ((List.range (ceilDiv (e.chunks * num) (max 1 den))).find? (fun i => (decodeChunk (plainBytes k m.cells (e.off + 4096 * i) 4096)).isNone)).map
      (fun i => m.base + (e.off + 4096 * i) / 65536)

/-- A run of the store that the copies of a placement are made from is lost, or does not decode: the layer of the first such tensor, and the
granule of the chunk that is read once more through the rebuild (R82, R83; 03_weight_store R99). -/
def placeLost (s : State) (es : List PlaceEntry) (m : Image) : Option (Nat × Option Nat) :=
  (placeParts s es m).findSome? (fun p =>
    if (granulesOf m (storedRuns p.1 (some (0, p.1.n * p.2.1 / max 1 p.2.2)))).any (poisoned s) then some (p.1.layer, none) else
    ((tensorExtents p.1).findSome? (spoiltGranule s m p.2.1 p.2.2)).map (fun g => (p.1.layer, some g)))

/-- A chunk that does not decode is read once more through the rebuild of its die-page, where its stripe has one; the bytes are the same. -/
def rebuildGranule (id : Nat) (s : State) (g : Nat) : State :=
  let e := smGet {} s.wst.map g
  let k := physBlock s e.die e.lblock
  if noRebuild s k e.page then s else rebuiltRead k (.place id) s

/-- The hot load and the pinned copies of a placement whose copies are reserved: MODEL_PLACE runs until they are in place (R57,
R80). -/
def placeLoad (c : Cmd) (m : Image) (es : List PlaceEntry) (s : State) : State :=
  let old := sameHot s c.func m es
  let e := match old with | none => s.bow.nextHot | some h => h.id
  let bytes := hotBytes es m
  let s1 := if bytes = 0 then s else modCmd c.id (fun c => { c with aux := [e] })
    (if old.isSome then s else addHot c.id c.func m bytes 0 s)
  let load := decide (bytes ≠ 0) && (match hotOf s1 e with | none => false | some h => !h.loaded && (s1.bow.policy == 0 || pinned s1 h))
  let s2 := if load then startSwitch e s1 else s1
  pinMore (modCmd c.id (fun c => { c with phase := .running, hot := if load then some e else none }) s2)

/-- Reserve the copies of a placement whose checks passed, and start its loads. -/
def placeStart (c : Cmd) (m : Image) (es : List PlaceEntry) (s : State) : State :=
  match placeLost s es m with
  | some l => failCmd c.id { status := stFlashUnc, result := l.1 } (l.2.toList.foldl (rebuildGranule c.id) s)
  | none =>
  match placeCopies c m es s with
  | none => failCmd c.id (quotaFail 2) s
  | some s1 => match runsRefused s1 c.domain true (locator 0 0 16) (stagedRuns s1 c.id) with
    | some e => failCmd c.id e (recordFail c.func c.ring e s1)
    | none => placeLoad c m es s1

def runModelPlace (c : Cmd) (s : State) : State :=
  match imageVersion s c.model c.bound.version with
  | none => failCmd c.id (fwDenied (locator 0 0 8)) s
  | some m =>
    let n := leAt c.desc 24 2
    match vaRead s c.func c.domain (leAt c.desc 16 8) (8 * n) (locator 0 0 16) with
    | .error e => failCmd c.id e s
    | .ok bs =>
      let raw := (List.range n).map (fun i => slice bs (8 * i) 8)
      match (List.range n).findSome? (fun i => (entryFault s (infoOf m).layers (raw.getD i [])).map (fun o => (i, o))) with
      | some (i, o) => failCmd c.id (bad (locator 2 i o)) s
      | none =>
        let es := raw.map entryOf
        match placeQuota s c m es with
        | some q => failCmd c.id (quotaFail q) s
        | none => placeStart c m es (modCmd c.id (fun c => { c with params := bs }) s)

/-- MODEL_PLACE (R56, R57). -/
def execModelPlace (id : Nat) (s : State) : Res := ok (runReady id 0x23 runModelPlace s)

end Sys2Proof.Machine
end

