-- ==== Sys2Proof/Machine/Firmware.lean ====
section
/-! DEFINITION. Machine/Firmware.lean: firmware slots, boot checks, live hand-over and boot: the firmware rows of
17_firmware_reset (R524 to R534). -/

namespace Sys2Proof.Machine
open Sys2Proof

/-- The inactive slot's number. -/
def inactive (s : State) : Nat := 1 - s.fwu.active
def slotOf (s : State) (n : Nat) : Slot := s.fwu.slots.getD n {}
def modSlot (n : Nat) (g : Slot → Slot) (s : State) : State := { s with fwu := { s.fwu with slots := modAt n g s.fwu.slots } }

/-! ## Boot checks (R525, R526) -/

def slotHeader (x : Slot) : Bytes := cellsRead x.cells 0 4096
def slotPayload (x : Slot) : Bytes := cellsRead x.cells 4096 (leAt (slotHeader x) 12 4)
def slotSecVer (s : State) (x : Slot) : Nat := if x.shipped then s.fwu.secVer else leAt (slotHeader x) 6 2

/-- The first failing check of a slot's image, by its code. -/
def bootCheck (s : State) (n : Nat) : Option Nat :=
  let x := slotOf s n
  let h := slotHeader x
  if x.shipped then (if s.fwu.minSecVer ≤ slotSecVer s x then none else some 6)
  else if !(x.complete && leAt h 0 4 == 0x5746485A && byteAt h 4 == 1 && byteAt h 5 == 0 && zeroAt h 28 4 && zeroAt h 48 16 &&
      zeroAt h 1088 3008 && leAt h 12 4 % 4096 == 0 && decide (4096 ≤ leAt h 12 4) && decide (leAt h 12 4 ≤ 67104768) &&
      leAt h 12 4 + 4096 == 4096 * x.len4k) then some 2
  else if Config.sha512 (slice h 64 512) ≠ Config.firmwareSignDigest then some 3
  else if !Config.pssVerify (slice h 64 512) (h.take 576 ++ slotPayload x) (slice h 576 512) then some 4
  else if (Config.gcmOpen Config.firmwareKey (slice h 16 12) (h.take 16) (slotPayload x) (slice h 32 16)).isNone then some 5
  else if slotSecVer s x < s.fwu.minSecVer then some 6
  else none

/-- The image of a slot runs: HIF_ID and the security version follow its header. -/
def runSlot (n : Nat) (s : State) : State :=
  let x := slotOf s n
  let h := slotHeader x
  let s1 := { s with fwu := { s.fwu with active := n, recovery := false } }
  if x.shipped then s1 else
    { s1 with
        ident := { s1.ident with fwMajor := byteAt h 8, fwMinor := byteAt h 9, fwBuild := leAt h 10 2 }
        fwu := { s1.fwu with secVer := leAt h 6 2 } }

def fwEvent (detail info : Nat) (s : State) : State := postBoth 0x0050 detail info 0xFFFF s

/-- Boot at a power-on or warm reset (R534): the active slot, else the other, else recovery. -/
def boot (s : State) : State :=
  match bootCheck s s.fwu.active with
  | none => runSlot s.fwu.active s
  | some e =>
    match bootCheck s (inactive s) with
    | none => fwEvent 4 e (runSlot (inactive s) { s with fwu := { s.fwu with events := s.fwu.events ||| 4, fail := e } })
    | some _ => { s with
        fwu := { s.fwu with recovery := true, fail := e }
        ident := { s.ident with fwMajor := 0, fwMinor := 0, fwBuild := 0 } }

/-! ## FWU_CTRL (R526, R527) -/

/-- The port may write the inactive slot. -/
def mayLoad (s : State) (func : Nat) : Bool := isPhys func && bit s.fwu.ports (portOf func)

/-- FWU_OPEN (R527, R528): the slot is erased and loading starts. -/
def execFwuOpen (func value : Nat) (s : State) : Res :=
  regWrite func 11 s <|
  let n := bf value 46 32
  let from_ := s.fwu.state = .empty ∨ (s.fwu.state = .loaded ∧ s.fwu.loader = portOf func)
  ok (if mayLoad s func && decide from_ && decide (2 ≤ n) && decide (n ≤ 16384) && decide (s.fwu.handover = .none) then
    modSlot (inactive s) (fun _ => { len4k := n })
      { s with fwu := { s.fwu with state := .loading, recv := [], len4k := n, ctrlLen := n, loader := portOf func, erasing := true } }
    else s)

/-- FWU_ABORT (R527). -/
def execFwuAbort (func : Nat) (s : State) : Res :=
  regWrite func 11 s <|
  ok (if mayLoad s func && decide (s.fwu.state = .loading ∨ s.fwu.state = .loaded) && decide (s.fwu.loader = portOf func) then
    modSlot (inactive s) (fun _ => {}) { s with fwu := { s.fwu with state := .empty, recv := [], erasing := false } }
    else s)

/-- FWU_RAISE_SEC (R526): the counter never falls. -/
def execFwuRaiseSec (func : Nat) (s : State) : Res :=
  regWrite func 11 s <|
  ok (when (isPhys func) (fun s => { s with fwu := { s.fwu with minSecVer := max s.fwu.minSecVer s.fwu.secVer } }) s)

/-- The 32 pSLC blocks of a slot: block `n` of dies 0 to 31, or what replaced it (R524; DESIGN CHOICE, log entry 14). -/
def slotBlocks (s : State) (n : Nat) : List Nat := (List.range 32).flatMap (regionBlocks s 7 n)

/-- An erase wears each block of a slot by 1 (03_weight_store R114). -/
def wearSlot (n : Nat) (s : State) : State := (slotBlocks s n).foldl (fun t k => wearBlock k t) s

/-- SLOT_ERASE_DONE (R528): the erase does not run beside journal compaction (03_weight_store R129). -/
def execSlotEraseDone (s : State) : Res :=
  ok (when (s.fwu.erasing && !compacts s)
    (fun s => grantPrograms (settleCompaction (wearSlot (inactive s) { s with fwu := { s.fwu with erasing := false } }))) s)

/-! ## FW_WRITE (R528; 05_command_rings R194, R195) -/

/-- Why a FW_WRITE fails before its block is read. -/
def fwWriteFail (s : State) (c : Cmd) : Option Fail :=
  firstFail [(decide (s.fwu.state = .loading), bad (locator 0 0 0)), (s.fwu.loader == portOf c.func, fwDenied (locator 0 0 0)),
    (xferOffset c % 4096 == 0, bad (locator 0 0 24)),
    (xferLength c % 4096 == 0 && decide (xferOffset c + xferLength c ≤ 4096 * s.fwu.len4k), bad (locator 0 0 32))]

/-- A block waits for the slot's erase, for journal compaction and for the program budget (R528; 03_weight_store R129, R130). -/
def runFwWrite (c : Cmd) (s : State) : State :=
  match fwWriteFail s c with
  | some e => failCmd c.id e s
  | none =>
    if s.fwu.erasing || compacts s || !budgetFree s 0 then s else
    match vaRead s c.func c.domain (leAt c.desc 16 8) (xferLength c) (locator 0 0 16) with
    | .error e => failCmd c.id e s
    | .ok bs => if crc32 bs ≠ xferCrc c then failCmd c.id (bad (locator 0 0 36)) s
      else stageDone c.id [] 0 (modCmd c.id (fun c => { c with stages := [bs] }) s)

/-- FW_WRITE (R528). -/
def execFwWrite (id : Nat) (s : State) : Res := ok (runReady id 0x65 runFwWrite s)

def commitFwWrite (c : Cmd) (s : State) : Except Fail State :=
  match fwWriteFail s c with
  | some e => .error e
  | none =>
    let recv := (List.range (xferLength c / 4096)).foldl (fun l i => insertN (xferOffset c / 4096 + i) l) s.fwu.recv
    let full := decide (s.fwu.len4k ≤ recv.length)
    .ok (modSlot (inactive s) (fun x => { x with complete := full, cells := cellsWrite (xferOffset c) (c.stages.headD []) x.cells })
      { s with fwu := { s.fwu with recv := recv, state := if full then .loaded else .loading } })

/-! ## Hand-over (R529 to R532) -/

/-- An activation fails: the record stands, and the command reports the code (R531). -/
def activationFailed (id code : Nat) (s : State) : State :=
  failCmd id { status := stInternal, result := 0x5 * 2 ^ 28 + code } (fwEvent 3 code
    { s with fwu := { s.fwu with state := .loaded, handover := .none, fail := code, events := s.fwu.events ||| 2 } })

/-- In recovery the slot is booted directly (R534). -/
def recoveryBoot (c : Cmd) (s : State) : State :=
  match bootCheck s (inactive s) with
  | some e => activationFailed c.id e s
  | none =>
    let s1 := runSlot (inactive s) s
    stageDone c.id [] 0 { s1 with
      fwu := { s1.fwu with state := .loaded, events := s1.fwu.events ||| 1 }
      clk := { s1.clk with stage := max 3 s1.clk.stage } }

def runFwActivate (c : Cmd) (s : State) : State :=
  if !mayLoad s c.func then failCmd c.id (fwDenied (locator 0 0 0)) s
  else if s.fwu.state ≠ .loaded then failCmd c.id (bad (locator 0 0 0)) s
  else if s.fwu.recovery then recoveryBoot c s
  else modCmd c.id (fun c => { c with phase := .running })
    (fwEvent 1 0 { s with fwu := { s.fwu with state := .activating, handover := .checking c.id } })

/-- FW_ACTIVATE (R529, R534). -/
def execFwActivate (id : Nat) (s : State) : Res := ok (runReady id 0x66 runFwActivate s)

/-- The command of the hand-over has not failed. -/
def handoverAlive (s : State) (id : Nat) : Bool := match cmdOf s id with
  | none => false
  | some c => c.alive

/-- HANDOVER_BOOT_CHECK_DONE (R529 steps 1 and 2, R526): `some 8` says that the slot could not be read. -/
def execHandoverBootCheckDone (failed : Option Nat) (s : State) : Res :=
  ok (match s.fwu.handover with
    | .checking id =>
      if !handoverAlive s id then s else
      match (if failed = some 8 then some 8 else bootCheck s (inactive s)) with
      | some e => activationFailed id e s
      | none => { s with fwu := { s.fwu with handover := .starting id } }
    | _ => s)

/-- HANDOVER_FIRMWARE_READY (R529 steps 3 to 5): the running firmware freezes. -/
def execHandoverFirmwareReady (s : State) : Res :=
  ok (match s.fwu.handover with
    | .starting id => if !handoverAlive s id then s else { s with fwu := { s.fwu with handover := .gap id s.now } }
    | _ => s)

def gapLength (since : Nat) (s : State) : Nat := min 255 ((s.now - since) / 384000000)

/-- The new image takes charge (R527, R529 steps 6 and 7). -/
def takeCharge (id : Nat) (s : State) : State :=
  let s1 := runSlot (inactive s) { s with fwu := { s.fwu with state := .loaded, handover := .none, events := s.fwu.events ||| 1 } }
  stageDone id [] 0 (fwEvent 2 (s1.ident.fwMajor * 2 ^ 24 + s1.ident.fwMinor * 2 ^ 16 + s1.ident.fwBuild) s1)

/-- A hand-over whose command ended otherwise is given up. -/
def dropHandover (id : Nat) (s : State) : State :=
  let mine := match s.fwu.handover with
    | .none => false
    | .checking i => i == id
    | .starting i => i == id
    | .gap i _ => i == id
  if mine then { s with fwu := { s.fwu with handover := .none, state := .loaded } } else s

end Sys2Proof.Machine
end

