-- ==== Sys2Proof/Machine/Security.lean ====
section
/-! DEFINITION. Machine/Security.lean: debug unlock, the SPDM responder and confidential functions: the rows of
16_security (R510 to R521). -/

namespace Sys2Proof.Machine
open Sys2Proof

/-! ## Weight regions (R507, R510) -/

/-- Zero every weight region of DDR5 and SRAM; what they held is gone. -/
def zeroWeightRegions (s : State) : State :=
  let s1 := s.stream.copies.foldl (fun t w => zeroDev w.addr w.len t) s
  let s2 := if s1.stream.mig.enable then zeroDev s1.stream.mig.base (0x200000 * s1.stream.mig.size) s1 else s1
  let s3 := (s2.bow.hot.map (fun h => h.id)).foldl (fun t e => evictHot e t) s2
  let s4 := (List.range 48).foldl (fun t i => zeroFretWeights i t) s3
  let s5 := (List.range 4).foldl (fun t j => zeroBuffer j t) s4
  { s5 with stream := { s5.stream with copies := [], mig := { s5.stream.mig with slots := [] } } }

/-! ## Debug (R511 to R513) -/

/-- SEC_DBG_CTRL's `scope`: 1 or 2, else unchanged. -/
def dbgScopeOf (s : State) (v : Nat) : Nat := if v = 1 ∨ v = 2 then v else s.sec.dbgScope

/-- DEBUG_REQUEST (R512 steps 1 and 2): a random nonce. -/
def execDebugRequest (func value : Nat) (s : State) : Res :=
  regWrite func 10 s <|
  ok (if !isPhys func then s else
    let s1 := { s with sec := { s.sec with dbgScope := dbgScopeOf s (bf value 9 8) } }
    if s1.sec.dbgFails < 3 ∧ s1.sec.dbgState ≤ 1 ∧ s1.sec.lifecycle = .provisioned then
      drawn 4 { s1 with sec := { s1.sec with
        dbgState := 1, dbgTime := s1.now,
        dbgNonce := (List.range 4).map (fun i => Config.freeNat (s1.free + i) % 2 ^ 64) } }
    else s1)

/-- DEBUG_SUBMIT (R512 step 3): the check begins. -/
def execDebugSubmit (func : Nat) (s : State) : Res :=
  regWrite func 10 s <|
  ok (when (isPhys func && s.sec.dbgState == 1) (fun s => { s with sec := { s.sec with dbgState := 2 } }) s)

/-- The signed message: serial, nonce, scope, lifecycle state. -/
def debugMessage (s : State) : Bytes :=
  leBytes 8 s.ident.serial ++ s.sec.dbgNonce.flatMap (leBytes 8) ++ leBytes 1 s.sec.dbgScope ++ leBytes 1 1
/-- Words of the response as an octet string, most significant byte first. -/
def respOctets (s : State) (first : Nat) : Bytes :=
  ((List.range 64).flatMap (fun i => leBytes 8 (smGet 0 s.sec.dbgResp (first + i)))).reverse
def debugSigned (s : State) : Bool :=
  decide (Config.sha512 (respOctets s 64) = Config.debugKeyDigest) &&
    Config.pssVerify (respOctets s 64) (debugMessage s) (respOctets s 0)

/-- The part is unlocked: keys erased first, then weights (R512 steps 5 and 6, R513). -/
def unlock (s : State) : State :=
  let s1 := zeroWeightRegions { s with sec := { s.sec with slots := [], keysHeld := false } }
  { s1 with sec := { s1.sec with lifecycle := .unlocked, granted := s.sec.dbgScope, dbgState := 3, events := s1.sec.events ||| 8 } }

/-- DEBUG_CHECK_DONE (R512 steps 4 to 6). -/
def execDebugCheckDone (s : State) : Res :=
  ok (if s.sec.dbgState ≠ 2 then s
    else if debugSigned s then unlock s
    else { s with sec := { s.sec with dbgState := 0, dbgFails := min 3 (s.sec.dbgFails + 1), events := s.sec.events ||| 4 } })

/-- DEBUG_RESPONSE_TIMEOUT (R512 step 3). -/
def execDebugResponseTimeout (s : State) : Res :=
  ok (when (s.sec.dbgState == 1) (fun s => { s with sec := { s.sec with dbgState := 0 } }) s)

/-! ## The SPDM responder (R514, R515; DESIGN CHOICE, log entry 16) -/

def answer (func : Nat) (b : Bytes) (s : State) : State := modConf func (fun c => { c with answer := b }) s
def sessionHeld (c : Conf) (id : Nat) : Bool := c.sessions.any (fun x => x.id == id)

/-- NEGOTIATE_ALGORITHMS (R514): version 1.2 and the algorithms of R514. -/
def execNegotiateAlgorithms (func : Nat) (s : State) : Res :=
  unit func 16 (ok (modConf func (fun c => { c with negotiated := true, answer := [0x12] }) s))

/-- GET_CERTIFICATE (R514): the chain stands in slot 0. -/
def execGetCertificate (func slot : Nat) (s : State) : Res :=
  unit func 16 (ok (answer func (if (confOf s func).negotiated && slot == 0 then Config.certChain else []) s))

/-- CHALLENGE (R514): signed with the identity key over the requester's nonce and the device's. -/
def execChallenge (func slot : Nat) (nonce : Bytes) (s : State) : Res :=
  unit func 16 (ok (
    if (confOf s func).negotiated && slot == 0 then
      let own := drawBytes 32 s
      let salt := drawBytes 64 (drawn 32 s)
      drawn 96 (answer func (own ++ Config.pssSign Config.identityPrivate (nonce ++ own) salt) s)
    else answer func [] s))

def lifecycleCode : Lifecycle → Nat
  | .manufacture => 0 | .provisioned => 1 | .unlocked => 2

/-- Insert an image by rising handle. -/
def insertImage (m : Image) : List Image → List Image
  | [] => [m]
  | x :: xs => if m.handle < x.handle then m :: x :: xs else x :: insertImage m xs

/-- Images in force that a function may use, in ascending handle order. -/
def usableImages (s : State) (f : Nat) : List Image :=
  (s.wst.images.filter (fun m => m.inForce && !m.released && mayUse s m f true)).foldl (fun l m => insertImage m l) []

/-- The digest of a measurement block (R515). -/
def measurement (s : State) (f index : Nat) : Bytes :=
  match index with
  | 1 => Config.bootRomDigest
  | 2 => Config.sha512 (slotHeader (slotOf s s.fwu.active) ++ slotPayload (slotOf s s.fwu.active))
  | 3 => Config.sha512 (leBytes 2 s.fwu.secVer ++ leBytes 1 s.fwu.active)
  | 4 => Config.sha512 (leBytes 1 (lifecycleCode s.sec.lifecycle) ++ Config.fuseDigest)
  | 5 => Config.sha512 ((usableImages s f).flatMap (fun m => leBytes 2 m.handle ++ leBytes 1 (b2n m.confOnly) ++ leBytes 2 m.funcMask ++ m.manifest))
  | _ => Config.sha512 (leBytes 1 (lifecycleCode s.sec.lifecycle) ++ leBytes 1 s.sec.granted)

/-- GET_MEASUREMENTS (R515): index 0 asks for the number of blocks, 0xFF for all of them. -/
def execGetMeasurements (func index : Nat) (s : State) : Res :=
  unit func 16 (ok (answer func (
    if !(confOf s func).negotiated then []
    else if index = 0 then [6]
    else if index = 0xFF then [1, 2, 3, 4, 5, 6].flatMap (measurement s func)
    else if index ≤ 6 then measurement s func index
    else []) s))

/-- KEY_EXCHANGE (R514): at most two secure sessions of a function. -/
def execKeyExchange (func slot : Nat) (exchange : Bytes) (s : State) : Res :=
  unit func 16 (ok (
    let c := confOf s func
    if c.negotiated && slot == 0 && decide (c.sessions.length < 2) then
      let own := drawBytes 48 s
      drawn 48 (modConf func (fun c => { c with
        sessions := c.sessions ++ [{ id := c.nextSession, secret := Config.hkdfExpand (Config.ecdhShared own exchange) (ascii "exp master"), keyGen := 0 }],
        nextSession := c.nextSession + 1, answer := Config.ecdhPublic own }) s)
    else answer func [] s))

/-- KEY_UPDATE (R514). -/
def execKeyUpdate (func session : Nat) (s : State) : Res :=
  unit func 16 (ok (modConf func (fun c => { c with
    sessions := c.sessions.map (fun x => if x.id = session then { x with keyGen := x.keyGen + 1 } else x) }) s))

/-- HEARTBEAT (R514): the session lives on. -/
def execHeartbeat (func session : Nat) (s : State) : Res :=
  unit func 16 (ok (when (sessionHeld (confOf s func) session) (answer func []) s))

/-! ## Confidential functions (R516 to R521) -/

/-- Every ring of a function that is not DISABLED goes to ERROR. -/
def errorRings (f err : Nat) (s : State) : State :=
  (ringsOf s f).foldl (fun t r => modRing r (fun g => if g.state = .disabled then g else { g with state := .error, err := err }) t) s

/-- Every accepted command of a function is killed (it completes without an entry while its ring is in ERROR). -/
def killCommands (f : Nat) (s : State) : State :=
  ((s.hif.cmds.filter (fun c => c.func == f)).map (fun c => c.id)).foldl
    (fun t id => failCmd id { status := stAborted, result := 0 } t) s

/-- Close every session of a function. -/
def closeSessions (f : Nat) (s : State) : State :=
  (s.atn.sessions.filter (fun x => x.func == f)).foldl (fun t x => closeSession x t) s

/-- A function leaves confidential mode (R521). -/
def leaveConf (f : Nat) (s : State) : State :=
  if !(confOf s f).on then s else
  let s1 := closeSessions f (killCommands f (errorRings f 7 s))
  let s2 := zeroDev (65536 * (mmuOf s1 f).poolBase) (poolBytes s1 f) s1
  modConf f (fun c => { c with on := false, keyH2d := [], keyD2h := [], keyRingIn := [], keyRingOut := [], winSize := 0 }) s2

/-- A secure session is over; the confidential mode it carried is left. -/
def dropSession (func session : Nat) (s : State) : State :=
  let c := confOf s func
  let s1 := if c.on && c.session == session then leaveConf func s else s
  modConf func (fun c => { c with sessions := c.sessions.filter (fun x => x.id != session) }) s1

/-- END_SESSION (R521). -/
def execEndSession (func session : Nat) (s : State) : Res :=
  unit func 16 (ok (when (sessionHeld (confOf s func) session) (fun s => dispatch (settleStream (dropSession func session s))) s))
/-- SESSION_LOSS (R521). -/
def execSessionLoss (func session : Nat) (s : State) : Res :=
  unit func 16 (ok (when (sessionHeld (confOf s func) session) (fun s => dispatch (settleStream (dropSession func session s))) s))

/-- The fields of a CONF_SET are valid (R516). -/
def confRequestOk (r : ConfRequest) : Bool :=
  r.reservedZero && r.winVa % 0x200000 == 0 && r.winSize % 0x200000 == 0 && decide (r.winSize ≤ 64 * 2 ^ 30) &&
  decide (r.winVa + r.winSize ≤ 2 ^ 48) && (decide (r.winVa + r.winSize ≤ apertureBase) || decide (apertureEnd ≤ r.winVa)) &&
  r.hostBase % 4096 == 0 && r.tagBase % 4096 == 0

/-- CONF_SET is refused for one of R516's reasons. -/
def confRefused (s : State) (f : Nat) (r : ConfRequest) : Bool :=
  anyRingOn s f || s.atn.sessions.any (fun x => x.func == f) || s.cam.binds.any (fun b => b.func == f) || !confRequestOk r

/-- The entry counters of a function's rings start afresh with the session (R518). -/
def clearSealCounts (f : Nat) (s : State) : State := (ringsOf s f).foldl (fun t r => modRing r (fun g => { g with sealN := 0 }) t) s

/-- CONF_SET (R516, R517). -/
def execConfSet (func session : Nat) (request : ConfRequest) (s : State) : Res :=
  unit func 16 (ok (match (confOf s func).sessions.find? (fun x => x.id == session) with
    | none => s
    | some x =>
      if confRefused s func request then answer func [1] s else
      modConf func (fun c => { c with
        on := true, session := session, winVa := request.winVa, winSize := request.winSize, hostBase := request.hostBase,
        tagBase := request.tagBase, keyH2d := Config.hkdfExpand x.secret (ascii "zh h2d data"),
        keyD2h := Config.hkdfExpand x.secret (ascii "zh d2h data"), keyRingIn := Config.hkdfExpand x.secret (ascii "zh h2d ring"),
        keyRingOut := Config.hkdfExpand x.secret (ascii "zh d2h ring"), units := 0, answer := [0] }) (clearSealCounts func s)))

/-- CONF_EXIT (R521). -/
def execConfExit (func session : Nat) (s : State) : Res :=
  unit func 16 (ok (if !sessionHeld (confOf s func) session then s
    else if (confOf s func).on then answer func [0] (dispatch (settleStream (leaveConf func s)))
    else answer func [1] s))

end Sys2Proof.Machine
end

