-- ==== Sys2Proof/Machine/Gcore.lean ====
section
/-! DEFINITION. Machine/Gcore.lean: GCORE_RUN and the instructions of the general cores: the general-core rows of
06_streaming_and_fusion (R219 to R228). -/

namespace Sys2Proof.Machine
open Sys2Proof

/-! ## GCORE_RUN (R224, R225) -/

/-- One output window of the parameter block. -/
def outWindow (b : Bytes) (i : Nat) : Nat × Nat := (leAt b (40 + 16 * i) 8, leAt b (48 + 16 * i) 4)
def outWindowBad (b : Bytes) (i : Nat) : Option Nat :=
  if (outWindow b i).1 ≠ 0 ∧ ((outWindow b i).2 = 0 ∨ 2 ^ 31 < (outWindow b i).2) then some (48 + 16 * i)
  else if zeroAt b (52 + 16 * i) 4 then none else some (52 + 16 * i)

def gcoreFault (b : Bytes) : Option Nat :=
  (firstBad [(leAt b 0 8 % 4096 == 0, 0),
    (leAt b 8 4 % 4 == 0 && decide (4 ≤ leAt b 8 4) && decide (leAt b 8 4 ≤ 262144), 8),
    (leAt b 12 4 % 2 == 0 && decide (leAt b 12 4 < leAt b 8 4), 12),
    (decide (1 ≤ byteAt b 24) && decide (byteAt b 24 ≤ 48), 24), (decide (1 ≤ byteAt b 25) && decide (byteAt b 25 ≤ 4), 25),
    (decide (leAt b 26 2 ≤ 1024), 26), (decide (leAt b 28 2 ≤ 1024), 28), (zeroAt b 30 2, 30),
    (decide (leAt b 32 4 ≤ 1000000), 32), (zeroAt b 36 4, 36)]).or ((List.range 4).findSome? (outWindowBad b))

/-- Bytes of a fret's work area. -/
def workBytes (s : State) : Nat := 0x40000 * (12 - s.bow.hotBanks)

/-- Sizes beyond the work area carry the locator of `code_len` (R225; DESIGN CHOICE, log entry 17). -/
def runGcoreRun (c : Cmd) (s : State) : State :=
  let b := c.params
  if workBytes s < leAt b 8 4 + 1024 * (leAt b 26 2 + leAt b 28 2) then failCmd c.id (bad (locator 2 0 8)) s else
  match vaRead s c.func c.domain (leAt b 0 8) (leAt b 8 4) (locator 2 0 0) with
  | .error e => failCmd c.id e s
  | .ok code =>
    settleDispatch (startWork c [] 0 [{ frets := byteAt b 24, upTo := byteAt b 24 }] (modCmd c.id (fun c => { c with params := b ++ code }) s))

/-- GCORE_RUN (R225). -/
def execGcoreRun (id : Nat) (s : State) : Res := ok (runReady id 0x10 runGcoreRun s)

/-! ## Threads -/

def sameThread (t : ThreadId) (g : GThread) : Bool :=
  g.fret == t.fret && g.core == t.core && g.thread == t.thread && g.exited.isNone
def threadOf (s : State) (t : ThreadId) : Option GThread := s.gcore.threads.find? (sameThread t)
/-- A thread may issue: it waits for no ticket and no queue space (R220). -/
def threadReady (g : GThread) : Bool := g.exited.isNone && g.waiting.isNone && g.stalled.isNone
def idOf (g : GThread) : ThreadId := { fret := g.fret, core := g.core, thread := g.thread }
def modThread (t : ThreadId) (f : GThread → GThread) (s : State) : State :=
  { s with gcore := { s.gcore with threads := s.gcore.threads.map (fun g => if sameThread t g then f g else g) } }
/-- Register value; register 0 reads 0. -/
def regOf (g : GThread) (r : Nat) : Nat := g.regs.getD r 0
def setReg (t : ThreadId) (r v : Nat) (s : State) : State :=
  if r = 0 then s else modThread t (fun g => { g with regs := setAt r (v % 2 ^ 64) g.regs }) s
/-- The thread after this one is next on its core (R220). -/
def passTurn (t : ThreadId) (s : State) : State :=
  { s with gcore := { s.gcore with turn := smSet 0 (t.fret * 2 + t.core) ((t.thread + 1) % 8) s.gcore.turn } }

/-- The thread a general core issues from: the ready ones in turn. -/
def nextThread (s : State) (fret core : Nat) : Option GThread :=
  let ready := s.gcore.threads.filter (fun g => g.fret == fret && g.core == core && threadReady g)
  let turn := smGet 0 s.gcore.turn (fret * 2 + core)
  let lowest (l : List GThread) : Option GThread := l.foldl (fun b g => match b with
    | none => some g
    | some x => if g.thread < x.thread then some g else some x) none
  (lowest (ready.filter (fun g => decide (turn ≤ g.thread)))).or (lowest ready)

/-! ## Addresses of a program (R226) -/

/-- A program's failure, with the thread number in its locator (R227). -/
def threadFail (num : Nat) (e : Fail) : Fail :=
  if e.status = stTranslation then { e with result := locator 2 num 0 }
  else if e.status = stFirewall then { e with result := locator 2 num 40 }
  else e
def gcoreInternal (kind low : Nat) : Fail := { status := stInternal, result := kind * 2 ^ 28 + low % 65536 }

/-- The fret's own data area. -/
def inData (c : Cmd) (fret addr len : Nat) : Bool :=
  decide (dataBase c fret ≤ addr) && decide (addr + len ≤ dataBase c fret + 1024 * leAt c.params 26 2)
/-- The fret's own work area. -/
def inWork (s : State) (fret addr len : Nat) : Bool :=
  decide (workBase fret ≤ addr) && decide (addr + len ≤ workBase fret + workBytes s)
/-- An output window holds the bytes. -/
def inOut (c : Cmd) (addr len : Nat) : Bool :=
  (List.range 4).any (fun i => (outWindow c.params i).1 != 0 && decide ((outWindow c.params i).1 ≤ addr) &&
    decide (addr + len ≤ (outWindow c.params i).1 + (outWindow c.params i).2))

/-- Read for a program: its fret's own work area, or the function's address space. -/
def programRead (s : State) (c : Cmd) (g : GThread) (addr len : Nat) : Except Fail Bytes :=
  if inWork s g.fret addr len then .ok (readBytes s .dev addr len) else
  match vaRead s c.func c.domain addr len (locator 2 g.num 0) with
  | .error e => .error (threadFail g.num e)
  | .ok bs => .ok bs

/-- Distinct bytes that a fret has staged. -/
def stagedBytes (s : State) (fret : Nat) : Nat :=
  (((s.gcore.staged.filter (fun p => p.1 == fret)).flatMap (fun p => (List.range p.2.2.2.length).map (fun i => p.2.2.1 + i))).eraseDups).length

/-- Write for a program: its data area at once, an output window into staging space; `work` admits the whole work area
(a fret DMA destination, R223). -/
def programWrite (s : State) (c : Cmd) (g : GThread) (work : Bool) (addr : Nat) (bs : Bytes) : Except Fail State :=
  if inData c g.fret addr bs.length || (work && inWork s g.fret addr bs.length) then .ok (writeBytes .dev addr bs s)
  else if !inOut c addr bs.length then .error (fwDenied (locator 2 g.num 40))
  else match vaStage s c.func c.domain addr bs (locator 2 g.num 0) with
    | .error e => .error (threadFail g.num e)
    | .ok _ =>
      let s1 := { s with gcore := { s.gcore with staged := s.gcore.staged ++ [(g.fret, g.num, addr, bs)] } }
      if 1024 * leAt c.params 28 2 < stagedBytes s1 g.fret then .error (gcoreInternal 4 g.num) else .ok s1

/-- A program fails: nothing is committed. -/
def programFails (id : Nat) (e : Fail) (s : State) : State := settleDispatch (failCmd id e s)

/-! ## Custom instructions (R222, R223) -/

/-- Requests of a thread that have not completed. -/
def heldTickets (s : State) (t : ThreadId) : Nat :=
  (s.gcore.tickets.filter (fun k => k.fret == t.fret && k.core == t.core && k.thread == t.thread && k.ended.isNone)).length

/-- Queue the DMA request of 32 bytes at an address of the fret's SRAM: rd receives its ticket. Tickets are numbered over the
device, in the order they are issued, and a request out of its field ranges ends at once with DESCRIPTOR_INVALID (DESIGN CHOICE,
log entry 17). -/
def queueDma (t : ThreadId) (rd addr : Nat) (s : State) : State :=
  let b := readBytes s .dev addr 32
  let n := s.gcore.nextTicket
  let k : Ticket := { num := n, fret := t.fret, core := t.core, thread := t.thread, src := leAt b 0 8, dst := leAt b 8 8, len := leAt b 16 4,
                      ended := if leAt b 16 4 = 0 ∨ 2 ^ 24 < leAt b 16 4 ∨ zeroAt b 20 12 = false then some stInvalid else none }
  setReg t rd n { s with gcore := { s.gcore with tickets := s.gcore.tickets ++ [k], nextTicket := (n + 1) % 65536 } }

/-- zh.dmaq: a 17th request stalls the thread. An address outside the fret's SRAM is refused as a load under R226 is (DESIGN
CHOICE, log entry 17). -/
def zhDmaq (t : ThreadId) (g : GThread) (c : Cmd) (rd rs1 : Nat) (s : State) : State :=
  let addr := regOf g rs1
  if !(decide (fretBase t.fret ≤ addr) && decide (addr + 32 ≤ fretBase t.fret + 0x400000)) then
    programFails c.id (fwDenied (locator 2 g.num 40)) s
  else if heldTickets s t < 16 then queueDma t rd addr s
  else modThread t (fun g => { g with stalled := some (rd, addr) }) s

/-- The answer of a completed ticket goes to a register, and the ticket is gone. -/
def takeTicket (t : ThreadId) (rd n status : Nat) (s : State) : State :=
  setReg t rd status { s with gcore := { s.gcore with tickets := s.gcore.tickets.filter (fun k =>
    !(k.num == n && k.fret == t.fret && k.core == t.core && k.thread == t.thread)) } }

/-- zh.dmaw. A ticket the thread does not hold gives a free value (DESIGN CHOICE, log entry 4). -/
def zhDmaw (t : ThreadId) (g : GThread) (rd rs1 : Nat) (s : State) : State :=
  let n := regOf g rs1
  match s.gcore.tickets.find? (fun k => k.num == n && k.fret == t.fret && k.core == t.core && k.thread == t.thread) with
  | none => drawn 1 (setReg t rd (drawNat 64 s) s)
  | some k => match k.ended with
    | some st => takeTicket t rd n st s
    | none => modThread t (fun g => { g with waiting := some (n, rd) }) s

/-- zh.info. An item beyond 3 gives a free value (DESIGN CHOICE, log entry 4). -/
def zhInfo (t : ThreadId) (g : GThread) (rd rs1 : Nat) (s : State) : State :=
  match regOf g rs1 with
  | 0 => setReg t rd g.num s
  | 1 => setReg t rd g.count s
  | 2 => setReg t rd g.fret s
  | 3 => setReg t rd (nowUs s) s
  | _ => drawn 1 (setReg t rd (drawNat 64 s) s)

/-! The end of a program (R226, R227) -/

/-- A store that a fret has staged holds a byte. -/
def storeHolds (a : Nat) (p : Nat × Nat × Nat × Bytes) : Bool := decide (p.2.2.1 ≤ a) && decide (a < p.2.2.1 + p.2.2.2.length)

/-- The bytes that more than one fret has staged. -/
def sharedBytes (l : List (Nat × Nat × Nat × Bytes)) : List Nat :=
  ((l.flatMap (fun p => (List.range p.2.2.2.length).map (fun i => p.2.2.1 + i))).eraseDups).filter
    (fun a => decide (1 < (((l.filter (storeHolds a)).map (fun p => p.1)).eraseDups).length))

/-- The store of one fret that a byte staged by several takes after commit: a free choice of the frets, and of that fret its last
store (R226; DESIGN CHOICE, log entry 4). -/
def sharedStore (l : List (Nat × Nat × Nat × Bytes)) (draw a : Nat) : List (Nat × Nat × Nat × Bytes) :=
  let mine := l.filter (storeHolds a)
  let frets := (mine.map (fun p => p.1)).eraseDups
  match (mine.filter (fun p => p.1 == frets.getD (draw % max 1 frets.length) 0)).getLast? with
  | none => []
  | some p => [(p.1, p.2.1, a, [p.2.2.2.getD (a - p.2.2.1) 0])]

/-- The stores of a program in the order they are made at commit: each fret's in its order, and last the bytes that several frets
have staged. -/
def commitOrder (s : State) (l : List (Nat × Nat × Nat × Bytes)) : List (Nat × Nat × Nat × Bytes) :=
  l ++ ((sharedBytes l).mapIdx (fun k a => sharedStore l (drawNat 8 (drawn k s)) a)).flatten

/-- Where the stores of a program will land: a translation that fails names the thread of the store (R227). -/
def stageStores (s : State) (c : Cmd) : List (Nat × Nat × Nat × Bytes) → Except Fail (List Seg)
  | [] => .ok []
  | p :: l => match vaStage s c.func c.domain p.2.2.1 p.2.2.2 (locator 2 p.2.1 0) with
    | .error e => .error (threadFail p.2.1 e)
    | .ok a => match stageStores s c l with
      | .error e => .error e
      | .ok b => .ok (a ++ b)

/-- The last thread has exited: the staged stores are the command's results. -/
def programEnds (c : Cmd) (s : State) : State :=
  if threadsLeft s c.id then s else
  let frets := (s.gcore.threads.filter (fun t => t.cmd == c.id)).map (fun t => t.fret)
  let l := s.gcore.staged.filter (fun p => frets.contains p.1)
  match stageStores s c (commitOrder s l) with
  | .error e => programFails c.id e s
  | .ok segs => modCmd c.id (fun c => { c with staged := segs }) (drawn (sharedBytes l).length s)

/-- zh.exit. -/
def zhExit (t : ThreadId) (g : GThread) (c : Cmd) (rs1 : Nat) (s : State) : State :=
  if regOf g rs1 ≠ 0 then programFails c.id (gcoreInternal 1 (regOf g rs1)) s
  else programEnds c (modThread t (fun g => { g with exited := some 0 }) s)

/-- A word in the custom-0 major opcode (R222); bits [24:20], and bits [11:7] of zh.exit, name nothing and any value of them is
taken (DEDUCED, log entry 17). -/
def customOp (c : Cmd) (g : GThread) (word : Nat) (s : State) : State :=
  let rd := bf word 11 7
  let rs1 := bf word 19 15
  if bf word 6 0 ≠ 0x0B ∨ bf word 31 25 ≠ 0 then programFails c.id (gcoreInternal 2 g.num) s else
  match bf word 14 12 with
  | 0 => zhDmaq (idOf g) g c rd rs1 s
  | 1 => zhDmaw (idOf g) g rd rs1 s
  | 2 => zhInfo (idOf g) g rd rs1 s
  | 3 => zhExit (idOf g) g c rs1 s
  | _ => programFails c.id (gcoreInternal 2 g.num) s

/-! ## Instructions (R220, R226, R227) -/

/-- A thread goes on at an address. -/
def goOn (t : ThreadId) (next : Nat) (s : State) : State := modThread t (fun g => { g with pc := next }) s

def issueOp (c : Cmd) (g : GThread) (op : GOp) (s : State) : State :=
  match op with
  | .load rd addr len => match programRead s c g addr len with
    | .error e => programFails c.id e s
    | .ok bs => setReg (idOf g) rd (leNat bs) s
  | .store addr data => match programWrite s c g false addr data with
    | .error e => programFails c.id e s
    | .ok s1 => s1
  | .other rd v => setReg (idOf g) rd v s
  | .custom word => customOp c g word s
  | .illegal => programFails c.id (gcoreInternal 2 g.num) s

/-- A general core issues one instruction from the thread whose turn it is, which goes on at `next`, or past its word (R220). -/
def issueFrom (s : State) (fret core : Nat) (next : Option Nat) (op : GThread → Cmd → State → State) : State :=
  match nextThread s fret core with
  | none => s
  | some g => match cmdOf s g.cmd with
    | none => s
    | some c => op g c (goOn (idOf g) (next.getD (g.pc + 4)) (passTurn (idOf g) s))

/-- GCORE_INSTRUCTION (R220, R226, R227). -/
def execGcoreInstruction (fret core : Nat) (issue : Issue) (s : State) : Res :=
  unit fret 48 (unit core 2 (ok (issueFrom s fret core (some issue.next) (fun g c => issueOp c g issue.op))))

/-- A custom instruction of this thread issues in its turn. -/
def issueZh (s : State) (t : ThreadId) (op : GThread → Cmd → State → State) : State :=
  if (nextThread s t.fret t.core).any (sameThread t) then issueFrom s t.fret t.core none op else s

/-- ZH_DMAQ (R222). -/
def execZhDmaq (t : ThreadId) (rd rs1 : Nat) (s : State) : Res := ok (issueZh s t (fun g c => zhDmaq t g c rd rs1))

/-- ZH_DMAW (R222). -/
def execZhDmaw (t : ThreadId) (rd rs1 : Nat) (s : State) : Res := ok (issueZh s t (fun g _ => zhDmaw t g rd rs1))

/-- ZH_INFO (R222). -/
def execZhInfo (t : ThreadId) (rd rs1 : Nat) (s : State) : Res := ok (issueZh s t (fun g _ => zhInfo t g rd rs1))

/-- ZH_EXIT (R222, R227). -/
def execZhExit (t : ThreadId) (rs1 : Nat) (s : State) : Res := ok (issueZh s t (fun g c => zhExit t g c rs1))

/-! ## Fret DMA (R223, R227) -/

/-- A request that waited for queue space is queued. -/
def unstall (t : ThreadId) (s : State) : State :=
  match threadOf s t with
  | none => s
  | some g => match g.stalled with
    | none => s
    | some (rd, addr) => if heldTickets s t < 16 then queueDma t rd addr (modThread t (fun g => { g with stalled := none }) s) else s

/-- A ticket completes with a status; a thread that waits for it goes on. -/
def endTicket (k : Ticket) (status : Nat) (s : State) : State :=
  let t : ThreadId := { fret := k.fret, core := k.core, thread := k.thread }
  let s1 := { s with gcore := { s.gcore with tickets := s.gcore.tickets.map (fun x => if x = k then { x with ended := some status } else x) } }
  let s2 := match threadOf s1 t with
    | none => s1
    | some g => match g.waiting with
      | none => s1
      | some (n, rd) => if n = k.num then takeTicket t rd n status (modThread t (fun g => { g with waiting := none }) s1) else s1
  unstall t s2

/-- A write reaches into the KV aperture. -/
def touchesAperture (a n : Nat) : Bool := decide (a < apertureEnd) && decide (apertureBase < a + n)

/-- Carry out a request: the bytes move, or the ticket carries the status; a translation that fails ends the program (R227), and
so does a write into the KV aperture (07_attention_kv R256). -/
def transfer (c : Cmd) (g : GThread) (k : Ticket) (s : State) : State :=
  if touchesAperture k.dst k.len then programFails c.id (fwDenied (locator 2 g.num 40)) s else
  match programRead s c g k.src k.len with
  | .error e => if e.status = stTranslation then programFails c.id e s else endTicket k e.status s
  | .ok bs => match programWrite s c g true k.dst bs with
    | .error e => if e.status = stFirewall then endTicket k e.status s else programFails c.id e s
    | .ok s1 => endTicket k 0 s1

/-- The thread of a program that queued a request, exited or not. -/
def ticketThread (s : State) (k : Ticket) : Option GThread :=
  s.gcore.threads.find? (fun g => g.fret == k.fret && g.core == k.core && g.thread == k.thread)

/-- FRET_DMA_DONE (R223). A request still queued when its thread exits is carried out while its program has threads left, and not
after the last has exited (DESIGN CHOICE, log entry 17). -/
def execFretDmaDone (fret ticket : Nat) (s : State) : Res :=
  unit fret 48 (ok (match s.gcore.tickets.find? (fun k => k.fret == fret && k.num == ticket && k.ended.isNone) with
    | none => s
    | some k => match ticketThread s k with
      | none => s
      | some g => match cmdOf s g.cmd with
        | none => s
        | some c => if threadsLeft s c.id then transfer c g k s else s))

/-- The run-time limit of a program in µs (R224). -/
def budgetUs (c : Cmd) : Nat := if leAt c.params 32 4 = 0 then 10000 else leAt c.params 32 4

/-- A program has run for its limit. -/
def budgetOver (s : State) (c : Cmd) : Bool :=
  (runningSlices s).any (fun r => r.cmd == c.id && decide (r.start + 384000 * budgetUs c ≤ s.now))

/-- GCORE_BUDGET_EXPIRY (R227). -/
def execGcoreBudgetExpiry (id : Nat) (s : State) : Res :=
  ok (match cmdOf s id with
    | none => s
    | some c => if c.opcode = 0x10 ∧ c.phase = .running ∧ threadsLeft s id = true ∧ budgetOver s c = true then
        programFails id (gcoreInternal 3 0) s else s)

end Sys2Proof.Machine
end

