-- ==== Sys2Proof/Machine/Hints.lean ====
section
/-! DEFINITION. Machine/Hints.lean: the effective cap (14_capo_thermal_supply R446) and power hints
(06_streaming_and_fusion R243 to R245), with their rows. -/

namespace Sys2Proof.Machine
open Sys2Proof

/-! ## The effective cap (R446, R455, R461) -/

/-- C_eff in units of 0.1 W: the lowest of C, the thermal cap and the storm cap, never below 15 W. -/
def effCap (s : State) : Nat :=
  max 150 (min s.capo.cap (min (s.capo.thermalCap.getD s.capo.cap) (if s.capo.stormCap then s.capo.cap / 2 else s.capo.cap)))

/-! ## Hints -/

def hintOf (s : State) (h : Nat) : Option PowerHint := s.hints.list.find? (fun x => x.id == h)
def hintsHeld (s : State) (f : Nat) : Nat := (s.hints.list.filter (fun h => h.func == f)).length
def setHintStage (h : Nat) (g : HintStage) (s : State) : State :=
  { s with hints := { s.hints with list := s.hints.list.map (fun x => if x.id = h then { x with stage := g } else x) } }

/-- A hint raises the setpoint: it is prepared or in its phase. -/
def hintRaises (h : PowerHint) : Bool := decide (h.stage ≠ .pending)

/-- The power that a function's hints ask for: the larger of those that overlap, each clipped to the cap in force (R244). -/
def hintPower (s : State) (f : Nat) : Nat :=
  (s.hints.list.filter (fun h => h.func == f && hintRaises h)).foldl (fun a h => max a (min h.powerDw (effCap s))) 0

/-- A hint in its phase names a string, 0 naming every one: the string is ignored while it is off or quarantined, which is
asked where the ramp limit is used (R244). -/
def hintLifts (s : State) (j : Nat) : Bool :=
  s.hints.list.any (fun h => decide (h.stage = .phase) && (h.strings == 0 || bit h.strings j))

/-- The setpoint raise and the ramp limits follow the hints in force. -/
def settleHints (s : State) : State :=
  { s with
      capo := { s.capo with strings := s.capo.strings.mapIdx (fun j x => { x with rampLifted := hintLifts s j }) }
      capoMore := { s.capoMore with raisedDw := sumBy (hintPower s) (List.range 16) } }

/-- POWER_HINT: nothing in it can fail. -/
def runPowerHint (c : Cmd) (s : State) : State := stageDone c.id [] 0 s

/-- POWER_HINT (R243, R245). -/
def execPowerHint (id : Nat) (s : State) : Res := ok (runReady id 0x32 runPowerHint s)

/-- At commit the hint is recorded, or its result is 1 when its function already holds 8 (R245). -/
def commitPowerHint (c : Cmd) (s : State) : State :=
  if 8 ≤ hintsHeld s c.func then modCmd c.id (fun c => { c with result := 1 }) s else
  { s with hints := { s.hints with next := s.hints.next + 1, list := s.hints.list ++
      [{ id := s.hints.next, func := c.func, start := c.accepted, leadUs := leAt c.desc 16 4, durationUs := leAt c.desc 20 4,
         powerDw := leAt c.desc 24 2, strings := bf (byteAt c.desc 26) 3 0 }] } }

/-- POWER_HINT_PREPARE (R243): the setpoint is raised. -/
def execPowerHintPrepare (hint : Nat) (s : State) : Res :=
  ok (match hintOf s hint with
    | none => s
    | some h => if h.stage = .pending then settleHints (setHintStage hint .prepared s) else s)

/-- POWER_HINT_PHASE_START (R243): the ramp limit of the named strings is lifted. -/
def execPowerHintPhaseStart (hint : Nat) (s : State) : Res :=
  ok (match hintOf s hint with
    | none => s
    | some _ => settleHints (setHintStage hint .phase s))

/-- POWER_HINT_RESTORE (R243): setpoint and ramp limit return, and the hint is no longer held. -/
def execPowerHintRestore (hint : Nat) (s : State) : Res :=
  ok (match hintOf s hint with
    | none => s
    | some _ => settleHints { s with hints := { s.hints with list := s.hints.list.filter (fun x => x.id != hint) } })

end Sys2Proof.Machine
end

