-- ==== Sys2Proof/Machine/Numeric.lean ====
section
/-! DEFINITION. Machine/Numeric.lean: exact dyadic values, the floating formats and their rounding
(04_fret_arithmetic R136 to R159; IEEE 754 binary32, OCP OFP8), and the integer rounding of the image pipeline. -/

namespace Sys2Proof.Machine
open Sys2Proof

/-- A floating value: a NaN, an infinity, or (−1)^neg × man × 2^exp exactly. -/
inductive Flt where
  | nan
  | inf (neg : Bool)
  | fin (neg : Bool) (man : Nat) (exp : Int)
  deriving DecidableEq, Repr

/-- A binary format: significand bits, exponent of its smallest subnormal, exponent of its largest binade. -/
structure Fmt where
  p : Nat
  qmin : Int
  emax : Int
  deriving DecidableEq, Repr

def fp32 : Fmt := { p := 24, qmin := -149, emax := 127 }
def bf16 : Fmt := { p := 8, qmin := -133, emax := 127 }
def e4m3 : Fmt := { p := 4, qmin := -9, emax := 8 }
def e5m2 : Fmt := { p := 3, qmin := -16, emax := 15 }

def zeroF : Flt := .fin false 0 0
def oneF : Flt := .fin false 1 0
/-- A signed integer times a power of two. -/
def ofInt (x : Int) (e : Int) : Flt := .fin (decide (x < 0)) x.natAbs e

def isNeg : Flt → Bool
  | .fin n _ _ => n
  | .inf n => n
  | .nan => false
def isNan : Flt → Bool
  | .nan => true
  | _ => false
def isFinite : Flt → Bool
  | .fin _ _ _ => true
  | _ => false
def isZero : Flt → Bool
  | .fin _ 0 _ => true
  | _ => false
def negF : Flt → Flt
  | .nan => .nan
  | .inf n => .inf (!n)
  | .fin n m e => .fin (!n) m e
def absF : Flt → Flt
  | .nan => .nan
  | .inf _ => .inf false
  | .fin _ m e => .fin false m e

/-! ## Exact operations -/

/-- `m × 2^(e − f)` for f ≤ e. -/
def shiftTo (m : Nat) (e f : Int) : Nat := m * 2 ^ (e - f).toNat
def signed (n : Bool) (m : Nat) : Int := if n then -(m : Int) else (m : Int)

/-- The exact sum; opposite infinities give a NaN, an exact cancellation gives +0 (R155). -/
def addF : Flt → Flt → Flt
  | .nan, _ => .nan
  | _, .nan => .nan
  | .inf a, .inf b => if a = b then .inf a else .nan
  | .inf a, .fin _ _ _ => .inf a
  | .fin _ _ _, .inf b => .inf b
  | .fin na ma ea, .fin nb mb eb =>
    let e := min ea eb
    let x := signed na (shiftTo ma ea e) + signed nb (shiftTo mb eb e)
    if x = 0 then .fin (decide (ma = 0 ∧ mb = 0) && na && nb) 0 0 else .fin (decide (x < 0)) x.natAbs e

def subF (a b : Flt) : Flt := addF a (negF b)

/-- The exact product; infinity times zero gives a NaN. -/
def mulF : Flt → Flt → Flt
  | .nan, _ => .nan
  | _, .nan => .nan
  | .inf a, .inf b => .inf (a != b)
  | .inf a, .fin nb mb _ => if mb = 0 then .nan else .inf (a != nb)
  | .fin na ma _, .inf b => if ma = 0 then .nan else .inf (na != b)
  | .fin na ma ea, .fin nb mb eb => .fin (na != nb) (ma * mb) (ea + eb)

/-- `a < b` for values that are not NaN. -/
def ltF (a b : Flt) : Bool :=
  match a, b with
  | .nan, _ => false
  | _, .nan => false
  | .inf na, .inf nb => na && !nb
  | .inf na, .fin _ _ _ => na
  | .fin _ _ _, .inf nb => !nb
  | .fin na ma ea, .fin nb mb eb => decide (signed na (shiftTo ma ea (min ea eb)) < signed nb (shiftTo mb eb (min ea eb)))

def maxF (a b : Flt) : Flt := if isNan a || isNan b then .nan else if ltF a b then b else a
def minF (a b : Flt) : Flt := if isNan a || isNan b then .nan else if ltF b a then b else a

/-! ## Rounding -/

/-- Round `num ÷ den` to the nearest integer, ties to even. -/
def nearestEven (num den : Nat) : Nat :=
  let q := num / den
  let r := num % den
  if den < 2 * r ∨ (2 * r = den ∧ q % 2 = 1) then q + 1 else q

/-- `num ÷ den × 2^e`, as a fraction of integers in units of 2^k. -/
def inUnits (num den : Nat) (e k : Int) : Nat × Nat :=
  if k ≤ e then (num * 2 ^ (e - k).toNat, den) else (num, den * 2 ^ (k - e).toNat)

/-- The exponent of the binade of `num ÷ den × 2^e`. -/
def binade (num den : Nat) (e : Int) : Int :=
  let l : Int := (Nat.log2 num : Int) - (Nat.log2 den : Int) + e
  let u := inUnits num den e l
  if u.2 ≤ u.1 then l else l - 1

/-- Round `num ÷ den × 2^e` to a format, to nearest with ties to even; beyond the range an infinity. -/
def roundRat (f : Fmt) (neg : Bool) (num den : Nat) (e : Int) : Flt :=
  if num = 0 then .fin neg 0 0 else
  let k := max f.qmin (binade num den e - ((f.p : Int) - 1))
  let u := inUnits num den e k
  let q := nearestEven u.1 u.2
  if f.emax < binade (max 1 q) 1 k ∧ q ≠ 0 then .inf neg else .fin neg q k

/-- Round a value to a format. -/
def roundF (f : Fmt) : Flt → Flt
  | .nan => .nan
  | .inf n => .inf n
  | .fin n m e => roundRat f n m 1 e

def round32 (x : Flt) : Flt := roundF fp32 x
def add32 (a b : Flt) : Flt := round32 (addF a b)
def mul32 (a b : Flt) : Flt := round32 (mulF a b)
/-- A fused multiply-add: one rounding (R153). -/
def fma32 (a b c : Flt) : Flt := round32 (addF (mulF a b) c)

/-- Division rounded once to FP32; by zero an infinity, 0 ÷ 0 a NaN. -/
def div32 : Flt → Flt → Flt
  | .nan, _ => .nan
  | _, .nan => .nan
  | .inf _, .inf _ => .nan
  | .inf a, .fin nb _ _ => .inf (a != nb)
  | .fin na _ _, .inf b => .fin (na != b) 0 0
  | .fin na ma ea, .fin nb mb eb =>
    if mb = 0 then (if ma = 0 then .nan else .inf (na != nb)) else roundRat fp32 (na != nb) ma mb (ea - eb)

/-- To the nearest integer, ties to even. -/
def toIntEven : Flt → Int
  | .fin n m e => signed n (let u := inUnits m 1 e 0; nearestEven u.1 u.2)
  | _ => 0

/-! ## Encodings -/

/-- The bits of a rounded finite value in a format, without the sign. -/
def packFinite (f : Fmt) (q : Nat) (k : Int) : Nat :=
  if q = 0 then 0 else
  let e := max f.qmin (binade q 1 k - ((f.p : Int) - 1))
  let m := shiftTo q k e / (if k < e then 2 ^ (e - k).toNat else 1)
  if m < 2 ^ (f.p - 1) then m else (e - f.qmin + 1).toNat * 2 ^ (f.p - 1) + (m - 2 ^ (f.p - 1))

/-- The value of bits in an IEEE-shaped format of `w` exponent bits. -/
def unpackIeee (f : Fmt) (w bits : Nat) : Flt :=
  let man := bits % 2 ^ (f.p - 1)
  let ex := bits / 2 ^ (f.p - 1) % 2 ^ w
  let neg := bit bits (f.p - 1 + w)
  if ex = 2 ^ w - 1 then (if man = 0 then .inf neg else .nan)
  else if ex = 0 then .fin neg man f.qmin
  else .fin neg (man + 2 ^ (f.p - 1)) (f.qmin + (ex : Int) - 1)

def ofBits32 (v : Nat) : Flt := unpackIeee fp32 8 v
def ofBf16 (v : Nat) : Flt := unpackIeee bf16 8 v
def ofE5m2 (v : Nat) : Flt := unpackIeee e5m2 5 v
/-- OFP8 E4M3 has no infinity and one NaN. -/
def ofE4m3 (v : Nat) : Flt :=
  if v % 128 = 127 then .nan
  else if v / 8 % 16 = 0 then .fin (bit v 7) (v % 8) (-9)
  else .fin (bit v 7) (v % 8 + 8) (-9 + ((v / 8 % 16 : Nat) : Int) - 1)

/-- A rounded FP32 value's bits (R159: a NaN is 0x7FC0_0000). -/
def toBits32 (x : Flt) : Nat :=
  match x with
  | .nan => 0x7FC00000
  | .inf n => b2n n * 2 ^ 31 + 0x7F800000
  | .fin n q k => b2n n * 2 ^ 31 + packFinite fp32 q k

def toBf16 (x : Flt) : Nat :=
  match roundF bf16 x with
  | .nan => 0x7FC0
  | .inf n => 32768 * b2n n + 0x7F80
  | .fin n q k => 32768 * b2n n + packFinite bf16 q k

/-- E4M3: an infinity or a value beyond the range saturates to ±448 (R159). -/
def toE4m3 (x : Flt) : Nat :=
  match x with
  | .nan => 0x7F
  | .inf n => b2n n * 128 + 0x7E
  | .fin n m e => match roundF e4m3 (.fin n m e) with
    | .fin n q k => b2n n * 128 + min 0x7E (packFinite e4m3 q k)
    | _ => b2n n * 128 + 0x7E

/-- E5M2: a finite value beyond the range saturates to ±57,344; an infinity is kept (R159). -/
def toE5m2 (x : Flt) : Nat :=
  match x with
  | .nan => 0x7F
  | .inf n => b2n n * 128 + 0x7C
  | .fin n m e => match roundF e5m2 (.fin n m e) with
    | .fin n q k => b2n n * 128 + min 0x7B (packFinite e5m2 q k)
    | _ => b2n n * 128 + 0x7B

/-- Output conversion of R159: A × out_scale rounded once to `ofmt`. -/
def outBytes (ofmt : Nat) (x : Flt) : Bytes :=
  match ofmt with
  | 0 => leBytes 4 (toBits32 (round32 x))
  | 1 => leBytes 2 (toBf16 x)
  | 2 => leBytes 1 (toE4m3 x)
  | _ => leBytes 1 (toE5m2 x)

def outSize (ofmt : Nat) : Nat := if ofmt = 0 then 4 else if ofmt = 1 then 2 else 1

/-- `out_scale`: 0x0000_0000 selects 1.0 (R160). -/
def scaleOf (v : Nat) : Flt := if v = 0 then oneF else ofBits32 v

/-! ## Elementary functions

2^x and log2 x to far within the bounds that the chapters state; the part's own error is a free value within the bound
(DESIGN CHOICE, log entry 5). Fixed point of `fxBits` bits. -/

def fxBits : Nat := 96
def fxOne : Nat := 2 ^ fxBits
/-- ln 2 in fixed point: Σ 1 ÷ (k 2^k). -/
def fxLn2 : Nat := (List.range 100).foldl (fun a k => a + fxOne / ((k + 1) * 2 ^ (k + 1))) 0

/-- 2^f for a fraction f in fixed point, 0 ≤ f < 1: the exponential series of f ln 2. -/
def fxExp2 (f : Nat) : Nat :=
  let y := f * fxLn2 / fxOne
  ((List.range 32).foldl (fun (acc : Nat × Nat) k =>
    let t := acc.2 * y / fxOne / (k + 1)
    (acc.1 + t, t)) (fxOne, fxOne)).1

/-- Bits of log2 m for m in [1, 2) in fixed point, by repeated squaring. -/
def fxLog2 : Nat → Nat → Nat → Nat
  | 0, _, acc => acc
  | n + 1, m, acc =>
    let sq := m * m / fxOne
    if 2 * fxOne ≤ sq then fxLog2 n (sq / 2) (2 * acc + 1) else fxLog2 n sq (2 * acc)

/-- The floor of a value and its fraction in fixed point (the floor exact, the fraction to 2^−96); for huge values the floor is
cut. -/
def splitInt (x : Flt) : Int × Nat :=
  match x with
  | .fin n m e =>
    let d := 2 ^ (-(e + fxBits)).toNat
    let v : Int := signed n (if -(fxBits : Int) ≤ e then m * 2 ^ (min 4096 (e + fxBits).toNat) else if n then ceilDiv m d else m / d)
    (v / (fxOne : Int), (v % (fxOne : Int)).toNat)
  | _ => (0, 0)

/-- The FP32 value next to `x` on one side: above it (`up`) or below it; `x` itself when it is one. -/
def roundDir (up : Bool) : Flt → Flt
  | .fin n m e =>
    if m = 0 then .fin n 0 0 else
    let k := max fp32.qmin (binade m 1 e - 23)
    let u := inUnits m 1 e k
    let q := if n = up then u.1 / u.2 else ceilDiv u.1 u.2
    if fp32.emax < binade (max 1 q) 1 k ∧ q ≠ 0 then .inf n else .fin n q k
  | x => x

/-- The FP32 value next to `x` on the side of `v`. -/
def roundAt (x v : Flt) : Flt := roundDir (ltF x v) x

/-- A value of FP32 that lies off `v` by a relative error of at most 1 ÷ `den`, the part's own choice: every FP32 value within the
bound is one (DESIGN CHOICE, log entry 5). -/
def nearBy (den : Nat) (d : Int) (v : Flt) : Flt :=
  roundAt (mulF (mulF v (ofInt ((2 ^ 31 * den : Nat) + clampInt (-(2 ^ 31)) (2 ^ 31) d) (-31))) (.fin false 1 (-(Nat.log2 den : Int)))) v

/-- 2^x exactly, to fixed point; for huge and tiny x an infinity and 0. -/
def exp2Fx (x : Flt) : Flt :=
  match x with
  | .nan => .nan
  | .inf n => if n then zeroF else .inf false
  | _ =>
    let p := splitInt x
    if 200 < p.1 then .inf false else if p.1 < -200 then zeroF else .fin false (fxExp2 p.2) (p.1 - (fxBits : Int))

/-- log2(e), exact to fixed point. -/
def log2eFx : Flt := .fin false (fxOne * fxOne / fxLn2) (-(fxBits : Int))

/-- log2 of a positive finite value, exact to fixed point: (negative, magnitude in fixed point). -/
def log2Fx (m : Nat) (e : Int) : Int :=
  let b := binade m 1 e
  let u := inUnits m 1 e (b - (fxBits : Int))
  b * (fxOne : Int) + (fxLog2 fxBits (u.1 / u.2) 0 : Nat)

end Sys2Proof.Machine
end

