-- ==== Sys2Proof/Machine/Vision.lean ====
section
/-! DEFINITION. Machine/Vision.lean: the image pipeline as a function of a frame and a VISION_PASS block
(12_camera_pipeline R399, R406 to R415). A frame is a list of stored lines: one byte a pixel for RAW8, two for RAW10 to
RAW16 and for YUV422. -/

namespace Sys2Proof.Machine
open Sys2Proof

/-! ## The block (R412) -/

def vpSrc (b : Bytes) : Nat := leAt b 0 8
def vpStride (b : Bytes) : Nat := leAt b 8 4
def vpWidth (b : Bytes) : Nat := leAt b 12 2
def vpHeight (b : Bytes) : Nat := leAt b 14 2
def vpFmt (b : Bytes) : Nat := byteAt b 16
def vpBits (b : Bytes) : Nat := byteAt b 17
def vpMosaic (b : Bytes) : Nat := byteAt b 18
def vpPhaseX (b : Bytes) : Nat := bf (byteAt b 19) 1 0
def vpPhaseY (b : Bytes) : Nat := bf (byteAt b 19) 3 2
def vpFlag (b : Bytes) (i : Nat) : Bool := bit (leAt b 86 2) i
/-- A signed 16-bit entry. -/
def vpS16 (b : Bytes) (off : Nat) : Int := toSigned 16 (leAt b off 2)
/-- Output entry `k`. -/
def vpOut (b : Bytes) (k : Nat) : Bytes := slice b (256 + 64 * k) 64

def ouFmt (o : Bytes) : Nat := byteAt o 0
def ouDest (o : Bytes) : Nat := byteAt o 1
def ouX (o : Bytes) : Nat := leAt o 4 2
def ouY (o : Bytes) : Nat := leAt o 6 2
def ouCw (o : Bytes) : Nat := leAt o 8 2
def ouCh (o : Bytes) : Nat := leAt o 10 2
def ouW (o : Bytes) : Nat := leAt o 12 2
def ouH (o : Bytes) : Nat := leAt o 14 2
def ouDst (o : Bytes) : Nat := leAt o 16 8
def ouStride (o : Bytes) : Nat := leAt o 24 4
def ouPlane (o : Bytes) : Nat := leAt o 28 4
def ouScale (o : Bytes) (c : Nat) : Nat := leAt o (32 + 4 * c) 4
def ouOffset (o : Bytes) (c : Nat) : Nat := leAt o (44 + 4 * c) 4
def ouFret (o : Bytes) : Nat := byteAt o 56

/-! ## Rounding (R406) -/

/-- Round to nearest, ties upward, and clamp to 16 bits. -/
def rnd16 (num : Int) (den : Nat) : Nat := (clampInt 0 65535 ((2 * num + den) / (2 * den : Nat))).toNat

/-! ## Stages 1 and 2 -/

/-- Bytes of a stored line (R399). -/
def lineBytes (fmt width : Nat) : Nat := if fmt = 0 then width else 2 * width

/-- The raw value of a pixel, scaled to 16 bits (stage 1). -/
def rawValue (b : Bytes) (rows : List Bytes) (x y : Nat) : Nat :=
  let l := rows.getD y []
  let r := if vpFmt b = 0 then byteAt l x else leAt l (2 * x) 2
  r % 2 ^ vpBits b * 2 ^ (16 - vpBits b)

/-- YUV422: channel 0 Y, 1 U, 2 V of a pixel, stored U, Y, V, Y (R399). -/
def yuvValue (rows : List Bytes) (c x y : Nat) : Nat :=
  let l := rows.getD y []
  byteAt l (if c = 0 then 2 * x + 1 else 4 * (x / 2) + (if c = 1 then 0 else 2)) * 256

/-- The mosaic patterns: 0 R, 1 G or C, 2 B, 3 IR (R408). -/
def mosaicRows (m : Nat) : List (List Nat) :=
  match m with
  | 0 => [[0]]
  | 3 => [[0, 1], [1, 1]]
  | 4 => [[0, 1], [3, 2]]
  | 5 => [[2, 1, 0, 1], [1, 3, 1, 3], [0, 1, 2, 1], [1, 3, 1, 3]]
  | _ => [[0, 1], [1, 2]]

def patternSize (m : Nat) : Nat := if m = 0 then 1 else if m = 5 then 4 else 2

/-- The mosaic channel of a site. -/
def siteChannel (b : Bytes) (x y : Nat) : Nat :=
  let p := patternSize (vpMosaic b)
  ((mosaicRows (vpMosaic b)).getD ((y + vpPhaseY b) % p) []).getD ((x + vpPhaseX b) % p) 0

/-- A site's value after black level and gain (stage 2). -/
def siteValue (b : Bytes) (rows : List Bytes) (x y : Nat) : Nat :=
  let c := siteChannel b x y
  rnd16 (((rawValue b rows x y : Int) - leAt b (20 + 2 * c) 2) * (leAt b (28 + 2 * c) 2 : Int)) 4096

/-! ## Stage 3: reconstruction (R408, R409) -/

/-- Indices mirror without repeating the edge pixel. -/
def mirror (i : Int) (n : Nat) : Nat := if i < 0 then (-i).toNat else if i.toNat < n then i.toNat else 2 * n - 2 - i.toNat

def sv (b : Bytes) (rows : List Bytes) (x y : Int) : Int := siteValue b rows (mirror x (vpWidth b)) (mirror y (vpHeight b))
def sc (b : Bytes) (x y : Int) : Nat := siteChannel b (mirror x (vpWidth b)) (mirror y (vpHeight b))

/-- The guide channel. -/
def guideChannel (b : Bytes) : Nat := if vpMosaic b = 0 then 0 else 1

/-- The sites of channel `c` nearest to a site within its 5 × 5 window. -/
def nearSites (b : Bytes) (c x y : Nat) : List (Int × Int) :=
  let all := (List.range 25).map (fun i => (((i % 5 : Nat) : Int) - 2, ((i / 5 : Nat) : Int) - 2))
  let own := all.filter (fun d => sc b (x + d.1) (y + d.2) == c)
  let best := own.foldl (fun a d => min a (d.1 * d.1 + d.2 * d.2)) 9
  (own.filter (fun d => d.1 * d.1 + d.2 * d.2 == best)).map (fun d => ((x : Int) + d.1, (y : Int) + d.2))

/-- The edge-directed guide at a site without the guide channel, in eighths; the second terms are 0 at the IR sites of a
4 × 4 mosaic. -/
def edgeGuide (b : Bytes) (rows : List Bytes) (x y : Nat) : Nat :=
  let xi : Int := x
  let yi : Int := y
  let g := sv b rows
  let noSecond := vpMosaic b == 5 && siteChannel b x y == 3
  let sx : Int := if noSecond then 0 else 2 * g xi yi - g (xi - 2) yi - g (xi + 2) yi
  let sy : Int := if noSecond then 0 else 2 * g xi yi - g xi (yi - 2) - g xi (yi + 2)
  let dh : Int := ((g (xi - 1) yi - g (xi + 1) yi).natAbs : Int) + (sx.natAbs : Int)
  let dv : Int := ((g xi (yi - 1) - g xi (yi + 1)).natAbs : Int) + (sy.natAbs : Int)
  let eh := 4 * (g (xi - 1) yi + g (xi + 1) yi) + 2 * sx
  let ev := 4 * (g xi (yi - 1) + g xi (yi + 1)) + 2 * sy
  let t : Int := leAt b 84 2
  if dh + t < dv then rnd16 eh 8 else if dv + t < dh then rnd16 ev 8 else rnd16 (eh + ev) 16

/-- The guide at a site. -/
def guideAt (b : Bytes) (rows : List Bytes) (x y : Nat) : Nat :=
  if siteChannel b x y = guideChannel b then siteValue b rows x y
  else if vpMosaic b = 4 then
    let l := nearSites b 1 x y
    rnd16 (l.foldl (fun a p => a + sv b rows p.1 p.2) 0) (max 1 l.length)
  else edgeGuide b rows x y

/-- A channel of the mosaic that a frame does not have copies the guide; no mosaic but RGB-IR has IR. -/
def hasChannel (b : Bytes) (c : Nat) : Bool := (mosaicRows (vpMosaic b)).any (fun r => r.contains c)

/-- Plane of channel `c` after stage 3. -/
def planeAt (b : Bytes) (rows : List Bytes) (c x y : Nat) : Nat :=
  if vpMosaic b = 0 then siteValue b rows x y
  else if siteChannel b x y = c then siteValue b rows x y
  else if c = 1 then guideAt b rows x y
  else if c = 3 then
    let l := nearSites b 3 x y
    if l.isEmpty then Config.noIrPlane b x y % 65536
    else rnd16 (l.foldl (fun a p => a + sv b rows p.1 p.2) 0) l.length
  else if !hasChannel b c then guideAt b rows x y
  else
    let l := nearSites b c x y
    let diff := l.foldl (fun (a : Int) p => a + (sv b rows p.1 p.2 - guideAt b rows (mirror p.1 (vpWidth b)) (mirror p.2 (vpHeight b)))) 0
    rnd16 ((guideAt b rows x y : Int) * (max 1 l.length : Nat) + diff) (max 1 l.length)

/-! ## Stages 4 to 7 -/

/-- A row of a matrix in S4.12 times values, plus an offset. -/
def matRow (b : Bytes) (off : Nat) (vs : List Nat) (add : Int) : Nat :=
  rnd16 ((List.range vs.length).foldl (fun (a : Int) i => a + vpS16 b (off + 2 * i) * (vs.getD i 0 : Int)) 0 + 4096 * add) 4096

/-- Stages 4 and 5: IR subtraction, colour correction. -/
def colourAt (b : Bytes) (rows : List Bytes) (x y : Nat) : List Nat :=
  let ch := (List.range 4).map (fun c => planeAt b rows c x y)
  let s4 := if vpFlag b 0 then (List.range 3).map (fun r => matRow b (36 + 8 * r) ch 0) else ch.take 3
  if vpFlag b 1 then (List.range 3).map (fun r => matRow b (60 + 6 * r) s4 (vpS16 b (78 + 2 * r))) else s4

/-- Stage 6: the tone curve. -/
def toneAt (b : Bytes) (v : Nat) : Nat :=
  if !vpFlag b 2 then v else
  let p0 : Int := leAt b (88 + 2 * (v / 1024)) 2
  let p1 : Int := leAt b (88 + 2 * (v / 1024 + 1)) 2
  rnd16 (1024 * p0 + (p1 - p0) * ((v % 1024 : Nat) : Int)) 1024

/-- The planes of stage 6: R, G, B, or Y, U, V of YUV422 input. -/
def stage6 (b : Bytes) (rows : List Bytes) (c x y : Nat) : Nat :=
  if vpFmt b = 2 then yuvValue rows c x y else toneAt b ((colourAt b rows x y).getD c 0)

/-- The planes of stage 7: Y, U, V. -/
def stage7 (b : Bytes) (rows : List Bytes) (c x y : Nat) : Nat :=
  if vpFmt b = 2 then yuvValue rows c x y
  else matRow b (218 + 6 * c) ((colourAt b rows x y).map (toneAt b)) (if c = 0 then 0 else 32768)

/-- The IR plane, after stage 2. -/
def irAt (b : Bytes) (rows : List Bytes) (x y : Nat) : Nat :=
  if vpFmt b = 2 then Config.noIrPlane b x y % 65536 else planeAt b rows 3 x y

/-! ## Stage 8: scaling (R410) -/

/-- The ratio in units of 1/256 pixel. -/
def ratio (crop out : Nat) : Nat := crop * 256 / max 1 out

/-- Input positions that an output interval covers, with their covered lengths in 1/256. -/
def coverage (start len : Nat) : List (Nat × Nat) :=
  (List.range (len / 256 + 2)).filterMap (fun k =>
    let p := start / 256 + k
    let w := min (start + len) (256 * (p + 1)) - max start (256 * p)
    if w = 0 then none else some (p, w))

/-- Output pixel (i, j) of a plane. -/
def scaled (o : Bytes) (plane : Nat → Nat → Nat) (i j : Nat) : Nat :=
  let sx := ratio (ouCw o) (ouW o)
  let sy := ratio (ouCh o) (ouH o)
  let xs := coverage (ouX o * 256 + i * sx) sx
  let ys := coverage (ouY o * 256 + j * sy) sy
  let sum := ys.foldl (fun a q => a + q.2 * xs.foldl (fun a p => a + p.2 * plane p.1 q.1) 0) 0
  rnd16 sum (max 1 (sx * sy))

/-! ## Stage 9: formatting (R411) -/

/-- round(v ÷ 257). -/
def to8 (v : Nat) : Nat := (2 * v + 257) / 514

/-- Planar INT8 of a stage value: FP32 with ties to even. -/
def toInt8 (o : Bytes) (c v : Nat) : Nat :=
  let x := roundRat fp32 false v 65535 0
  let y := add32 (mul32 x (ofBits32 (ouScale o c))) (ofBits32 (ouOffset o c))
  let q := match y with
    | .inf n => if n then -128 else 127
    | _ => toIntEven y
  ofSigned 8 (clampInt (-128) 127 q)

/-- One line of an output: plane, line number in the plane, the last output line it comes from, its bytes. -/
structure OutLine where
  plane : Nat
  line : Nat
  src : Nat
  data : Bytes

/-- The lines of an output, in the planes of its format. -/
def outLines (b o : Bytes) (rows : List Bytes) : List OutLine :=
  let w := List.range (ouW o)
  let px (plane : Nat → Nat → Nat) (f : Nat → Bytes) (p j : Nat) : OutLine :=
    { plane := p, line := j, src := j, data := w.flatMap (fun i => f (scaled o plane i j)) }
  let b8 (v : Nat) : Bytes := leBytes 1 (to8 v)
  let js := List.range (ouH o)
  match ouFmt o with
  | 1 =>
    let uv (c k j : Nat) : Nat :=
      let p := stage7 b rows c
      rnd16 ((scaled o p (2 * k) (2 * j) + scaled o p (2 * k + 1) (2 * j) + scaled o p (2 * k) (2 * j + 1) + scaled o p (2 * k + 1) (2 * j + 1) : Nat)) 4
    js.map (px (stage7 b rows 0) b8 0) ++ (List.range (ouH o / 2)).map (fun j =>
      { plane := 1, line := j, src := 2 * j + 1, data := (List.range (ouW o / 2)).flatMap (fun k => b8 (uv 1 k j) ++ b8 (uv 2 k j)) })
  | 2 => (List.range 3).flatMap (fun c => js.map (px (stage6 b rows c) (fun v => leBytes 1 (toInt8 o c v)) c))
  | 3 => js.map (px (stage7 b rows 0) (fun v => leBytes 1 (toInt8 o 0 v)) 0)
  | 4 => js.map (px (irAt b rows) b8 0)
  | 5 => js.map (px (irAt b rows) (fun v => leBytes 2 v) 0)
  | _ => []

/-- Where a line lies in its output (R411). -/
def outOffset (o : Bytes) (l : OutLine) : Nat := l.plane * ouPlane o + l.line * ouStride o

/-- Lines below its own that the reconstruction of a line reads: a colour difference at a site two lines below reads the guide there, which reads
two lines more in the 4 × 4 mosaic and one less in the 2 × 2 ones (R408, R409). -/
def reachBelow (b : Bytes) : Nat := if vpFmt b = 2 ∨ vpMosaic b = 0 then 2 else if vpMosaic b = 5 then 4 else 3

/-- The input lines that an output line needs before it is computed: those it covers and those their reconstruction reads, so that it is a
function of the frame alone (R407; DEDUCED, log entry 82: the reference point "line y + 2" of R418 is a time). -/
def lineNeeds (b o : Bytes) (l : OutLine) : Nat :=
  min (vpHeight b) (ceilDiv (ouY o * 256 + (l.src + 1) * ratio (ouCh o) (ouH o)) 256 + reachBelow b)

/-- Bytes of an output's pixels. -/
def outPixels (o : Bytes) : Nat :=
  match ouFmt o with
  | 0 => 0
  | 1 => ouW o * ouH o * 3 / 2
  | 2 => ouW o * ouH o * 3
  | 5 => ouW o * ouH o * 2
  | _ => ouW o * ouH o

/-- The span of an output in its window. -/
def outSpan (o : Bytes) : Nat :=
  match ouFmt o with
  | 0 => 0
  | 1 => max (ouH o * ouStride o) (ouPlane o + ouH o / 2 * ouStride o)
  | 2 => 2 * ouPlane o + ouH o * ouStride o
  | _ => ouH o * ouStride o

/-! ## Checks (R410, R412, R413) -/

def finite32 (v : Nat) : Bool := bf v 30 23 != 255

/-- The first field of an output entry that breaks R410 or R412, or a NaN or infinity in it (R413). The sizes and the ratios of an entry of `fmt`
0, which writes nothing, are free. -/
def outFault (inline : Bool) (b o : Bytes) : Option Nat :=
  let f := ouFmt o
  let even (n : Nat) : Bool := f != 1 || n % 2 == 0
  let ratioOk (c w : Nat) : Bool := f == 0 || (decide (1 ≤ w) && decide (256 ≤ ratio c w) && decide (c * 256 ≤ 4096 * w))
  let held (n : Nat) : Bool := f == 0 || decide (1 ≤ n)
  firstBad [(decide (f ≤ 5), 0), (if inline then decide (ouDest o ≤ 2) else ouDest o == 0, 1), (zeroAt o 2 2, 2),
    (even (ouX o), 4), (even (ouY o), 6), (held (ouCw o) && decide (ouX o + ouCw o ≤ vpWidth b) && even (ouCw o), 8),
    (held (ouCh o) && decide (ouY o + ouCh o ≤ vpHeight b) && even (ouCh o), 10),
    (even (ouW o) && ratioOk (ouCw o) (ouW o), 12), (even (ouH o) && ratioOk (ouCh o) (ouH o), 14),
    (ouDest o != 0 || ouDst o % 64 == 0, 16), (ouStride o % 64 == 0, 24), (ouPlane o % 64 == 0, 28),
    (finite32 (ouScale o 0), 32), (finite32 (ouScale o 1), 36), (finite32 (ouScale o 2), 40),
    (finite32 (ouOffset o 0), 44), (finite32 (ouOffset o 1), 48), (finite32 (ouOffset o 2), 52),
    (ouDest o != 1 || decide (ouFret o < 48), 56), (zeroAt o 57 7, 57)]

/-- Every output of a block that goes to a fret's window names one of a list of frets (R412). -/
def windowsIn (fs : List Nat) (b : Bytes) : Option Nat :=
  [0, 1, 2].findSome? (fun k => if ouFmt (vpOut b k) != 0 && ouDest (vpOut b k) == 1 && !fs.contains (ouFret (vpOut b k)) then
    some (256 + 64 * k + 56) else none)

/-- The first field of a VISION_PASS block that breaks its tables. -/
def visionFault (inline : Bool) (b : Bytes) : Option Nat :=
  let dim (n lo : Nat) : Bool := decide (lo ≤ n) && decide (n ≤ 8192) && n % (if vpMosaic b = 5 then 4 else 2) == 0
  let p := patternSize (vpMosaic b)
  match firstBad [(!inline || vpSrc b == 0, 0), (!inline || vpStride b == 0, 8), (dim (vpWidth b) 32, 12), (dim (vpHeight b) 2, 14),
      (decide (vpFmt b ≤ 2), 16), (decide (8 ≤ vpBits b) && decide (vpBits b ≤ 16) && (vpFmt b == 1 || vpBits b == 8), 17),
      (decide (vpMosaic b ≤ 5) && (vpFmt b != 2 || vpMosaic b == 0), 18),
      (decide (byteAt b 19 < 16) && decide (vpPhaseX b < p) && decide (vpPhaseY b < p), 19), (decide (leAt b 86 2 < 8), 86), (zeroAt b 236 20, 236)] with
  | some o => some o
  | none => (List.range 3).findSome? (fun k => (outFault inline b (vpOut b k)).map (fun o => 256 + 64 * k + o))

/-! ## CSI-2 packings (R399; PRESUMED, log entry 18: the packings are those of MIPI CSI-2) -/

/-- Bits of a pixel of a data type on the link: RAW8 to RAW16, and YUV422 8-bit. -/
def dtypeBits (d : Nat) : Nat :=
  match d with
  | 0x2A => 8
  | 0x2B => 10
  | 0x2C => 12
  | 0x2D => 14
  | _ => 16

/-- Payload bytes of a line (R405). -/
def payloadBytes (d width : Nat) : Nat := width * dtypeBits d / 8

/-- A line as it is stored: RAW8 and YUV422 as received, RAW10 to RAW16 as 16-bit values. -/
def storedLine (d width : Nat) (p : Bytes) : Bytes :=
  let w (v : Nat) : Bytes := leBytes 2 v
  match d with
  | 0x2B => (List.range width).flatMap (fun i =>
      w (byteAt p (5 * (i / 4) + i % 4) * 4 + byteAt p (5 * (i / 4) + 4) / 4 ^ (i % 4) % 4))
  | 0x2C => (List.range width).flatMap (fun i =>
      w (byteAt p (3 * (i / 2) + i % 2) * 16 + byteAt p (3 * (i / 2) + 2) / 16 ^ (i % 2) % 16))
  | 0x2D => (List.range width).flatMap (fun i =>
      w (byteAt p (7 * (i / 4) + i % 4) * 64 + leAt p (7 * (i / 4) + 4) 3 / 64 ^ (i % 4) % 64))
  | 0x2E => (List.range width).flatMap (fun i => w (byteAt p (2 * i) * 256 + byteAt p (2 * i + 1)))
  | _ => p

/-- Bytes of a stored line of a data type. -/
def storedBytes (d width : Nat) : Nat := if d = 0x2A then width else 2 * width

end Sys2Proof.Machine
end

