-- ==== Sys2Proof/Machine/Sequencer.lean ====
section
/-! DEFINITION. Machine/Sequencer.lean: the record rings of binds and of the safety stream, the frame sequencer and its
verdicts, and the safety commands and events (15_functional_safety R464 to R497; 12_camera_pipeline R400 to R402). -/

namespace Sys2Proof.Machine
open Sys2Proof

/-! ## Record rings (R400 to R402, R486) -/

/-- Free entries of a record ring of 2^n entries. -/
def recordFree (n index head : Nat) : Nat := (head + 2 * 2 ^ n - index - 1) % 2 ^ n

/-- Write a record with its phase bit in its last byte. -/
def writeRecord (f base index : Nat) (phase : Bool) (rec : Bytes) (s : State) : State :=
  writeBytes (hostOf f) (base + rec.length * index) (rec.take (rec.length - 1) ++ leBytes 1 (b2n phase)) s

/-! ## The configuration (R489) -/

def cfIrq (b : Bytes) : Bool := bit (byteAt b 1) 0
def cfString (b : Bytes) : Nat := byteAt b 2
def cfFrets (b : Bytes) : Nat := byteAt b 3
def cfLatchN (b : Bytes) : Nat := byteAt b 4
def cfBind (b : Bytes) : Nat := byteAt b 5
def cfLog2 (b : Bytes) : Nat := byteAt b 6
def cfRing (b : Bytes) : Nat := leAt b 8 2
def cfVector (b : Bytes) : Nat := leAt b 10 2
def cfModelA (b : Bytes) : Nat := leAt b 20 2
def cfModelB (b : Bytes) : Nat := leAt b 22 2
def cfBase (b : Bytes) : Nat := leAt b 24 8
def cfKind (b : Bytes) (i : Nat) : Nat := byteAt b (64 + 16 * i)
def cfTol (b : Bytes) (i : Nat) : Nat := leAt b (64 + 16 * i + 4) 4
def cfGoldTol (b : Bytes) (i : Nat) : Nat := leAt b (64 + 16 * i + 8) 4

/-- The bind is the in-line one. -/
def Bind.inline (b : Bind) : Bool := bit (byteAt b.block 3) 0
def inlineBind (s : State) : Option Bind := s.cam.binds.find? Bind.inline
/-- A configuration is in force. -/
def safConfigured (s : State) : Bool := decide (s.saf.state ≠ .unconfigured)
/-- The in-line bind that the configuration names. -/
def safBind (s : State) : Option Bind :=
  if safConfigured s then (inlineBind s).filter (fun b => b.id == cfBind s.saf.config && b.func == s.saf.safetyFunc) else none

/-- The sequencer works on the in-line frames (R475). -/
def sequencerRuns (s : State) : Bool :=
  (decide (s.saf.state = .running) || decide (s.saf.state = .latched)) && domOn s 11 && (safBind s).isSome

/-! ## The comparator (R477) -/

/-- The pattern of an element of an invalid verdict (R480). -/
def invalidElement : Nat := 0x7FC00000
def element (v : List Nat) (i : Nat) : Nat := v.getD i invalidElement

/-- Two elements agree under a kind and a tolerance. -/
def agrees (kind tol a b : Nat) : Bool :=
  let x := ofBits32 a
  let y := ofBits32 b
  if kind = 0 then true
  else if isNan x || isNan y then false
  else if kind = 1 then !isNan (subF x y) && !ltF (ofBits32 tol) (absF (subF x y))
  else !ltF x y && !ltF y x

/-- The elements out of tolerance, one bit each; a golden check takes `gold_tol`. -/
def outOfTolerance (cfg : Bytes) (gold : Bool) (a b : List Nat) : Nat :=
  ofBits ((List.range 8).filter (fun i =>
    !agrees (cfKind cfg i) (if gold then cfGoldTol cfg i else cfTol cfg i) (element a i) (element b i)))

/-! ## Halves of the in-line windows (R415, R474, R475) -/

def releaseHalf (h : Nat) (s : State) : State := { s with cam := { s.cam with heldHalves := putBit s.cam.heldHalves h false } }

/-- Halves in which the in-line bind has a frame without its record. -/
def halvesInUse (s : State) : Nat :=
  match inlineBind s with
  | none => 0
  | some b => ofBits ((b.frame.toList ++ b.out.toList).filterMap (fun f => if f.dropped then none else some f.half))

/-- The sequencer lets every frame go: the device releases the halves itself again (R475). -/
def dropFrames (s : State) : State :=
  { s with saf := { s.saf with frames := [], jobs := [], missed := false }
           cam := { s.cam with heldHalves := s.cam.heldHalves &&& halvesInUse s } }

/-- Release a half when its record is written and no frame of the sequencer holds it. -/
def recordedHalf (h : Nat) (s : State) : State :=
  if s.saf.frames.any (fun f => !f.decided && f.half == h) then s else releaseHalf h s

/-! ## Verdicts (R476, R480, R485, R486) -/

/-- The vectors that a verdict compares. -/
def goldRefA (s : State) (f : SafFrame) : List Nat := s.saf.refsA.getD f.golden []
def goldRefB (s : State) (f : SafFrame) : List Nat := s.saf.refsB.getD f.golden []

/-- Elements out of tolerance between the channels, and of each golden check; 0 where a vector is missing. -/
def maskOf (s : State) (gold : Bool) (a b : Option (List Nat)) : Nat :=
  match a, b with
  | some x, some y => outOfTolerance s.saf.config gold x y
  | _, _ => 0
def disagreeMask (s : State) (f : SafFrame) : Nat := maskOf s false f.aFrame f.bFrame
def goldMaskA (s : State) (f : SafFrame) : Nat := maskOf s true f.aGold (some (goldRefA s f))
def goldMaskB (s : State) (f : SafFrame) : Nat := maskOf s true f.bGold (some (goldRefB s f))

/-- The conditions that fail for a frame (R476); `present` is false for a frame that is absent or was dropped. -/
def reasonsOf (s : State) (f : SafFrame) (present : Bool) : Nat :=
  b2n (present && (f.aFrame.isNone || f.aGold.isNone)) + 2 * b2n (present && (f.bFrame.isNone || f.bGold.isNone)) +
  4 * b2n (disagreeMask s f != 0) + 8 * b2n (goldMaskA s f != 0) + 16 * b2n (goldMaskB s f != 0) +
  32 * b2n (f.inputBad || !present) + 64 * b2n f.fault + 128 * b2n (decide (s.saf.state ≠ .running))

/-- The 64 bytes of a verdict record, its phase bit apart. -/
def verdictRecord (seq : Nat) (f : SafFrame) (reasons consec state : Nat) : Bytes :=
  let out := (List.range 8).flatMap (fun i => leBytes 4 (if reasons = 0 then element (f.aFrame.getD []) i else invalidElement))
  let b := leBytes 4 seq ++ leBytes 2 f.frameNo ++ leBytes 1 (if reasons = 0 then stOk else stSafety) ++ leBytes 1 reasons ++
    leBytes 8 f.endNs ++ out ++ leBytes 1 consec ++ leBytes 1 state ++ leBytes 1 f.golden ++ zeros 5
  b ++ leBytes 4 (crc32 b) ++ zeros 4

/-- Put a verdict record into the ring, or drop it when no entry is free or the function may not write (R486;
18_host_ports R561). -/
def putVerdict (rec : Bytes) (s : State) : State :=
  let c := s.saf.config
  if recordFree (cfLog2 c) s.saf.ringIndex s.saf.ringHead = 0 ∨ canMaster s s.saf.safetyFunc = false then
    { s with safMore := { s.safMore with events := s.safMore.events ||| 64 } }
  else
    let s1 := writeRecord s.saf.safetyFunc (cfBase c) s.saf.ringIndex s.saf.ringPhase rec s
    let next := (s.saf.ringIndex + 1) % 2 ^ cfLog2 c
    let s2 : State := { s1 with saf := { s1.saf with
      ringIndex := next, ringPhase := if next = 0 then !s1.saf.ringPhase else s1.saf.ringPhase } }
    if cfIrq c then raiseVector s.saf.safetyFunc (cfVector c) s2 else s2

/-- A diagnostic record (SAF_DIAG_DATA_n). -/
def diagRecord (kind mask frameNo seq : Nat) (a b : List Nat) (golden : Nat) : List Nat :=
  let words (v : List Nat) : List Nat := (List.range 4).map (fun i => element v (2 * i) + element v (2 * i + 1) * 2 ^ 32)
  (kind * 2 ^ 56 + mask * 2 ^ 48 + frameNo * 2 ^ 32 + seq) :: words a ++ words b ++ [golden]

/-- Keep a diagnostic record when a mask is not empty; four are kept. -/
def keepDiag (kind mask : Nat) (f : SafFrame) (seq : Nat) (a b : List Nat) (l : List (List Nat)) : List (List Nat) :=
  if mask = 0 then l else (diagRecord kind mask f.frameNo seq a b f.golden :: l).take 4

/-- Count a verdict and keep its diagnostic records (SAF_FRAMES, SAF_FAILS, SAF_EVENTS, SAF_DIAG). -/
def countVerdict (f : SafFrame) (reasons : Nat) (s : State) : State :=
  let sat (v : Nat) (m : Nat) : Nat := if reasons &&& m = 0 then v else satAdd 16 v 1
  let seq := s.saf.nextSeq
  let m := s.safMore
  let d1 := keepDiag 1 (disagreeMask s f) f seq (f.aFrame.getD []) (f.bFrame.getD []) m.diag
  let d2 := keepDiag 2 (goldMaskA s f) f seq (f.aGold.getD []) (goldRefA s f) d1
  let d3 := keepDiag 3 (goldMaskB s f) f seq (f.bGold.getD []) (goldRefB s f) d2
  { s with safMore :=
    { m with
      frames := wrapAdd 32 m.frames 1
      invalid := if reasons = 0 then m.invalid else wrapAdd 32 m.invalid 1
      failDisagree := sat m.failDisagree 4
      failLate := sat m.failLate 3
      failA := sat m.failA 8
      failB := sat m.failB 16
      events := m.events ||| (b2n (decide (reasons ≠ 0)) + 2 * b2n (bit reasons 2) + 4 * b2n (bit reasons 3 || bit reasons 4))
      diag := d3 } }

/-- One edge of SAFE_HB while the stream is RUNNING (R482). -/
def heartbeatEdge (s : State) : State :=
  if s.saf.state ≠ .running then s else
  { s with pins := { s.pins with safeHb := !s.pins.safeHb }
           safMore := { s.safMore with hbEdges := wrapAdd 32 s.safMore.hbEdges 1 } }

/-- Decide a verdict: count it, move the pins, latch when `consec` reaches `latch_n`, and write the record. -/
def publish (f : SafFrame) (present : Bool) (s : State) : State :=
  let reasons := reasonsOf s f present
  let consec := if reasons = 0 then 0 else min 255 (s.saf.consec + 1)
  let seq := s.saf.nextSeq
  let s1 := countVerdict f reasons s
  let s2 := { s1 with saf := { s1.saf with consec := consec, seq := seq, nextSeq := wrapAdd 32 seq 1 } }
  let s3 := if reasons = 0 then heartbeatEdge s2 else s2
  let s4 := if reasons ≠ 0 ∧ cfLatchN s.saf.config ≤ consec then latch 1 s3 else s3
  putVerdict (verdictRecord seq f reasons consec (safStateCode s4.saf.state)) s4

/-- A job of Channel A for a frame was released and has not ended. -/
def jobOpen (s : State) (f : SafFrame) (golden : Bool) : Bool := s.saf.jobs.any (fun j => j.frame == f.frameNo && j.golden == golden)

/-- The frame whose verdict is decided is kept only while a job that was released for it still runs. -/
def pruneFrames (s : State) : State :=
  { s with saf := { s.saf with frames := s.saf.frames.filter (fun f => !f.decided || jobOpen s f true || jobOpen s f false || f.bGold.isNone ||
      (f.outputs && f.bFrame.isNone)) } }

def modFrameAt (i : Nat) (g : SafFrame → SafFrame) (s : State) : State :=
  { s with saf := { s.saf with frames := modAt i g s.saf.frames } }

/-- Decide the verdict of frame `i`, and release its half (R474 steps 3 and 4). -/
def decideFrame (i : Nat) (s : State) : State :=
  match s.saf.frames[i]? with
  | none => s
  | some f => pruneFrames (publish f true (releaseHalf f.half (modFrameAt i (fun f => { f with decided := true }) s)))

/-! ## What the camera tells the sequencer (R474, R478) -/

/-- A frame starts: the golden job is released (R474 step 1). -/
def seqFrameStart (no half : Nat) (s : State) : State :=
  if !sequencerRuns s then s else
  let live := (s.saf.frames.filter (fun f => !f.decided)).length
  let f : SafFrame := { frameNo := no, startNs := nowNs s, golden := (s.saf.nextSeq + live) % max 1 s.saf.goldens.length, half := half }
  dispatch { s with saf := { s.saf with frames := s.saf.frames ++ [f], jobs := s.saf.jobs ++ [{ frame := no, golden := true }] } }

/-- The newest frame that has not ended. -/
def openFrame (s : State) : Option Nat := s.saf.frames.findIdx? (fun f => !f.ended)

/-- A frame ends; `inputBad` when its record is DAMAGED or TRUNCATED. -/
def seqFrameEnd (inputBad : Bool) (s : State) : State :=
  match openFrame s with
  | none => s
  | some i =>
    let s1 := modFrameAt i (fun f => { f with ended := true, endNs := nowNs s, inputBad := inputBad || s.saf.missed }) s
    { s1 with saf := { s1.saf with missed := false } }

/-- A dropped frame ends: an invalid verdict with reason `input` (R474). -/
def seqDropped (no : Nat) (s : State) : State :=
  if !sequencerRuns s then s else
  let s1 := publish { frameNo := no, endNs := nowNs s, golden := s.saf.nextSeq % max 1 s.saf.goldens.length } false s
  { s1 with saf := { s1.saf with missed := true } }

/-- The outputs of the frame in a half are complete: its frame jobs are released (R474 step 2). -/
def seqOutputs (half : Nat) (s : State) : State :=
  match s.saf.frames.findIdx? (fun f => f.ended && !f.outputs && f.half == half) with
  | none => s
  | some i =>
    let no := ((s.saf.frames[i]?).map (fun f => f.frameNo)).getD 0
    dispatch (modFrameAt i (fun f => { f with outputs := true })
      { s with saf := { s.saf with jobs := s.saf.jobs ++ [{ frame := no, golden := false }] } })

/-! ## Ends of the stream -/

/-- The stream leaves RUNNING without latching: pins low, its frames let go. -/
def stopStream (s : State) : State :=
  dropFrames (pinsLow { s with saf := { s.saf with state := .tested, runCmd := none } })

/-- The RUN command is killed: ABORT of its ring ends the stream (R488). -/
def safetyRunKilled (id : Nat) (s : State) : State := if s.saf.runCmd = some id then stopStream s else s

/-- The SAFETY domain leaves ON: cause 9, and the golden inputs are discarded (R481, R491). A stream that was TESTED falls
back to CONFIGURED, since no golden input is left. -/
def safetyLeavesOn (s : State) : State :=
  let s1 := dropFrames (latch 9 s)
  { s1 with saf := { s1.saf with goldens := [], refsA := [], refsB := [], modelB := none
                                 state := if s1.saf.state = .tested then .configured else s1.saf.state } }

/-- UNCONFIGURED: a reset, or the SAFETY domain OFF (R488). -/
def unconfigure (s : State) : State :=
  let s1 := dropFrames (pinsLow s)
  { s1 with saf := { s1.saf with
      state := .unconfigured, config := [], partition := [], forming := [], formCmd := none, goldens := [], refsA := [],
      refsB := [], modelB := none, runCmd := none, consec := 0 } }

/-! ## SAFETY_CONFIG CONFIGURE (R470, R471, R488, R489) -/

def finiteNonNeg (v : Nat) : Bool := decide (bf v 30 23 ≠ 255) && (!bit v 31 || v % 2 ^ 31 == 0)

/-- A tolerance entry's first field that breaks R489. -/
def tolFault (b : Bytes) (i : Nat) : Option Nat :=
  let k := cfKind b i
  let want := if i < 2 then k == 1 else if i < 4 then k == 2 else decide (k ≤ 2)
  let o := 64 + 16 * i
  let zeroClass (v : Nat) : Bool := k != 2 || v % 2 ^ 31 == 0
  firstBad [(want, o), (zeroAt b (o + 1) 3, o + 1), (finiteNonNeg (cfTol b i) && zeroClass (cfTol b i), o + 4),
    (finiteNonNeg (cfGoldTol b i) && zeroClass (cfGoldTol b i), o + 8), (zeroAt b (o + 12) 4, o + 12)]

/-- MSI-X vectors of a function (18_host_ports R558). -/
def vectorsOf (f : Nat) : Nat := if isPhys f then 2048 else 256

/-- The first field of a SAFETY_CONFIG block that breaks R489: its ring is one of the function's range. -/
def safetyConfigFault (s : State) (f : Nat) (b : Bytes) : Option Nat :=
  if byteAt b 0 ≠ 1 then firstBad [(decide (2 ≤ byteAt b 0) && decide (byteAt b 0 ≤ 4), 0), (zeroAt b 1 7, 1)] else
  match firstBad [(decide (byteAt b 1 < 2), 1), (decide (cfString b < 4), 2), (decide (2 ≤ cfFrets b) && decide (cfFrets b ≤ 12), 3),
      (decide (1 ≤ cfLatchN b) && decide (cfLatchN b ≤ 15), 4), (decide (cfBind b < 32), 5),
      (decide (2 ≤ cfLog2 b) && decide (cfLog2 b ≤ 12), 6), (zeroAt b 7 1, 7), (inRange s f (cfRing b), 8), (decide (cfVector b < vectorsOf f), 10),
      (decide (1000 ≤ leAt b 12 4) && decide (leAt b 12 4 ≤ 100000), 12),
      (decide (1000 ≤ leAt b 16 4) && decide (leAt b 16 4 ≤ 200000), 16), (cfBase b % 4096 == 0, 24), (zeroAt b 32 32, 32)] with
  | some o => some o
  | none => (List.range 8).findSome? (tolFault b)

/-- Run a ready SAFETY_CONFIG of an `op`. -/
def runConfig (id op : Nat) (f : Cmd → State → State) (s : State) : State :=
  runReady id 0x70 (fun c s => if byteAt c.params 0 = op then f c s else s) s

/-- What the stream's state forbids: DESCRIPTOR_INVALID, which names the opcode. -/
def wrongState : Fail := bad (locator 0 0 0)

/-- The ring IDs that binds and the safety stream hold (R402, R486). -/
def heldRings (s : State) : List Nat :=
  s.cam.binds.map (fun b => leAt b.block 8 2) ++ (if safConfigured s then [cfRing s.saf.config] else [])

/-- The safety host has placed every tensor of a model SRAM_HOT or DDR_RESIDENT (R471). -/
def placedForSafety (c : Cmd) (m : Image) : Bool :=
  match (boundPlace c m.handle).entries with
  | none => false
  | some es => (infoOf m).tensors.all (fun t => (homeIn es t).hint == 1 || (homeIn es t).hint == 2)

/-- The safety image of a kind that a command bound for a handle, if the safety host may use it (05_command_rings R211). -/
def safetyImage (s : State) (c : Cmd) (handle kind : Nat) : Option Image :=
  (imageVersion s handle (boundPlace c handle).version).filter (fun m => (infoOf m).kind == kind && mayUse s m c.func true)

/-- The states in which CONFIGURE and GOLDEN_SET are accepted (R488, R491). -/
def safIdle (s : State) : Bool := [SafState.unconfigured, .configured, .tested].contains s.saf.state

/-- How CONFIGURE fails. -/
def configureFail (s : State) (c : Cmd) : Option Fail :=
  let b := c.params
  let at_ (o : Nat) : Nat := locator 2 0 o
  let inState := safIdle s
  let named := match inlineBind s with
    | none => false
    | some x => x.id == cfBind b && x.func == c.func
  let own := safConfigured s && cfRing b == cfRing s.saf.config
  let ringOk := inRange s c.func (cfRing b) && decide ((ringOf s (cfRing b)).state = .disabled) &&
    (own || !(heldRings s).contains (cfRing b))
  let a := safetyImage s c (cfModelA b) 1
  let k := safetyImage s c (cfModelB b) 2
  firstFail [(inState, wrongState), (a.isSome, fwDenied (at_ 20)), (k.isSome, fwDenied (at_ 22)), (named, bad (at_ 5)), (ringOk, bad (at_ 8)),
    (match k with | none => true | some m => decide (m.len ≤ 6 * 2 ^ 20), bad (at_ 22)),
    (match a with | none => true | some m => placedForSafety c m, bad (at_ 20)),
    (decide ((partitionFrets s (cfString b) (cfFrets b)).length = cfFrets b), bad (at_ 3)),
    ((match inlineBind s with
      | none => true
      | some x => (windowsIn (partitionFrets s (cfString b) (cfFrets b)) x.pipe).isNone), bad (at_ 5))]

/-- Hot entries of functions other than `f` in the banks of a string's frets. -/
def evictForeign (f j : Nat) (s : State) : State :=
  ((s.bow.hot.filter (fun h => decide (h.func ≠ f) && decide (0 < h.banks.getD j 0))).map (fun h => h.id)).foldl (fun t e => evictHot e t) s

/-- Slices of other domains run on frets that the partition takes. -/
def foreignRuns (s : State) (fs : List Nat) : Bool :=
  fs.any (fun i => (fretOf s i).slots.any (fun r => match cmdOf s r.cmd with
    | none => false
    | some c => !c.safety))

def runConfigure (c : Cmd) (s : State) : State :=
  match configureFail s c with
  | some e => failCmd c.id e s
  | none =>
    let fs := partitionFrets s (cfString c.params) (cfFrets c.params)
    let s1 := evictForeign c.func (cfString c.params)
      { s with saf := { s.saf with forming := fs, formCmd := some c.id } }
    let s2 := modCmd c.id (fun c => { c with phase := .running }) s1
    if foreignRuns s2 fs then s2 else stageDone c.id [] 0 s2

/-- SAFETY_CONFIGURE. -/
def execSafetyConfigure (id : Nat) (s : State) : Res := ok (runConfig id 1 runConfigure s)

/-- CONFIGURE completes: the partition stands, `model_b` is loaded, and the references are discarded (R488, R491). -/
def commitSafetyConfigure (c : Cmd) (s : State) : State :=
  let s1 : State := { s with saf := { s.saf with
    state := .configured, config := c.params, partition := s.saf.forming, partString := cfString c.params, forming := [],
    formCmd := none, refsA := [], refsB := [], ringIndex := 0, ringHead := 0, ringPhase := true,
    modelB := (safetyImage s c (cfModelB c.params) 2).map (fun m => (m.handle, m.version)) } }
  modRing (cfRing c.params) (fun g => { g with err := 0, doorbell := 0 }) s1

/-- A CONFIGURE that does not commit gives the frets back. -/
def dropForming (id : Nat) (s : State) : State :=
  if s.saf.formCmd = some id then { s with saf := { s.saf with forming := [], formCmd := none } } else s

/-- PARTITION_FORMED: the last slice of another domain on the chosen frets has ended (R470). -/
def execPartitionFormed (s : State) : Res :=
  ok (match s.saf.formCmd with
    | none => s
    | some id => when (!foreignRuns s s.saf.forming) (stageDone id [] 0) s)

/-! ## RUN, STOP, CLEAR (R488) -/

def runSafetyRun (c : Cmd) (s : State) : State :=
  if s.saf.state ≠ .tested ∨ s.saf.goldens = [] then failCmd c.id wrongState s else
  let s1 := modCmd c.id (fun c => { c with phase := .running }) s
  { s1 with
    saf := { s1.saf with
      state := .running, runCmd := some c.id, nextSeq := 0, consec := 0, frames := [], missed := false }
    pins := { s1.pins with safeErrN := true, safeHb := false } }

/-- SAFETY_RUN. -/
def execSafetyRun (id : Nat) (s : State) : Res := ok (runConfig id 2 runSafetyRun s)

/-- STOP ends the RUN with OK, and completes after it. -/
def runSafetyStop (c : Cmd) (s : State) : State :=
  if s.saf.state ≠ .running then failCmd c.id wrongState s else
  match s.saf.runCmd with
  | none => failCmd c.id wrongState s
  | some r => modCmd c.id (fun c => { c with aux := [r] }) (stageDone c.id [] 0 (stopStream (stageDone r [] 0 s)))

/-- SAFETY_STOP. -/
def execSafetyStop (id : Nat) (s : State) : Res := ok (runConfig id 3 runSafetyStop s)

def runSafetyClear (c : Cmd) (s : State) : State :=
  if s.saf.state ≠ .latched then failCmd c.id wrongState s
  else stageDone c.id [] 0 (dropFrames { s with saf := { s.saf with state := .configured, refsA := [], refsB := [] } })

/-- SAFETY_CLEAR. -/
def execSafetyClear (id : Nat) (s : State) : Res := ok (runConfig id 4 runSafetyClear s)

/-! ## SAFETY_GOLDEN_SET (R490, R491) -/

def goldenSetFault (b : Bytes) : Option Nat :=
  firstBad [(decide (1 ≤ byteAt b 0) && decide (byteAt b 0 ≤ 16), 0), (zeroAt b 1 7, 1)]

/-- Bytes of the first output of a destination of the in-line bind. -/
def inlineInput (s : State) (dest : Nat) : Nat :=
  match inlineBind s with
  | none => 0
  | some b => match ((List.range 3).map (vpOut b.pipe)).find? (fun o => ouFmt o != 0 && ouDest o == dest) with
    | none => 0
    | some o => outSpan o

/-- Copy the golden inputs that a table names. -/
def readGoldens (s : State) (c : Cmd) : List Nat → Except Fail (List (Bytes × Bytes))
  | [] => .ok []
  | i :: l =>
    match vaRead s c.func c.domain (leAt c.params 8 8 + 16 * i) 16 (locator 2 0 8) with
    | .error e => .error e
    | .ok t => match vaRead s c.func c.domain (leAt t 0 8) (inlineInput s 1) (locator 2 i 0),
        vaRead s c.func c.domain (leAt t 8 8) (inlineInput s 2) (locator 2 i 8) with
      | .ok a, .ok b => match readGoldens s c l with
        | .error e => .error e
        | .ok gs => .ok ((a, b) :: gs)
      | .error e, _ => .error e
      | _, .error e => .error e

def runGoldenSet (c : Cmd) (s : State) : State :=
  if !safIdle s then failCmd c.id wrongState s
  else if (inlineBind s).isNone then failCmd c.id (bad (locator 2 0 8)) s
  else match readGoldens s c (List.range (byteAt c.params 0)) with
    | .error e => failCmd c.id e s
    | .ok _ => stageDone c.id [] 0 s

/-- SAFETY_GOLDEN_SET. -/
def execSafetyGoldenSet (id : Nat) (s : State) : Res := ok (runReady id 0x71 runGoldenSet s)

/-- It completes: the inputs stand, the references are discarded. -/
def commitGoldenSet (c : Cmd) (s : State) : Except Fail State :=
  match readGoldens s c (List.range (byteAt c.params 0)) with
  | .error e => .error e
  | .ok gs => .ok { s with saf := { s.saf with
      goldens := gs, refsA := [], refsB := [], state := if s.saf.state = .tested then .configured else s.saf.state } }

/-! ## SAFETY_SELFTEST (R492) -/

/-- The two runs of every golden input agree under `gold_tol`. -/
def runsAgree (s : State) (a b : List (List Nat)) : Bool :=
  (List.range s.saf.goldens.length).all (fun i => outOfTolerance s.saf.config true (a.getD i []) (b.getD i []) == 0)

/-- The first failing test. -/
def selftestFailure (s : State) (run : SelftestRun) : Option Nat :=
  match run.failed with
  | some b => if b < 7 then some b else some 7
  | none => if s.saf.goldens.isEmpty || !runsAgree s run.firstA run.secondA || !runsAgree s run.firstB run.secondB then some 7 else none

def runSelftest (run : SelftestRun) (c : Cmd) (s : State) : State :=
  if s.saf.state ≠ .configured then failCmd c.id wrongState s else
  match selftestFailure s run with
  | some b => failCmd c.id { status := stSafety, result := 2 ^ b } s
  | none => stageDone c.id [] 0 { s with saf := { s.saf with refsA := run.firstA, refsB := run.firstB } }

/-- SAFETY_SELFTEST. -/
def execSafetySelftest (id : Nat) (run : SelftestRun) (s : State) : Res := ok (runReady id 0x72 (runSelftest run) s)

/-- It completes with OK: TESTED. -/
def commitSelftest (s : State) : State := { s with saf := { s.saf with state := if s.saf.state = .configured then .tested else s.saf.state } }

/-! ## Jobs, deadlines and absent frames (R474 to R479) -/

/-- A job of a frame runs on its channel: on Channel A, on a fret of the partition. -/
def jobRuns (s : State) (job : SafetyJob) (f : SafFrame) : Bool :=
  if job.keaster then (if job.golden then f.bGold.isNone else f.outputs && f.bFrame.isNone)
  else s.saf.jobs.any (fun j => j.frame == f.frameNo && j.golden == job.golden && j.fret.isSome)

/-- The frame that a job which ends belongs to: the newest golden job, the oldest frame job, still running on its channel
(R472). -/
def jobFrame (s : State) (job : SafetyJob) : Option Nat :=
  let runs (f : SafFrame) : Bool := jobRuns s job f
  let l := (List.range s.saf.frames.length).filter (fun i => match s.saf.frames[i]? with
    | none => false
    | some f => runs f)
  if job.golden then l.getLast? else l.head?

def setJob (job : SafetyJob) (v : List Nat) (f : SafFrame) : SafFrame :=
  match job.keaster, job.golden with
  | false, false => { f with aFrame := some v }
  | true, false => { f with bFrame := some v }
  | false, true => { f with aGold := some v }
  | true, true => { f with bGold := some v }

/-- A job of Channel A ends: its fret falls free. -/
def endJob (no : Nat) (job : SafetyJob) (s : State) : State :=
  if job.keaster then s else
    { s with saf := { s.saf with jobs := s.saf.jobs.filter (fun j => !(j.frame == no && j.golden == job.golden)) } }

def allEnded (f : SafFrame) : Bool := f.ended && f.aFrame.isSome && f.bFrame.isSome && f.aGold.isSome && f.bGold.isSome

/-- SAFETY_JOB_END. -/
def execSafetyJobEnd (job : SafetyJob) (vector : List Nat) (s : State) : Res :=
  ok (match jobFrame s job with
    | none => s
    | some i =>
      let no := ((s.saf.frames[i]?).map (fun f => f.frameNo)).getD 0
      let s1 := endJob no job (modFrameAt i (setJob job vector) s)
      settleDispatch (match s1.saf.frames[i]? with
      | none => s1
      | some f => if allEnded f && !f.decided then decideFrame i s1 else pruneFrames s1))

/-- FRAME_DEADLINE_EXPIRY: the deadline of the oldest frame that has ended and has no verdict. -/
def execFrameDeadlineExpiry (s : State) : Res :=
  ok (match s.saf.frames.findIdx? (fun f => f.ended && !f.decided) with
    | none => s
    | some i => decideFrame i s)

/-- ABSENT_FRAME_TIMEOUT (R478). -/
def execAbsentFrameTimeout (s : State) : Res := ok (seqDropped 0 s)

/-! ## Faults of the island (R468, R481) -/

/-- LOCKSTEP_MISMATCH. -/
def execLockstepMismatch (pair : Nat) (s : State) : Res := unit pair 2 (ok (latch 2 s))

/-- ISLAND_SRAM_DOUBLE_ERROR. -/
def execIslandSramDoubleError (addr : Nat) (s : State) : Res := unit addr 0x800000 (ok (latch 3 s))

/-- KEASTER_PARITY_ERROR. -/
def execKeasterParityError (s : State) : Res := ok (latch 4 s)

end Sys2Proof.Machine
end

