-- ==== Sys2Proof/Machine/Camera.lean ====
section
/-! DEFINITION. Machine/Camera.lean: binds, frames, the in-line path and memory passes of the image pipeline
(12_camera_pipeline R394 to R420). -/

namespace Sys2Proof.Machine
open Sys2Proof

/-! ## A bind's block (R397) -/

def cbPort (b : Bytes) : Nat := byteAt b 0
def cbVc (b : Bytes) : Nat := byteAt b 1
def cbDtype (b : Bytes) : Nat := byteAt b 2
def cbEmbedded (b : Bytes) : Bool := bit (byteAt b 3) 1
def cbIrq (b : Bytes) : Bool := bit (byteAt b 3) 2
def cbWidth (b : Bytes) : Nat := leAt b 4 2
def cbHeight (b : Bytes) : Nat := leAt b 6 2
def cbRing (b : Bytes) : Nat := leAt b 8 2
def cbVector (b : Bytes) : Nat := leAt b 10 2
def cbLog2 (b : Bytes) : Nat := byteAt b 12
def cbEmbLines (b : Bytes) : Nat := byteAt b 13
def cbRecBase (b : Bytes) : Nat := leAt b 16 8
def cbBufBase (b : Bytes) : Nat := leAt b 24 8
def cbSlotStride (b : Bytes) : Nat := leAt b 32 4
def cbStride (b : Bytes) : Nat := leAt b 36 4
def cbPipe (b : Bytes) : Nat := leAt b 40 8

/-- The first field of a CAMERA_BIND block that breaks R397. -/
def cameraBindFault (s : State) (f : Nat) (b : Bytes) : Option Nat :=
  let inl := bit (byteAt b 3) 0
  let dim (n lo : Nat) : Bool := n % 2 == 0 && decide (lo ≤ n) && decide (n ≤ 8192)
  firstBad [(decide (cbPort b < 8), 0), (decide (cbVc b < 16), 1), ([0x2A, 0x2B, 0x2C, 0x2D, 0x2E, 0x1E].contains (cbDtype b), 2),
    (decide (byteAt b 3 < 8), 3), (dim (cbWidth b) 32, 4), (dim (cbHeight b) 2, 6), (inRange s f (cbRing b), 8), (decide (cbVector b < vectorsOf f), 10),
    (decide (2 ≤ cbLog2 b) && decide (cbLog2 b ≤ 12), 12),
    (decide (cbEmbLines b ≤ 16) && (cbEmbedded b || cbEmbLines b == 0), 13), (zeroAt b 14 2, 14), (cbRecBase b % 4096 == 0, 16),
    (if inl then cbBufBase b == 0 else cbBufBase b % 4096 == 0, 24),
    (if inl then cbSlotStride b == 0
      else cbSlotStride b % 4096 == 0 && decide (cbStride b * (cbHeight b + cbEmbLines b) ≤ cbSlotStride b), 32),
    (if inl then cbStride b == 0 else cbStride b % 64 == 0 && decide (storedBytes (cbDtype b) (cbWidth b) ≤ cbStride b), 36),
    (if inl then cbPipe b % 64 == 0 else cbPipe b == 0, 40), (leAt b 48 4 == (if inl then 448 else 0), 48), (zeroAt b 52 12, 52)]

/-! ## State of the ports and the counters -/

def camPort (s : State) (p : Nat) : CamPort := s.cam.ports.getD p {}
def modCamPort (p : Nat) (g : CamPort → CamPort) (s : State) : State :=
  { s with cam := { s.cam with ports := modAt p g s.cam.ports } }
/-- Set status bits of a port. -/
def camStatus (p bits : Nat) (s : State) : State := modCamPort p (fun x => { x with status := x.status ||| bits }) s
def modVc (p v : Nat) (g : VcCount → VcCount) (s : State) : State :=
  { s with cam := { s.cam with vcs := smMod {} (p * 16 + v) g s.cam.vcs } }
def modBind (id : Nat) (g : Bind → Bind) (s : State) : State :=
  { s with cam := { s.cam with binds := s.cam.binds.map (fun b => if b.id = id then g b else b) } }
def bindOf (s : State) (id : Nat) : Option Bind := s.cam.binds.find? (fun b => b.id == id)

/-- The receiver takes data: the port is enabled, CAMERA is ON, and above 1,500 Mbit/s the deskew is done (R395, R398). -/
def listening (s : State) (p : Nat) : Bool := (camPort s p).enable && domOn s 4
def deskewed (x : CamPort) : Bool := decide (x.rate ≤ 1500) || (x.deskew && x.deskewDone)

/-- A packet arrives at a port: without its deskew the port only counts SoT errors. -/
def receive (p : Nat) (f : State → State) (s : State) : State :=
  if !listening s p then s
  else if deskewed (camPort s p) then f s
  else camStatus p 1 s

/-- Binds of a channel of a port. -/
def bindsOn (s : State) (p v : Nat) : List Bind := s.cam.binds.filter (fun b => cbPort b.block == p && cbVc b.block == v)

/-! ## Memory of a bind -/

/-- Write through the bind's function, as the image pipeline (00_scope R14: ID 36); an access that fails is recorded and
writes nothing. -/
def bindWrite (b : Bind) (va : Nat) (data : Bytes) (s : State) : State :=
  match vaStage s b.func 36 va data 0 with
  | .error e => recordFail b.func (cbRing b.block) e s
  | .ok l => commitSegs l s

/-- Line `y` of the slot that the bind's write index names (R399). -/
def slotLine (b : Bind) (y : Nat) : Nat := cbBufBase b.block + b.index * cbSlotStride b.block + y * cbStride b.block

/-! ## The end of a bind (R402, R403) -/

/-- Release a bind: its frame in progress is discarded; release of the in-line bind is cause 8 of the safety stream. -/
def releaseBind (b : Bind) (s : State) : State :=
  let s1 := if b.inline then dropFrames (if (safBind s).isSome then latch 8 s else s) else s
  { s1 with cam :=
    { s1.cam with
      binds := s1.cam.binds.filter (fun x => decide (x.id ≠ b.id))
      heldHalves := if b.inline then 0 else s1.cam.heldHalves } }

/-- The record write of a bind ends in an error (R402). -/
def bindWriteError (b : Bind) (s : State) : State := releaseBind b (modRing (cbRing b.block) (fun g => { g with err := 3 }) s)

/-! ## Frame records (R401) -/

def frameRecord (b : Bind) (f : Frame) : Bytes :=
  let flags := b2n f.damaged + 2 * b2n f.truncated + 4 * b2n (decide (0 < f.embLines))
  leBytes 2 f.no ++ leBytes 1 flags ++ leBytes 1 (cbVc b.block + 16 * cbPort b.block) ++ leBytes 2 f.received ++ leBytes 2 b.dropped ++
    leBytes 8 f.start ++ leBytes 8 f.endNs ++ leBytes 2 f.crcErrs ++ leBytes 1 b.id ++ zeros 5

/-- Write a frame's record. -/
def recordFrame (b : Bind) (f : Frame) (s : State) : State :=
  if !canMaster s b.func then bindWriteError b s else
  let next := (b.index + 1) % 2 ^ cbLog2 b.block
  let s1 := modBind b.id (fun x => { x with index := next, phase := if next = 0 then !x.phase else x.phase, dropped := 0 })
    (writeRecord b.func (cbRecBase b.block) b.index b.phase (frameRecord b f) s)
  if cbIrq b.block then raiseVector b.func (cbVector b.block) s1 else s1

/-! ## The in-line path (R415, R416) -/

/-- Write lines of an output: into the fret window, the island's buffer, or device virtual memory. -/
def writeInline (b : Bind) (half : Nat) (o : Bytes) (s : State) (l : OutLine) : State :=
  let at_ := ouDst o + outOffset o l
  let moved := at_ + half * (4096 * ceilDiv (outSpan o) 4096)
  match ouDest o with
  | 1 => writeBytes .dev (workBase (ouFret o) + moved) l.data s
  | 2 => { s with safMore := { s.safMore with island := cellsWrite moved l.data s.safMore.island } }
  | _ => bindWrite b at_ l.data s

/-- Lines of an output that become complete as the processed lines go from `lo` to `hi`. -/
def linesBetween (b o : Bytes) (rows : List Bytes) (lo hi : Nat) : List OutLine :=
  (outLines b o rows).filter (fun l => decide (lo < lineNeeds b o l) && decide (lineNeeds b o l ≤ hi))

/-- Process the lines `lo` to `hi` of a frame of the in-line bind. -/
def processLines (b : Bind) (f : Frame) (hi : Nat) (s : State) : State :=
  let outs := (List.range 3).map (vpOut b.pipe)
  let s1 := outs.foldl (fun t o => (linesBetween b.pipe o f.raw f.processed hi).foldl (writeInline b f.half o) t) s
  { s1 with cam := { s1.cam with pixels := s1.cam.pixels + (hi - f.processed) * cbWidth b.block } }

/-- The outputs of the frame that has ended are complete: its jobs are released, its record is written. -/
def completeInline (b : Bind) (f : Frame) (s : State) : State :=
  let s1 := modBind b.id (fun x => { x with out := none }) (processLines b f (vpHeight b.pipe) s)
  recordedHalf f.half (recordFrame b f (seqOutputs f.half s1))

/-! ## Frames (R400, R401, R405) -/

/-- Count a frame's marks (CAM_VC_COUNT). -/
def countFrame (b : Bind) (f : Frame) (s : State) : State :=
  modVc (cbPort b.block) (cbVc b.block) (fun v =>
    { v with
      damaged := if f.damaged then satAdd 16 v.damaged 1 else v.damaged
      truncated := if f.truncated then satAdd 16 v.truncated 1 else v.truncated }) s

/-- End a bind's running frame: `cut` when it ends TRUNCATED. Missing lines are zeros. -/
def endFrame (cut : Bool) (b : Bind) (s : State) : State :=
  match b.frame with
  | none => s
  | some f0 =>
    let s0 := modBind b.id (fun x => { x with frame := none }) s
    if f0.dropped then (if b.inline then seqDropped f0.no s0 else s0) else
    let missing := cbHeight b.block - f0.lines
    let f := { f0 with damaged := f0.damaged || (!cut && decide (0 < missing)), truncated := f0.truncated || cut, endNs := nowNs s }
    let s1 := countFrame b f s0
    let line := storedBytes (cbDtype b.block) (cbWidth b.block)
    if b.inline then
      let g := { f with raw := f.raw ++ List.replicate missing (zeros line) }
      seqFrameEnd (f.damaged || f.truncated) (modBind b.id (fun x => { x with out := some g }) s1)
    else
      recordFrame b f ((List.range missing).foldl (fun t i => bindWrite b (slotLine b (f0.lines + i)) (zeros line) t) s1)

/-- End the running frames of a list of binds. -/
def endFrames (cut : Bool) (ids : List Nat) (s : State) : State :=
  ids.foldl (fun t id => match bindOf t id with
    | none => t
    | some b => endFrame cut b t) s

/-- Begin a frame of a bind: dropped when no entry or no half is free. -/
def beginFrame (no : Nat) (b : Bind) (s : State) : State :=
  let full := recordFree (cbLog2 b.block) b.index b.head == 0
  if b.inline then
    let half := s.cam.inlineK % 2
    let held := bit s.cam.heldHalves half
    let drop := full || held
    let s1 := { s with cam :=
      { s.cam with
        inlineK := s.cam.inlineK + 1
        inlineDrops := if held then satAdd 16 s.cam.inlineDrops 1 else s.cam.inlineDrops
        heldHalves := putBit s.cam.heldHalves half true
        inlineFrames := if drop then s.cam.inlineFrames
          else (nowNs s, cbWidth b.block * cbHeight b.block) ::
            s.cam.inlineFrames.filter (fun p => decide (nowNs s < p.1 + 1000000000)) } }
    let s2 := if drop && !held then releaseHalf half s1 else s1
    let s3 := modBind b.id (fun x => { x with
      frame := some { no := no, start := nowNs s, dropped := drop, half := half }
      dropped := if drop then satAdd 16 x.dropped 1 else x.dropped }) s2
    if drop then s3 else seqFrameStart no half s3
  else
    modBind b.id (fun x => { x with
      frame := some { no := no, start := nowNs s, dropped := full }
      dropped := if full then satAdd 16 x.dropped 1 else x.dropped }) s

/-- The outputs of an earlier in-line frame are complete before the next begins. -/
def settleInline (id : Nat) (s : State) : State :=
  match bindOf s id with
  | none => s
  | some b => match b.out with
    | none => s
    | some f => completeInline b f s

/-- A frame start for one bind: a running frame ends as for a timeout (R405). -/
def startFrame (p no : Nat) (s : State) (id : Nat) : State :=
  match bindOf s id with
  | none => s
  | some b =>
    let s1 := if b.frame.isSome then endFrame true b (camStatus p 2 s) else s
    let s2 := settleInline id s1
    match bindOf s2 id with
    | none => s2
    | some b2 => beginFrame no b2 s2

/-- Lanes of a port. -/
def laneCount (x : CamPort) : Nat := if x.lanes = 0 then 1 else if x.lanes = 1 then 2 else 4

/-- CSI_FRAME_START. -/
def execCsiFrameStart (port vc frameNo : Nat) (s : State) : Res :=
  unit port 8 (ok (receive port (fun s =>
    ((bindsOn s port vc).map (fun b => b.id)).foldl (startFrame port (frameNo % 65536))
      (modCamPort port (fun x => { x with hsActive := true, lanesOk := 2 ^ laneCount x - 1 }) s)) s))

/-- CSI_FRAME_END: with no running frame it only counts in `sync_err`. -/
def execCsiFrameEnd (port vc _frameNo : Nat) (s : State) : Res :=
  unit port 8 (ok (receive port (fun s =>
    let l := (bindsOn s port vc).filter (fun b => b.frame.isSome)
    let s1 := modCamPort port (fun x => { x with hsActive := false }) s
    if l.isEmpty then camStatus port 2 s1 else endFrames false (l.map (fun b => b.id)) s1) s))

/-- FRAME_END_TIMEOUT. -/
def execFrameEndTimeout (bind : Nat) (s : State) : Res :=
  unit bind 32 (ok (match bindOf s bind with
    | none => s
    | some b => if b.frame.isSome then endFrame true b (camStatus (cbPort b.block) 2 s) else s))

/-! ## Lines (R399, R405) -/

/-- Count a payload CRC mismatch of a channel. -/
def countCrc (p : Nat) (l : LinePacket) (s : State) : State :=
  if l.crcError then modVc p l.vc (fun v => { v with crc := wrapAdd 32 v.crc 1 }) s else s

/-- A line of embedded data: cut to a stored line, beyond `emb_lines` discarded; its errors mark the frame like an image line's. -/
def embeddedLine (l : LinePacket) (s : State) (b : Bind) : State :=
  match b.frame with
  | none => s
  | some f =>
    let kept := !(b.inline || f.dropped || decide (cbEmbLines b.block ≤ f.embLines))
    let g := { f with
      damaged := f.damaged || l.crcError || l.fifoOverflow
      crcErrs := if l.crcError then satAdd 16 f.crcErrs 1 else f.crcErrs
      embLines := f.embLines + b2n kept }
    let s1 := modBind b.id (fun x => { x with frame := some g }) s
    if kept then bindWrite b (slotLine b (cbHeight b.block + f.embLines)) (l.payload.take (cbStride b.block)) s1 else s1

/-- A line of embedded data for the binds of a channel that take it: its errors are counted once. -/
def embeddedLines (p : Nat) (l : LinePacket) (es : List Bind) (s : State) : State :=
  es.foldl (embeddedLine l) (camStatus p (32 * b2n l.fifoOverflow) (if es.any (fun b => b.frame.isSome) then countCrc p l s else s))

/-- An image line of a bind. -/
def imageLine (l : LinePacket) (s : State) (b : Bind) : State :=
  match b.frame with
  | none => s
  | some f =>
    let p := cbPort b.block
    let want := payloadBytes (cbDtype b.block) (cbWidth b.block)
    let long := decide (cbHeight b.block ≤ f.lines)
    let right := l.payload.length == want && !l.fifoOverflow
    let s1 := countCrc p l s
    let s2 := camStatus p (8 * b2n (!right && !l.fifoOverflow) + 32 * b2n l.fifoOverflow) s1
    let stored := storedLine (cbDtype b.block) (cbWidth b.block) (padTo want l.payload)
    let g := { f with
      damaged := f.damaged || l.crcError || !right || long
      crcErrs := if l.crcError then satAdd 16 f.crcErrs 1 else f.crcErrs
      received := if right then f.received + 1 else f.received
      lines := if long then f.lines else f.lines + 1
      raw := if b.inline && !long && !f.dropped then f.raw ++ [stored] else f.raw }
    let s3 := modBind b.id (fun x => { x with frame := some g }) s2
    if b.inline || long || f.dropped then s3 else bindWrite b (slotLine b f.lines) stored s3

/-- Mark the running frames that a lost line may belong to DAMAGED: those of its channel that take its data type. -/
def damageFrames (p : Nat) (l : LinePacket) (s : State) : State :=
  { s with cam := { s.cam with binds := s.cam.binds.map (fun b =>
      if cbPort b.block = p ∧ cbVc b.block = l.vc ∧ (cbDtype b.block = l.dtype ∨ (l.dtype = 0x12 ∧ cbEmbedded b.block = true)) then
        { b with frame := b.frame.map (fun f => { f with damaged := true }) } else b) } }

/-- CSI_LINE_PACKET. -/
def linePacket (port : Nat) (l : LinePacket) (s : State) : State :=
  if l.hdrUncorrectable then
    damageFrames port l (modCamPort port (fun x => { x with hdrUncorrected := satAdd 32 x.hdrUncorrected 1, status := x.status ||| 4 }) s)
  else
    let s1 := if l.hdrCorrected then modCamPort port (fun x => { x with hdrCorrected := satAdd 32 x.hdrCorrected 1 }) s else s
    let on := bindsOn s1 port l.vc
    if l.dtype = 0x12 then
      let es := on.filter (fun b => cbEmbedded b.block)
      if es.isEmpty then camStatus port 16 s1 else embeddedLines port l es s1
    else
      match on.find? (fun b => cbDtype b.block == l.dtype) with
      | none => camStatus port 16 s1
      | some b => imageLine l s1 b

def execCsiLinePacket (port : Nat) (line : LinePacket) (s : State) : Res :=
  unit port 8 (ok (receive port (linePacket port line) s))

/-- CSI_DESKEW (R395). -/
def execCsiDeskew (port : Nat) (s : State) : Res :=
  unit port 8 (ok (when (listening s port && (camPort s port).deskew) (modCamPort port (fun x => { x with deskewDone := true })) s))

/-- SOT_ERROR. -/
def execSotError (port lane : Nat) (s : State) : Res :=
  unit port 8 (unit lane 4 (ok (when (listening s port)
    (modCamPort port (fun x => { x with status := x.status ||| 1, lanesOk := putBit x.lanesOk lane false })) s)))

/-- The CAMERA domain leaves ON: every frame in progress ends TRUNCATED, and the safety stream latches (R404;
15_functional_safety R481 cause 8). -/
def cameraLeavesOn (s : State) : State :=
  let s1 := endFrames true (s.cam.binds.map (fun b => b.id)) s
  let s2 := if (safBind s1).isSome then latch 8 s1 else s1
  { s2 with cam := { s2.cam with ports := s2.cam.ports.map (fun x => { x with hsActive := false, deskewDone := false, lanesOk := 0 }) } }

/-! ## CAMERA_BIND, CAMERA_UNBIND (R398, R403) -/

/-- How a bind fails, or the pipeline block it names. A window's fret lies in the safety partition; before one stands, CONFIGURE checks it
(R412; DEDUCED, log entry 82: CONFIGURE names a bind that exists). -/
def bindCheck (s : State) (c : Cmd) : Except Fail Bytes :=
  let b := c.params
  let inl := bit (byteAt b 3) 0
  let at_ (o : Nat) : Nat := locator 2 0 o
  match firstFail [(bit s.cam.portOwner (cbPort b) == (portOf c.func == 1), fwDenied (at_ 0)),
      (!inl || (s.cam.inlineEn && s.cam.inlineFunc == c.func), fwDenied (at_ 3)),
      (inRange s c.func (cbRing b) && decide ((ringOf s (cbRing b)).state = .disabled) && !(heldRings s).contains (cbRing b), bad (at_ 8)),
      (!(bindsOn s (cbPort b) (cbVc b)).any (fun x => cbDtype x.block == cbDtype b), bad (at_ 2)),
      (decide (s.cam.binds.length < 32), bad (at_ 0)), (!inl || (inlineBind s).isNone, bad (at_ 3))] with
  | some e => .error e
  | none =>
    if !inl then .ok [] else
    match vaRead s c.func c.domain (cbPipe b) 448 (at_ 40) with
    | .error e => .error e
    | .ok p => match visionFault true p with
      | some o => .error (bad (at_ o))
      | none => match if safConfigured s then windowsIn s.saf.partition p else none with
        | some o => .error (bad (at_ o))
        | none => .ok p

def runCameraBind (c : Cmd) (s : State) : State :=
  match bindCheck s c with
  | .error e => failCmd c.id e s
  | .ok _ => stageDone c.id [] 0 s

/-- CAMERA_BIND. -/
def execCameraBind (id : Nat) (s : State) : Res := ok (runReady id 0x50 runCameraBind s)

/-- The lowest bind ID that is free. -/
def freeBind (s : State) : Nat := ((List.range 32).find? (fun i => (bindOf s i).isNone)).getD 0

/-- The bind stands from the completion on; its ID is the result. -/
def commitCameraBind (c : Cmd) (s : State) : Except Fail State :=
  match bindCheck s c with
  | .error e => .error e
  | .ok p =>
    let id := freeBind s
    let b : Bind := { id := id, func := c.func, block := c.params, pipe := p }
    let s1 := modRing (cbRing c.params) (fun g => { g with err := 0, doorbell := 0 })
      (modCmd c.id (fun c => { c with result := id }) { s with cam := { s.cam with binds := s.cam.binds ++ [b] } })
    .ok (if b.inline then { s1 with cam := { s1.cam with inlineK := 0, heldHalves := 0 } } else s1)

def cameraUnbindFault (b : Bytes) : Option Nat := firstBad [(zeroAt b 1 7, 1)]

def runCameraUnbind (c : Cmd) (s : State) : State :=
  match bindOf s (byteAt c.params 0) with
  | none => failCmd c.id (bad (locator 2 0 0)) s
  | some b => if b.func = c.func then stageDone c.id [] 0 s else failCmd c.id (fwDenied (locator 2 0 0)) s

/-- CAMERA_UNBIND. -/
def execCameraUnbind (id : Nat) (s : State) : Res := ok (runReady id 0x51 runCameraUnbind s)

/-- The bind is released with its frame in progress. -/
def commitCameraUnbind (c : Cmd) (s : State) : Except Fail State :=
  match bindOf s (byteAt c.params 0) with
  | none => .error (bad (locator 2 0 0))
  | some b => .ok (releaseBind b s)

/-- Release the binds of a list of functions (R403). -/
def releaseBinds (fs : List Nat) (s : State) : State :=
  (s.cam.binds.filter (fun b => fs.contains b.func)).foldl (fun t b => releaseBind b t) s

/-! ## Doorbells of record rings (R400, R402, R486) -/

/-- The ring and the index of an aligned 8-byte doorbell write (05_command_rings R174). -/
def doorbellOf (s : State) (func offset width value : Nat) : Option (Nat × Nat) :=
  let r := (hifFunc s func).base + offset / 8
  if width = 8 ∧ offset % 8 = 0 ∧ offset < 0x20000 ∧ func < 16 ∧ inRange s func r = true then some (r, value % 2 ^ 32) else none

/-- The last value written to a doorbell. -/
def noteDoorbell (r i : Nat) (s : State) : State := modRing r (fun g => { g with doorbell := i }) s

/-- FRAME_RING_DOORBELL. -/
def execFrameRingDoorbell (func offset width value : Nat) (s : State) : Res :=
  ok (match doorbellOf s func offset width value with
    | none => s
    | some (r, i) => match s.cam.binds.find? (fun b => b.func == func && cbRing b.block == r) with
      | none => s
      | some b =>
        if 2 ^ cbLog2 b.block ≤ i then modRing r (fun g => { g with err := 1 }) (noteDoorbell r i s)
        else modBind b.id (fun x => { x with head := i }) (noteDoorbell r i s))

/-- VERDICT_RING_DOORBELL. -/
def execVerdictRingDoorbell (func offset width value : Nat) (s : State) : Res :=
  ok (match doorbellOf s func offset width value with
    | none => s
    | some (r, i) =>
      if !safConfigured s || func ≠ s.saf.safetyFunc || r ≠ cfRing s.saf.config then s
      else if 2 ^ cfLog2 s.saf.config ≤ i then modRing r (fun g => { g with err := 1 }) (noteDoorbell r i s)
      else noteDoorbell r i { s with saf := { s.saf with ringHead := i } })

/-! ## Memory passes (R412 to R418) -/

/-- The rows of a pass's source frame. -/
def readRows (s : State) (c : Cmd) : Nat → Except Fail (List Bytes)
  | 0 => .ok []
  | y + 1 =>
    let b := c.params
    match readRows s c y with
    | .error e => .error e
    | .ok l => match vaRead s c.func c.domain (vpSrc b + y * vpStride b) (lineBytes (vpFmt b) (vpWidth b)) (locator 2 0 0) with
      | .error e => .error e
      | .ok r => .ok (l ++ [r])

/-- Stage the lines of an output. -/
def stageLines (s : State) (c : Cmd) (o : Bytes) (off : Nat) : List OutLine → Except Fail (List Seg)
  | [] => .ok []
  | l :: ls => match vaStage s c.func c.domain (ouDst o + outOffset o l) l.data (locator 2 0 off) with
    | .error e => .error e
    | .ok a => match stageLines s c o off ls with
      | .error e => .error e
      | .ok rest => .ok (a ++ rest)

/-- Stage the outputs of a pass. -/
def stageOutputs (s : State) (c : Cmd) (rows : List Bytes) : List Nat → Except Fail (List Seg)
  | [] => .ok []
  | k :: ks =>
    let o := vpOut c.params k
    match stageLines s c o (256 + 64 * k + 16) (outLines c.params o rows) with
    | .error e => .error e
    | .ok a => match stageOutputs s c rows ks with
      | .error e => .error e
      | .ok rest => .ok (a ++ rest)

def runVisionPass (c : Cmd) (s : State) : State :=
  if 64 * 2 ^ 20 < sumBy (fun k => outPixels (vpOut c.params k)) [0, 1, 2] then failCmd c.id (bad (locator 2 0 256)) s
  else modCmd c.id (fun c => { c with phase := .running }) { s with cam := { s.cam with queue := s.cam.queue ++ [c.id] } }

/-- VISION_PASS: it queues for the memory context (R417). -/
def execVisionPass (id : Nat) (s : State) : Res := ok (runReady id 0x18 runVisionPass s)

/-- A command ended: it leaves the queue of the memory context. -/
def leaveQueue (id : Nat) (s : State) : State := { s with cam := { s.cam with queue := s.cam.queue.filter (fun i => decide (i ≠ id)) } }

/-- The next pass: highest priority, then acceptance. One that has been aborted is none. -/
def nextMemoryPass (s : State) : Option Cmd :=
  ((s.cam.queue.filterMap (cmdOf s)).filter (fun c => decide (c.phase = .running))).foldl (fun best c => match best with
    | none => some c
    | some b => if b.prio < c.prio ∨ (b.prio = c.prio ∧ c.id < b.id) then some c else some b) none

/-- MEMORY_PASS_START. -/
def execMemoryPassStart (s : State) : Res :=
  ok (if s.cam.running.isSome || !domOn s 4 then s else
    match nextMemoryPass s with
    | none => s
    | some c =>
      let s1 := leaveQueue c.id s
      match readRows s1 c (vpHeight c.params) with
      | .error e => failCmd c.id e s1
      | .ok _ => { s1 with cam := { s1.cam with running := some (c.id, 0) } })

/-- The last line of a pass: its outputs are staged. -/
def finishPass (c : Cmd) (s : State) : State :=
  let s1 := { s with cam := { s.cam with running := none } }
  match readRows s1 c (vpHeight c.params) with
  | .error e => failCmd c.id e s1
  | .ok rows => match stageOutputs s1 c rows [0, 1, 2] with
    | .error e => failCmd c.id e s1
    | .ok l => stageDone c.id l 0 { s1 with cam := { s1.cam with passes := wrapAdd 32 s1.cam.passes 1 } }

/-- A line of the running memory pass; a pass whose command is gone ends at this boundary (R417). -/
def memoryLine (s : State) : State :=
  match s.cam.running with
  | none => s
  | some (id, n) => match cmdOf s id with
    | none => { s with cam := { s.cam with running := none } }
    | some c =>
      if c.phase ≠ .running then { s with cam := { s.cam with running := none } } else
      let s1 := { s with cam := { s.cam with running := some (id, n + 1), pixels := s.cam.pixels + vpWidth c.params } }
      if vpHeight c.params ≤ n + 1 then finishPass c s1 else s1

/-- The in-line frame that has a complete line waiting: the one that has ended before the one that runs. -/
def inlineWaiting (s : State) : Option (Bind × Frame × Bool) :=
  match inlineBind s with
  | none => none
  | some b =>
    let waits (f : Frame) : Bool := !f.dropped && decide (f.processed < f.raw.length)
    match b.out.filter waits with
    | some f => some (b, f, true)
    | none => (b.frame.filter waits).map (fun f => (b, f, false))

/-- The pipeline has its domain: CAMERA is ON, or finishes what it holds (R417; 13_power_domains R435). -/
def pipelineRuns (s : State) : Bool := domOn s 4 || decide (domSt s 4 = .leaving)

/-- PIPELINE_LINE_BOUNDARY. -/
def execPipelineLineBoundary (s : State) : Res :=
  ok (if !pipelineRuns s then s else match inlineWaiting s with
    | none => memoryLine s
    | some (b, f, ended) =>
      let g := { f with processed := f.processed + 1 }
      modBind b.id (fun x => if ended then { x with out := some g } else { x with frame := some g })
        (processLines b f (f.processed + 1) s))

/-- INLINE_OUTPUTS_COMPLETE. -/
def execInlineOutputsComplete (s : State) : Res :=
  ok (match inlineBind s with
    | none => s
    | some b => settleInline b.id s)

end Sys2Proof.Machine
end

