-- ==== Sys2Proof/Machine/Domains.lean ====
section
/-! DEFINITION. Machine/Domains.lean: power domains: their prerequisites, targets and demands, the depth of AUTO
domains, the start of a bring-up and of a power-down (13_power_domains R421 to R442; 21_package_electrical R599). -/

namespace Sys2Proof.Machine
open Sys2Proof

/-! ## The table of domains (R421, R434, R599) -/

/-- Domains that a domain's ON requires. -/
def requires (d : Nat) : List Nat :=
  match d with
  | 1 => [0]
  | 2 => [0, 1]
  | 3 => [0, 1, 2]
  | 4 => [0, 1]
  | 7 => [0, 1]
  | 8 => [0, 1]
  | 9 => [0, 1]
  | 10 => [0, 1]
  | _ => []

/-- Power enables of a domain, in their order. -/
def enablesOf (d : Nat) : List Nat :=
  match d with
  | 0 => [2, 1]
  | 2 => [4, 5]
  | 3 => [6, 7]
  | 4 => [10]
  | 5 => [8]
  | 6 => [9]
  | 7 => [0, 1]
  | 8 => [0, 1]
  | 9 => [0, 1]
  | 10 => [0, 1]
  | 11 => [3]
  | _ => []

/-- Maxima of a bring-up in µs: regulator, clock, memory, logic, total. -/
structure BringTimes where
  reg : Nat
  clk : Nat
  mem : Nat
  logic : Nat
  total : Nat
  deriving DecidableEq, Repr

def bt (reg clk mem logic total : Nat) : BringTimes := { reg := reg, clk := clk, mem := mem, logic := logic, total := total }

/-- Bring-up from OFF; DDR counts its saved-training row while values are stored (R438). -/
def fromOff (trained : Bool) (d : Nat) : BringTimes :=
  match d with
  | 0 => bt 1000 100 100 118800 120000
  | 1 => bt 20 2 8 20 50
  | 2 => if trained then bt 2000 100 36900 1000 40000 else bt 2000 100 396900 1000 400000
  | 3 => bt 1000 100 18900 60000 80000
  | 4 => bt 500 2 10 88 600
  | 5 => bt 500 100 10 90 700
  | 6 => bt 500 100 10 90 700
  | 11 => bt 1000 100 400 500 2000
  | 12 => bt 0 0 0 0 0
  | _ => bt 25 2 20 13 60

/-- Bring-up from RETENTION; `reg` selects register mode of a STRING. -/
def fromRetention (reg : Bool) (d : Nat) : BringTimes :=
  match d with
  | 0 => bt 20 100 300 80 500
  | 1 => bt 20 2 8 15 45
  | 2 => bt 0 100 1400 500 2000
  | 3 => bt 0 100 2400 500 3000
  | 4 => bt 20 2 10 18 50
  | 5 => bt 20 50 10 20 100
  | 6 => bt 20 50 10 20 100
  | 11 => bt 20 100 300 180 600
  | 12 => bt 0 0 0 0 0
  | _ => if reg then bt 25 2 20 13 60 else bt 25 2 33 20 80

/-! ## What DDR5 holds (R439) -/

def ddrHeld (s : State) : Bool :=
  !s.atn.sessions.isEmpty || !s.atn.prefixes.isEmpty || !s.stream.copies.isEmpty || !s.bow.hot.isEmpty || s.stream.mig.enable

/-! ## Depth (R438) -/

/-- The low state that a target names: 0 OFF, 1 RETENTION, 2 ON; an AUTO domain takes its depth, DDR not OFF while it
holds something (R439). -/
def lowCode (s : State) (d : Nat) : Nat :=
  match (combined s d).code with
  | 1 => 2
  | 2 => 1
  | 3 => 0
  | _ => if d = 2 ∧ (domainOf s d).depth = 0 ∧ ddrHeld s = true then 1 else (domainOf s d).depth

/-- FLASH at rest in RETENTION, or going there, keeps DDR from OFF (R423). -/
def flashKeepsDdr (s : State) : Bool :=
  let x := domainOf s 3
  decide (x.state = .retention) || (decide (x.state ≠ .off) && lowCode s 3 == 1)

/-- The low state of a domain. -/
def lowState (s : State) (d : Nat) : Nat :=
  let l := lowCode s d
  if d = 2 ∧ l = 0 ∧ flashKeepsDdr s = true then 1 else l

/-- Depths of all domains while they are being chosen, with those that are AUTO. -/
abbrev Depths := List Nat

/-- Bring-up times at a depth; DDR that holds something comes up from RETENTION, not from OFF (R439). -/
def depthTimes (s : State) (ds : Depths) (d : Nat) : BringTimes :=
  if ds.getD d 2 = 0 ∧ ¬ (d = 2 ∧ isAuto s 2 = true ∧ ddrHeld s = true) then fromOff s.pwr.trainValid d
  else fromRetention ((combined s d).ret == 1) d

/-- The depth that PEG_DEPTH shows: the low state of an AUTO domain, 2 of every other one (R438, R439). -/
def shownDepth (s : State) (d : Nat) : Nat := if isAuto s d then lowCode s d else 2

/-- One round of R423 over depths: a domain that stays ON keeps its prerequisites ON, FLASH in RETENTION keeps DDR. -/
def fixOnce (s : State) (ds : Depths) : Depths :=
  let up := ds.mapIdx (fun d x => if isAuto s d ∧ (List.range 13).any (fun e => ds.getD e 0 == 2 && (requires e).contains d) then 2 else x)
  if isAuto s 2 ∧ up.getD 2 2 = 0 ∧ up.getD 3 2 = 1 then setAt 2 1 up else up

def fixDepths (s : State) (ds : Depths) : Depths := (List.range 4).foldl (fun l _ => fixOnce s l) ds

/-- The first step: the deepest state whose bring-up stays within the tolerance. -/
def firstDepths (s : State) : Depths :=
  fixDepths s ((List.range 13).map (fun d =>
    let t := combined s d
    if t.code ≠ 4 then lowCode s d
    else if (fromOff s.pwr.trainValid d).total ≤ 1000 * t.tol then 0
    else if (fromRetention (t.ret == 1) d).total ≤ 1000 * t.tol then 1 else 2))

/-- path(d) in µs; `fuel` bounds the chain of prerequisites. A domain that stays ON has path 0. -/
def pathUs (s : State) (ds : Depths) : Nat → Nat → Nat
  | 0, _ => 0
  | fuel + 1, d =>
    if ds.getD d 2 = 2 then 0 else
    let t := depthTimes s ds d
    max (t.reg + t.clk) ((requires d).foldl (fun a e => max a (pathUs s ds fuel e)) 0) + t.mem + t.logic

/-- The domain of longest path in a list, the first on a tie. -/
def longest (s : State) (ds : Depths) : List Nat → Option Nat
  | [] => none
  | d :: l => match longest s ds l with
    | none => some d
    | some e => if pathUs s ds 5 d < pathUs s ds 5 e then some e else some d

/-- The critical path from a domain down. -/
def chainOf (s : State) (ds : Depths) : Nat → Nat → List Nat
  | 0, _ => []
  | fuel + 1, d =>
    let t := depthTimes s ds d
    d :: (match longest s ds (requires d) with
      | none => []
      | some e => if ds.getD d 2 ≠ 2 ∧ t.reg + t.clk < pathUs s ds 5 e then chainOf s ds fuel e else [])

/-! A plan's figures (11_listening_wake R383): its domains, tolerance, tail and verifier, by offset in its block. -/

def planTolMs (b : Bytes) : Nat := leAt b 6 2
def planDomains (b : Bytes) : Nat := bf (leAt b 8 2) 10 0
def planVerifier (b : Bytes) : Nat := leAt b 10 2
def planTailMs (b : Bytes) : Nat := leAt b 16 2

/-- The closure of a plan's domains under R423. -/
def planClosure (b : Bytes) : List Nat :=
  (List.range 11).filter (fun d => bit (planDomains b) d || (maskBits 11 (planDomains b)).any (fun e => (requires e).contains d))

/-- need(p) in units of 0.1 ms. -/
def planNeed (s : State) (ds : Depths) (b : Bytes) : Nat :=
  let top := (planClosure b).foldl (fun a d => max a (pathUs s ds 5 d)) 0
  top + 1000 + (if planVerifier b ≠ 0 then 1000 * planTailMs b + 50400 else 0)

/-- A plan is late by this many µs. -/
def planLate (s : State) (ds : Depths) (b : Bytes) : Nat := planNeed s ds b - 1000 * planTolMs b

/-- Plans that are not DISABLED, with their blocks. -/
def enabledPlans (s : State) : List (Nat × Bytes) :=
  (List.range 8).filterMap (fun n => match s.drone.plans[n]? with
    | none => none
    | some p => if p.state = .disabled then none else some (n, p.block))

/-- The latest plan not yet marked. -/
def latestPlan (s : State) (ds : Depths) (unmet : Nat) : Option (Nat × Bytes) :=
  ((enabledPlans s).filter (fun p => !bit unmet p.1 && decide (0 < planLate s ds p.2))).foldl (fun best p => match best with
    | none => some p
    | some q => if planLate s ds q.2 < planLate s ds p.2 then some p else some q) none

/-- The domain to make shallower for a plan. -/
def domainToRaise (s : State) (ds : Depths) (b : Bytes) : Option Nat :=
  match longest s ds (planClosure b) with
  | none => none
  | some top =>
    ((chainOf s ds 5 top).filter (fun d => isAuto s d && ds.getD d 2 != 2)).foldl (fun best d => match best with
      | none => some d
      | some e => if (depthTimes s ds e).total < (depthTimes s ds d).total then some d else some e) none

/-- The loop of R438; `fuel` bounds its rounds: each marks a plan or raises a domain. -/
def depthLoop (s : State) : Nat → Depths → Nat → Depths × Nat
  | 0, ds, u => (ds, u)
  | fuel + 1, ds, u => match latestPlan s ds u with
    | none => (ds, u)
    | some (n, b) => match domainToRaise s ds b with
      | none => depthLoop s fuel ds (putBit u n true)
      | some d => depthLoop s fuel (fixDepths s (setAt d (ds.getD d 0 + 1) ds)) u

/-- Choose the depths anew (R438). -/
def chooseDepths (s : State) : State :=
  let r := depthLoop s 40 (firstDepths s) 0
  { s with pwr := { s.pwr with
      domains := s.pwr.domains.mapIdx (fun d x => { x with depth := if isAuto s d then r.1.getD d 2 else 2 })
      tolUnmet := r.2
      events := if r.2 = 0 then s.pwr.events else s.pwr.events ||| 8 } }

/-! ## Demand and wanted status (R431, R432) -/

/-- Domains that some accepted command or existing bind needs. -/
def neededDomains (s : State) : List Nat :=
  let strings := if s.hif.cmds.any (fun c => needsStrings c.opcode) then [7, 8, 9, 10] else []
  let binds := if s.cam.binds.isEmpty then [] else [2, 4]
  let installs := if s.wst.installs.any (fun i => i.state == .open) then [2, 3] else []
  (s.hif.cmds.flatMap (cmdDomains s) ++ strings ++ binds ++ installs).eraseDups

/-- Demand holds an AUTO domain that is needed. -/
def demanded (s : State) (need : List Nat) (d : Nat) : Bool := isAuto s d && need.contains d

/-- Domains that wake plans have requested and not released. -/
def planRequests (s : State) : Nat := s.drone.plans.foldl (fun a p => a ||| p.requested) 0

/-- One closure step under R423. -/
def withPrereqs (l : List Nat) : List Nat := (List.range 13).filter (fun d => l.contains d || l.any (fun e => (requires e).contains d))

/-- The wanted domains. -/
def wantedDomains (s : State) : List Nat :=
  let need := neededDomains s
  withPrereqs ((List.range 13).filter (fun d => d == 12 || (combined s d).code == 1 || bit (planRequests s) d || demanded s need d))

/-- Wanted, or held by a domain that is ON or coming up (R423). -/
def heldDomains (s : State) (wanted : List Nat) : List Nat :=
  (List.range 13).filter (fun d => wanted.contains d || (List.range 13).any (fun e =>
    (requires e).contains d && (decide (domSt s e = .on) || decide (domSt s e = .bringup))))

/-! ## Wake sources (R441) -/

/-- Record a wake source: 16 are kept, newest first. -/
def recordWake (code detail : Nat) (s : State) : State :=
  { s with pwr := { s.pwr with wakeSrc := (code * 2 ^ 56 + detail % 256 * 2 ^ 48 + nowUs s % 2 ^ 48) :: s.pwr.wakeSrc.take 15 } }

/-! ## Starting a sequence (R426, R434, R435) -/

/-- Assert a domain's enables: of two in a row, the second follows the first one's power-good (R599). -/
def assertEnables (d : Nat) (s : State) : State :=
  let es := enablesOf d
  let now := if d = 2 ∨ d = 3 then es.filter (fun e => e == es.headD 0 || bit s.pwr.railGood (es.headD 0)) else es
  { s with pwr := { s.pwr with railEnable := s.pwr.railEnable ||| ofBits now } }

/-- Start a bring-up. -/
def startBringup (d : Nat) (s : State) : State :=
  assertEnables d (modDomain d (fun x =>
    { x with state := .bringup, phase := .regulator, fromRet := decide (x.state = .retention), goingDown := false, idleSince := 0 }) s)

/-- The banks of a string's frets that its retention keeps. -/
def keptBanks (s : State) (d : Nat) : Nat :=
  if lowState s d = 1 ∧ (combined s d).ret = 0 then (combined s d).mask else 0

/-- Evict the hot entries of a string but those in kept banks (R435). -/
def evictUnkept (j keep : Nat) (s : State) : State :=
  ((s.bow.hot.filter (fun h => decide (clearBits (h.banks.getD j 0) keep ≠ 0))).map (fun h => h.id)).foldl (fun t e => evictHot e t) s

/-- A domain stops taking work (R435). -/
def startLeaving (d : Nat) (s : State) : State :=
  let s1 := modDomain d (fun x => { x with state := .leaving, goingDown := false, idleSince := 0 }) s
  if 7 ≤ d ∧ d ≤ 10 then evictUnkept (d - 7) (keptBanks s d) s1
  else if d = 4 then cameraLeavesOn s1
  else if d = 11 then safetyLeavesOn s1
  else s1

/-- A DOMAIN_SET of a port has not completed (R436). -/
def domainSetOpen (s : State) (p : Nat) : Bool := s.hif.cmds.any (fun c => c.opcode == 0x67 && portOf c.func == p)

/-- One domain follows its wanted status. -/
def settleDomain (src : Option (Nat × Nat)) (wanted : List Nat) (s : State) (d : Nat) : State :=
  let held := (heldDomains s wanted).contains d
  match domSt s d with
  | .off => if held then startBringup d s else s
  | .retention => if held then startBringup d s else s
  | .leaving =>
    if held then match src with
      | none => s
      | some (c, i) => if s.pwr.late.any (fun l => l.1 == d) then s else { s with pwr := { s.pwr with late := (d, c, i) :: s.pwr.late } }
    else s
  | .bringup => s
  | .on =>
    let s1 := if wanted.contains d then modDomain d (fun x => { x with idleSince := 0 }) s
      else if isAuto s d ∧ (domainOf s d).idleSince = 0 then modDomain d (fun x => { x with idleSince := s.now + 1 }) s else s
    if held ∨ lowState s1 d = 2 ∨ isAuto s1 d = true then s1
    else if (d = 5 ∧ domainSetOpen s1 0 = true) ∨ (d = 6 ∧ domainSetOpen s1 1 = true) then s1
    else startLeaving d s1

/-- The domains that wait for work: accepted commands need them and their target is RETENTION or OFF (R432). -/
def waitingMask (s : State) : Nat :=
  let low (d : Nat) : Bool := decide (domSt s d ≠ .on) && ((combined s d).code == 2 || (combined s d).code == 3)
  let plain := (s.hif.cmds.flatMap (cmdDomains s)).filter low
  let noString := s.hif.cmds.any (fun c => needsStrings c.opcode) &&
    [7, 8, 9, 10].all (fun d => decide (domSt s d ≠ .on) && !isAuto s d)
  ofBits (plain ++ (if noString then [7, 8, 9, 10].filter low else []))

/-- Domains being brought up now that were not before. -/
def startedSince (s t : State) : List Nat :=
  (List.range 13).filter (fun d => decide (domSt t d = .bringup) && decide (domSt s d ≠ .bringup))

/-- Transitions may start: the part has started, has not tripped, and no firmware gap runs (R455, R530). -/
def transitionsRun (s : State) : Bool := s.clk.started && s.pins.thermTripN && !fwGap s

/-- A DOMAIN_SET whose domains have all settled may commit (R436). -/
def settleDomainSets (s : State) : State :=
  let wanted := wantedDomains s
  let held := heldDomains s wanted
  let settled (own d : Nat) : Bool := d == own || (match domSt s d with
    | .bringup => false
    | .leaving => false
    | .on => held.contains d || isAuto s d || lowState s d == 2
    | _ => !held.contains d)
  (s.hif.cmds.filter (fun c => c.opcode == 0x67 && decide (c.phase = .running))).foldl (fun t c =>
    if (maskBits 13 (c.aux.headD 0)).all (settled (5 + portOf c.func)) then stageDone c.id [] (c.aux.headD 0) t else t) s

/-- Every domain follows its wanted status; what brings one up is recorded. -/
def settlePower (src : Option (Nat × Nat)) (s : State) : State :=
  if !transitionsRun s then { s with pwr := { s.pwr with waiting := waitingMask s } } else
  let wanted := wantedDomains s
  let t := (List.range 5).foldl (fun t _ => (List.range 12).foldl (settleDomain src wanted) t) s
  let began := startedSince s t
  let t1 := if began.isEmpty then t else match src with
    | some (c, i) => recordWake c i t
    | none => ((t.pwr.late.filter (fun l => began.contains l.1)).map (fun l => l.2)).eraseDups.foldl (fun t l => recordWake l.1 l.2 t) t
  let t2 := { t1 with pwr := { t1.pwr with
    late := t1.pwr.late.filter (fun l => !began.contains l.1), waiting := waitingMask t1 } }
  settleDomainSets t2

end Sys2Proof.Machine
end

