-- ==== Sys2Proof/Machine/Drone.lean ====
section
/-! DEFINITION. Machine/Drone.lean: the drone: its configuration, the pre-roll codec, the detector, the wake plans,
duty-cycled sensing and replay (11_listening_wake R364 to R393), with their rows. -/

namespace Sys2Proof.Machine
open Sys2Proof

def modDrone (g : Drone → Drone) (s : State) : State := { s with drone := g s.drone }
def modDet (g : Detector → Detector) (s : State) : State := { s with drone := { s.drone with det := g s.drone.det } }
def planOf (s : State) (n : Nat) : Plan := s.drone.plans.getD n {}
def modPlan (n : Nat) (g : Plan → Plan) (s : State) : State := { s with drone := { s.drone with plans := modAt n g s.drone.plans } }
def drnEvent (bits : Nat) (s : State) : State := modDrone (fun d => { d with events := d.events ||| bits }) s

/-- Domain ID of the drone's bridge transactions (00_scope R14; R365). -/
def droneDomain : Nat := 34

/-- The physical function of the owning port (R380). -/
def droneOwner (s : State) : Nat := physOf s.drone.ownerPort

/-! ## Fields of a plan (R383) -/

def plEnable (b : Bytes) : Bool := bit (byteAt b 1) 0
def plSpeculate (b : Bytes) : Bool := bit (byteAt b 1) 1
def plOwnVoice (b : Bytes) : Bool := bit (byteAt b 1) 4
def plTrig (b : Bytes) : Nat := byteAt b 2
def plClassMask (b : Bytes) : Nat := byteAt b 3
def plPre (b : Bytes) : Nat := byteAt b 4
def plScore (b : Bytes) : Nat := byteAt b 5
def plPreload (b : Bytes) : Nat := leAt b 12 2
def plLook (b : Bytes) : Nat := byteAt b 14
def plVerifyScore (b : Bytes) : Nat := byteAt b 15
def plHoldoffMs (b : Bytes) : Nat := leAt b 20 2
def plVibPeaks (b : Bytes) : Nat := byteAt b 22
def plVibLevel (b : Bytes) : Nat := leAt b 24 2
def plVibWindow (b : Bytes) : Nat := leAt b 26 2
def plCamLevel (b : Bytes) : Nat := byteAt b 28
def plCamBlocks (b : Bytes) : Nat := byteAt b 29
def plLevel (b : Bytes) : Int := toSigned 16 (leAt b 30 2)

def planOn (p : Plan) : Bool := decide (p.state ≠ .disabled)
def planIdle (p : Plan) : Bool := decide (p.state = .disabled) || decide (p.state = .armed)

/-! ## Plans (R384, R385, R387) -/

/-- A WAKE event (R387). -/
def wakeEvent (n kind : Nat) (s : State) : State := postBoth 0x0030 (n + kind * 8) ((planOf s n).info % 2 ^ 32) 0xFFFF s

/-- Discard the preload of a plan when no host member has joined it (R385). -/
def dropPreload (n : Nat) (s : State) : State :=
  match (planOf s n).preload with
  | none => s
  | some p =>
    modPlan n (fun x => { x with preload := none })
      { s with stream := { s.stream with passes := s.stream.passes.filter (fun x => !(x.id == p && x.members.all isPreload)) } }

/-- A plan returns to ARMED, or DISABLED: requests released, preload discarded. -/
def endAttempt (n : Nat) (st : PlanState) (s : State) : State :=
  settlePower none (modPlan n (fun x => { x with state := st, requested := 0 }) (dropPreload n s))

/-- A plan requests its domains. -/
def requestDomains (n : Nat) (st : PlanState) (s : State) : State :=
  modPlan n (fun x => { x with state := st, requested := planDomains x.block }) s

/-- A port's link is in a low-power state: down while PERST_N is asserted or the HOST domain is OFF, or, with its physical function in
D3hot, in L2 or L3 (18_host_ports R563; DEDUCED, log entry 80: a link that is down in D3hot is in L2 or L3). -/
def lowPowerLink (s : State) (p : Nat) : Bool :=
  !(portSt s p).linkUp && ((portSt s p).perst || decide (domSt s (5 + p) = .off) || (funcCfg s (physOf p)).d3hot)

/-- Notify a port of an accepted plan (18_host_ports R563). -/
def notifyPort (p : Nat) (s : State) : State :=
  let x := portSt s p
  let pf := funcCfg s (physOf p)
  if lowPowerLink s p then
    if x.wakeN then s else modPort p (fun x => { x with wakeN := true, wakeSeen := true, asserts := satAdd 16 x.asserts 1 }) s
  else if pf.d3hot && pf.pmeEn then modPort p (fun x => { x with pmeSent := true, pmeMessages := x.pmeMessages + 1 }) s
  else if x.linkUp then modPort p (fun x => { x with l1 := false }) s
  else s

/-- A plan is accepted (R384, R387). -/
def acceptPlan (n : Nat) (s : State) : State :=
  let b := (planOf s n).block
  let s1 := modDrone (fun d => { d with accepts := satAdd 16 d.accepts 1, wakeOnset := some (planOf s n).info })
    (modPlan n (fun x => { x with state := .accepted }) s)
  let s2 := wakeEvent n 3 s1
  let s3 := if bit (byteAt b 1) 2 then notifyPort 0 s2 else s2
  if bit (byteAt b 1) 3 then notifyPort 1 s3 else s3

/-- A verifier's hot entry is switched in when needed (R386; 10_scheduling_sharing R359). -/
def switchVerifier (n : Nat) (s : State) : State :=
  let v := planVerifier (planOf s n).block
  if v = 0 then s else
  match s.bow.hot.find? (fun h => h.handle == v && liveHot h) with
  | none => s
  | some h => if s.bow.policy = 0 || pinned s h then startSwitch h.id s else s

/-- The trigger of a plan is met: counted, and in ARMED or PRIMED the plan fires (R384, R386, R441). -/
def triggerPlan (n info beam : Nat) (s : State) : State :=
  let p := planOf s n
  let s1 := modDrone (fun d => { d with fires := satAdd 16 d.fires 1 }) s
  if p.state ≠ .armed ∧ p.state ≠ .primed then s1 else
  let s2 := recordWake 1 (n + plTrig p.block * 8) (modPlan n (fun x => { x with fireUs := nowUs s, info := info, beam := beam }) s1)
  if planVerifier p.block = 0 then
    settlePower none (acceptPlan n (wakeEvent n 2 (requestDomains n .accepted s2)))
  else
    let s3 := wakeEvent n 2 (requestDomains n .verifying s2)
    if bit s.drone.cfg.flags 0 then switchVerifier n (settlePower none s3)
    else endAttempt n .armed (wakeEvent n 4 (modDrone (fun d => { d with rejects := satAdd 16 d.rejects 1 }) s3))

/-- A host-commanded change of domains reaches the plans that requested one of them (R389). -/
def hostChanged (mask : Nat) (s : State) : State :=
  (List.range 8).foldl (fun t n =>
    let p := planOf t n
    if planIdle p ∨ p.requested &&& mask = 0 then t else
    let t1 := if p.state = .primed then modPlan n (fun x => { x with dropped := true }) t else t
    wakeEvent n 7 (drnEvent 32 (modPlan n (fun x => { x with state := .armed, requested := 0 }) (dropPreload n t1)))) s

/-! ## The detector (R369, R371 to R374, R388) -/

/-- A phrase class qualifies for a plan (R373). -/
def qualifies (p : Plan) (c : Nat) : Bool := planOn p && plTrig p.block == 0 && bit (plClassMask p.block) c

/-- The pre level of a class: 256 when it qualifies for no plan. -/
def preLevel (s : State) (c : Nat) : Nat :=
  s.drone.plans.foldl (fun a p => if qualifies p c then min a (plPre p.block) else a) 256

/-- Scores of a frame that count: beam, class, score, of the beams the detector runs on and the image's classes. -/
def frameScores (s : State) (l : List BeamScores) : List (Nat × Nat × Nat) :=
  match s.drone.det.image with
  | none => []
  | some img => l.flatMap (fun b => if bit s.drone.cfg.detBeams b.beam then
      (List.range img.classes).map (fun c => (b.beam, c, min 255 (b.scores.getD c 0))) else [])

/-- The highest score over beams and qualifying classes: the lowest beam, then the lowest class on a tie. -/
def topScore (s : State) (l : List (Nat × Nat × Nat)) : Option (Nat × Nat × Nat) :=
  (l.filter (fun e => decide (preLevel s e.2.1 < 256))).foldl (fun best e => match best with
    | none => some e
    | some b => if b.2.2 < e.2.2 then some e else some b) none

/-- The runs at `onset_level` go on or end: a beam and class that no frame scores has none (R374). -/
def trackRuns (s : State) (l : List (Nat × Nat × Nat)) : SMap Nat :=
  match s.drone.det.image with
  | none => []
  | some img => l.foldl (fun m e =>
      let k := e.1 * 8 + e.2.1
      let since := smGet 0 s.drone.det.runs k
      if img.onsetLevel ≤ e.2.2 then smSet 0 k (if since = 0 then nowUs s + 1 else since) m else m) []

/-- Leave CANDIDATE: plans left PRIMED end their speculation, and configurations are no longer deferred (R373, R384,
R388, R389). -/
def leaveCandidate (st : DetState) (s : State) : State :=
  let s1 := modDet (fun d => { d with state := st, lowest := 256, quiet := 0 }) s
  let s2 := (List.range 8).foldl (fun t n =>
    let t1 := modPlan n (fun x => { x with dropped := false }) t
    if (planOf t1 n).state = .primed then endAttempt n .armed (wakeEvent n 5 t1) else t1) s1
  modDrone (fun d => { d with waitingCfg := d.waitingCfg.map (fun w => (w.1, false)) }) s2

/-- Enter CANDIDATE with the onset estimate (R373, R374). A class that does not stand at `onset_level` in the entry frame
has no such run: its onset is a free value. -/
def enterCandidate (beam cls : Nat) (s : State) : State :=
  let lag := match s.drone.det.image with
    | none => 0
    | some i => i.lagMs
  let run := smGet 0 s.drone.det.runs (beam * 8 + cls)
  let onset := if run = 0 then drawNat 64 s else run - 1 - 1000 * lag
  let s1 := modDet (fun d => { d with state := .candidate, cls := cls, beam := beam, entry := s.now, quiet := 0, onsetUs := onset })
    (if run = 0 then drawn 1 s else s)
  let s2 := modDrone (fun d => { d with candidates := satAdd 16 d.candidates 1 }) s1
  (List.range 8).foldl (fun t n =>
    let p := planOf t n
    if p.state = .armed ∧ qualifies p cls ∧ plSpeculate p.block ∧ !p.dropped then
      settlePower none (wakeEvent n 1 (modPlan n (fun x => { x with info := onset }) (requestDomains n .primed t)))
    else t) s2

/-- Plans that fire on the candidate's class at a score (R373). -/
def firing (s : State) (cls score : Nat) : List Nat :=
  (List.range 8).filter (fun n =>
    let p := planOf s n
    qualifies p cls && decide (plScore p.block ≤ score) &&
      (!plOwnVoice p.block || decide (s.drone.det.onsetUs < s.drone.det.ovLast)))

/-- A frame in CANDIDATE: plans fire, or the class is counted quiet (R373). -/
def candidateFrame (l : List (Nat × Nat × Nat)) (s : State) : State :=
  let cls := s.drone.det.cls
  let best := (l.filter (fun e => e.2.1 == cls)).foldl (fun a e => if a.2.2 < e.2.2 then e else a) (s.drone.det.beam, cls, 0)
  let fs := firing s cls best.2.2
  if fs.isEmpty then modDet (fun d => { d with quiet := if best.2.2 < preLevel s cls then d.quiet + 1 else 0 }) s
  else
    let hold := fs.foldl (fun a n => max a (plHoldoffMs (planOf s n).block)) 0
    let s1 := fs.foldl (fun t n => triggerPlan n s.drone.det.onsetUs best.1 t) s
    leaveCandidate .holdoff (modDet (fun d => { d with beam := best.1, holdoffEnd := s.now + 384000000 * hold }) s1)

/-- Own-voice activity of a frame (R369): only with the TDM sensor, in 3 of the last 5 frames. -/
def ownVoice (l : List Bool) : Bool := decide (3 ≤ (l.filter (fun b => b)).length)

/-- Capture runs: AON_CLK has not failed (19_clocks_startup R577). -/
def capturing (s : State) : Bool := !s.clk.aonFailed

/-! The listening path (R366, R367, R370, R371) -/

/-- The rate of PDM_CLK in Hz; 0 while it stands still (R366). -/
def pdmClkHz (s : State) : Nat := if s.drone.cfg.micMask = 0 then 0 else if s.drone.cfg.pdmClk = 1 then 3072000 else 1536000

/-- The bits of an enabled microphone, oldest first: 2n at the rising edges of ball n, 2n + 1 at the falling ones (R366). -/
def micBits (s : State) (balls : List PdmEdges) (m : Nat) : List Bool :=
  if bit s.drone.cfg.micMask m then (match balls[m / 2]? with
    | none => []
    | some b => if m % 2 = 0 then b.rising else b.falling) else []

/-- Bits of a line that a decimator keeps: twice the group delay of 0.5 ms at 3.072 MHz (DESIGN CHOICE, log entry 73). -/
def bitsKept : Nat := 3072

/-- A line of bits after new ones, newest first. -/
def bitsAfter (s : State) (balls : List PdmEdges) (m : Nat) : List Bool := (micBits s balls m).reverse ++ s.drone.bits.getD m []

/-- The samples that `n` new bits of a line give at `ratio` bits a sample, newest first (R367). -/
def decimated (f : List Bool → Int) (ratio n : Nat) (bits : List Bool) : List Int :=
  (List.range (n / ratio)).map (fun k => f ((bits.drop (ratio * k)).take bitsKept))

/-- PDM_CLK bits of a 256 kHz sample: 6 or 12. -/
def pdmRatio (s : State) : Nat := pdmClkHz s / 256000

/-- The new 256 kHz samples of a microphone, newest first, before their saturation. -/
def micSamples (s : State) (balls : List PdmEdges) (m : Nat) : List Int :=
  decimated (Config.pdmDecimate (pdmRatio s)) (pdmRatio s) (micBits s balls m).length (bitsAfter s balls m)

/-- A microphone saturates. -/
def saturates (xs : List Int) : Bool := xs.any (fun x => decide (x < -32768) || decide (32767 < x))

/-- A delay line after new samples, newest first: they stand before the 1,025 kept. -/
def lineAfter (s : State) (balls : List PdmEdges) (m : Nat) : List Int :=
  (micSamples s balls m).map (clampInt (-32768) 32767) ++ s.drone.lines.getD m []

/-- The new bits of a line toggle. -/
def toggles (new all : List Bool) : Bool := !new.isEmpty && ((all.take (new.length + 1)).contains true && (all.take (new.length + 1)).contains false)

/-- The new 48 kHz samples of a microphone by their number, with `wide48` (R367). -/
def wideSamples (s : State) (balls : List PdmEdges) (m : Nat) : List (Nat × Int) :=
  let end_ := nowUs s * 48 / 1000
  if bit s.drone.cfg.flags 1 then
    (decimated Config.pdmWide 64 (micBits s balls m).length (bitsAfter s balls m)).mapIdx (fun k x => (end_ - 1 - k, clampInt (-32768) 32767 x))
  else []

/-- Delay and gain of a beam and a microphone. -/
def beamTap (s : State) (b m : Nat) : Nat × Int :=
  (leAt s.drone.cfg.beamTable (4 * (16 * b + m)) 2, toSigned 16 (leAt s.drone.cfg.beamTable (4 * (16 * b + m) + 2) 2))

/-- The sum of a beam at 256 kHz, `back` samples before the newest: formed in 32 bits. -/
def beamSum (s : State) (lines : List (List Int)) (b back : Nat) : Int :=
  let sum : Int := (List.range 16).foldl (fun (a : Int) m =>
    if bit s.drone.cfg.micMask m then a + (beamTap s b m).2 * (lines.getD m []).getD (back + (beamTap s b m).1) 0 else a) 0
  if -(2 ^ 31) ≤ sum ∧ sum < 2 ^ 31 then sum else Config.beamOverflow sum

/-- The sums that a decimator keeps: twice the group delay of 1.0 ms (DESIGN CHOICE, log entry 73). -/
def sumsKept : Nat := 512

/-- A beam whose gains are all 0 is silent (R370). -/
def beamSilent (s : State) (b : Nat) : Bool := (List.range 16).all (fun m => (beamTap s b m).2 == 0)

/-- A beam's new 16 kHz samples, newest first: one for every 16 sums. -/
def beamAudio (silent : Bool) (sums : List Int) (n : Nat) : List Int :=
  (List.range (n / 16)).map (fun k => if silent then 0 else clampInt (-32768) 32767 (Config.decimate ((sums.drop (16 * k)).take sumsKept)))

/-- The 40 features of a beam (R371). -/
def beamFeatures (audio : List Int) : List Int := (List.range 40).map (fun k => clampInt (-32768) 32767 (Config.melBand audio k))

/-- Samples a live replay of a microphone takes: those of its span that came after the command was accepted (R391, R392). -/
def liveSamples (s : State) (balls : List PdmEdges) (r : Replay) : Replay :=
  match cmdOf s r.cmd with
  | none => r
  | some c =>
    let src := byteAt c.params 12
    if src < 16 then r else
    let first := r.start * 48 / 1000
    { r with samples := r.samples ++ (wideSamples s balls (src - 16)).filter (fun e =>
        decide (first ≤ e.1) && decide (e.1 < first + 48 * leAt c.params 24 4) && decide (c.accepted / 384000 * 48 / 1000 ≤ e.1)) }

/-- Take in the bits of the balls: delay lines, clip bits, beams, the level sensor and live replays. -/
def capture (balls : List PdmEdges) (s : State) : State :=
  let mics := List.range 16
  let lines := mics.map (lineAfter s balls)
  let n := mics.foldl (fun a m => max a (micSamples s balls m).length) 0
  let beams := List.range s.drone.cfg.beams
  let sums := beams.map (fun b => (List.range n).map (beamSum s lines b) ++ s.drone.sums.getD b [])
  modDrone (fun d => { d with
    clip := d.clip ||| ofBits (mics.filter (fun m => saturates (micSamples s balls m)))
    bits := mics.map (fun m => (bitsAfter s balls m).take bitsKept)
    toggled := mics.map (fun m => if toggles (micBits s balls m) (bitsAfter s balls m) then nowUs s + 1 else d.toggled.getD m 0)
    level := if bit d.cfg.micMask d.cfg.levelMic then
      ((micSamples s balls d.cfg.levelMic).map (clampInt (-32768) 32767) ++ d.level).take 2560 else []
    lines := lines.map (fun l => l.take 1025), sums := sums.map (fun l => l.take sumsKept)
    audio := beams.map (fun b => (beamAudio (beamSilent s b) (sums.getD b []) n ++ d.audio.getD b []).take 400)
    replays := d.replays.map (liveSamples s balls) }) s

/-- The features of a frame (R371). -/
def takeFeatures (s : State) : State :=
  modDrone (fun d => { d with features := (List.range d.cfg.beams).map (fun b =>
    if bit d.cfg.detBeams b then beamFeatures (d.audio.getD b []) else d.features.getD b []) }) s

/-- The samples of the TDM slot that the configuration names (R368). -/
def tdmSamples (s : State) (tdm : List (List Nat)) : List Int := tdm.map (fun f => toSigned 16 (f.getD s.drone.cfg.tdmSlot 0 % 2 ^ 16))

/-- The detector's part of a frame, with own-voice activity (R369, R373). -/
def scoreFrame (scores : List BeamScores) (vib : List Int) (s : State) : State :=
  let l := frameScores s scores
  let ov := if s.drone.cfg.vibMode = 1 then decide (s.drone.cfg.ovLevel ≤ Config.vibEnergy vib) :: s.drone.det.ovFrames.take 4 else []
  let top := topScore s l
  let score := match top with
    | none => 0
    | some e => e.2.2
  let was := s.drone.det.lowest
  let s1 := modDet (fun d => { d with
    runs := trackRuns s l, score := score, ovFrames := ov, lowest := min d.lowest score
    ovLast := if ownVoice ov then nowUs s + 1 else d.ovLast }) s
  match s.drone.det.state with
  | .idle => match top with
    | none => s1
    | some (b, c, x) => if preLevel s c ≤ x ∧ was < preLevel s c then enterCandidate b c s1 else s1
  | .candidate => candidateFrame l s1
  | .holdoff => s1

/-! ### Sensors that every frame measures (R378) -/

/-- The plans of a trigger that `met` holds for meet it now: a plan that is neither ARMED nor PRIMED only counts it (R384). -/
def sensorTrigger (trig : Nat) (met : Nat → Plan → Bool) (s : State) : State :=
  (List.range 8).foldl (fun t n =>
    let p := planOf t n
    if plTrig p.block == trig && met n p then triggerPlan n (nowUs t) 0 t else t) s

/-- The mean square of samples relative to full scale, as log2 in units of 1/256, is a level of 0 or below at least: compared
exactly (full scale is 2^15, DESIGN CHOICE, log entry 81). -/
def levelReaches (xs : List Int) (level : Int) : Bool :=
  let sum := sumBy (fun x => x.natAbs * x.natAbs) xs
  !xs.isEmpty && decide ((xs.length * 2 ^ 30) ^ 256 ≤ sum ^ 256 * 2 ^ (-level).toNat)

/-- A measured level meets the plans whose `lvl_q88` it reaches. -/
def levelTrigger (xs : List Int) (s : State) : State := sensorTrigger 3 (fun _ p => levelReaches xs (plLevel p.block)) s

/-- A vibration sample of a plan: a peak when it reaches the plan's level 80 ms or more after the plan's last peak, and a trigger when the
peaks in the plan's window suffice. -/
def vibPeak (us : Nat) (x : Int) (s : State) (n : Nat) : State :=
  let p := planOf s n
  if plTrig p.block ≠ 1 ∨ x.natAbs < plVibLevel p.block ∨ s.drone.peakTimes.any (fun e => e.1 == n && decide (us < e.2 + 80000)) then s else
  let s1 := modDrone (fun d => { d with peakTimes := (n, us) :: d.peakTimes.filter (fun e => decide (us ≤ e.2 + 2000000)) }) s
  if plVibPeaks p.block ≤ (s1.drone.peakTimes.filter (fun e => e.1 == n && decide (us ≤ e.2 + 1000 * plVibWindow p.block))).length
  then triggerPlan n (nowUs s) 0 s1 else s1

/-- Samples of the vibration channel with their times: each plan counts its peaks. -/
def takeVibration (xs : List (Nat × Int)) (s : State) : State :=
  xs.foldl (fun t e => (List.range 8).foldl (vibPeak e.1 e.2) t) s

/-- The samples of 10 ms of the TDM sensor, at 16 kHz, with their times. -/
def tdmTimes (s : State) (xs : List Int) : List (Nat × Int) := xs.mapIdx (fun k x => (nowUs s - (xs.length - 1 - k) * 125 / 2, x))

/-- The sensors' part of a frame: the vibration pattern with the TDM sensor, and the microphone level when its microphone is enabled. -/
def frameSensors (vib : List Int) (s : State) : State :=
  let s1 := if s.drone.cfg.vibMode = 1 then takeVibration (tdmTimes s vib) s else s
  if bit s1.drone.cfg.micMask s1.drone.cfg.levelMic then levelTrigger s1.drone.level s1 else s1

/-- A detector frame missed the 8 ms from its features to its scores (R372). -/
def lateFrame (scoredUs : Nat) (s : State) : State :=
  if s.drone.det.image.isSome && s.drone.cfg.detBeams != 0 && decide (8000 < scoredUs) then drnEvent 128 s else s

/-- A frame of 10 ms: capture, features, sensors and the detector. -/
def detectorFrame (heard : Heard) (tdm : List (List Nat)) (s : State) : State :=
  if !capturing s then s else
  let vib := tdmSamples s tdm
  scoreFrame heard.scores vib (lateFrame heard.scoredUs (frameSensors vib (takeFeatures (capture heard.balls s))))

/-- DETECTOR_FRAME (R366 to R374, R378). -/
def execDetectorFrame (heard : Heard) (tdm : List (List Nat)) (s : State) : Res := ok (detectorFrame heard tdm s)

/-- DETECTOR_CANDIDATE_QUIET (R373). -/
def execDetectorCandidateQuiet (s : State) : Res :=
  ok (when (decide (s.drone.det.state = .candidate) && decide (30 ≤ s.drone.det.quiet)) (leaveCandidate .idle) s)

/-- DETECTOR_CANDIDATE_TIMEOUT (R373). -/
def execDetectorCandidateTimeout (s : State) : Res := ok (when (decide (s.drone.det.state = .candidate)) (leaveCandidate .idle) s)

/-- DETECTOR_HOLDOFF_EXPIRY (R373). -/
def execDetectorHoldoffExpiry (s : State) : Res :=
  ok (when (decide (s.drone.det.state = .holdoff)) (modDet (fun d => { d with state := .idle })) s)

/-! ## The pre-roll codec (R375 to R377) -/

def codecStep (i : Nat) : Nat := [16, 17, 19, 21, 23, 25, 27, 29].getD (i % 8) 0 * 2 ^ (i / 8)
def codecAdj (q : Nat) : Int := [-1, -1, -1, -1, 2, 4, 6, 8].getD q 0

/-- What a code does to the predictor and the step index, in the coder and in the decoder alike. -/
def codecApply (code : Nat) (p : Int × Nat) : Int × Nat :=
  let d : Int := ((2 * (code % 8) + 1) * codecStep p.2 / 2 : Nat)
  (clampInt (-32768) 32767 (if bit code 3 then p.1 - d else p.1 + d), (clampInt 0 71 ((p.2 : Int) + codecAdj (code % 8))).toNat)

/-- The code of a sample. -/
def codecCode (x : Int) (p : Int × Nat) : Nat :=
  let e := x - p.1
  let q := min 7 (e.natAbs / codecStep p.2)
  if e < 0 then 8 + q else q

/-- Encode samples: the codes and the state after them. -/
def encodeAll : List Int → Int × Nat → List Nat × (Int × Nat)
  | [], p => ([], p)
  | x :: xs, p =>
    let c := codecCode x p
    let r := encodeAll xs (codecApply c p)
    (c :: r.1, r.2)

/-- Decode codes. -/
def decodeAll : List Nat → Int × Nat → List Int
  | [], _ => []
  | c :: cs, p =>
    let p1 := codecApply c p
    p1.1 :: decodeAll cs p1

/-- The codes of a block. -/
def blockCodes (b : PreBlock) : List Nat := b.codes.flatMap (fun x => [x.toNat % 16, x.toNat / 16])
def blockSamples (b : PreBlock) : List Int := decodeAll (blockCodes b) (b.pred, b.step)

/-- A block as it is laid out (R376). -/
def blockBytes (b : PreBlock) : Bytes :=
  leBytes 2 (ofSigned 16 b.pred) ++ leBytes 1 b.step ++ leBytes 1 b.flags ++ leBytes 4 (b.block % 2 ^ 32) ++ padTo 128 b.codes

/-- Blocks a beam keeps (R377). -/
def keptBlocks (c : DroneCfg) : Nat := c.prerollS * 125 / 2

/-- One beam's block ends: it is coded and stored. `gap` tells that the samples before it were not captured. -/
def storeBlock (no flags keep : Nat) (xs : List Int) (p : Preroll) : Preroll :=
  let ys := (List.range 256).map (fun i => if bit flags 2 && decide (i < 32) then 0 else clampInt (-32768) 32767 (xs.getD i 0))
  let r := encodeAll ys (p.pred, p.step)
  let gap := match p.blocks with
    | [] => true
    | b :: _ => b.block + 1 != no
  let blk : PreBlock := { pred := p.pred, step := p.step, flags := putBit flags 0 gap, block := no, codes := packNibbles r.1 }
  { pred := r.2.1, step := r.2.2, blocks := (blk :: p.blocks).take keep, newest := no }

/-! ### Replays that have begun (R390 to R392) -/

def rpSource (c : Cmd) : Nat := byteAt c.params 12
def rpFormat (c : Cmd) : Nat := byteAt c.params 13
def rpStart (c : Cmd) : Nat := leAt c.params 16 8
def rpDur (c : Cmd) : Nat := leAt c.params 24 4

def prerollOf (s : State) (b : Nat) : Preroll := s.drone.preroll.getD b {}
/-- The number of the oldest block of a beam kept. -/
def oldestBlock (p : Preroll) : Option Nat := (p.blocks.reverse.head?).map (fun b => b.block)

/-- Where a replay of a beam from an onset estimate begins, and the ms it falls short (R390). -/
def onsetStart (s : State) (beam onset : Nat) : Nat × Nat :=
  match oldestBlock (prerollOf s beam) with
  | none => (onset - 500000, 0)
  | some o => if onset - 500000 < 16000 * o then (16000 * o, ceilDiv (16000 * o - (onset - 500000)) 1000) else (onset - 500000, 0)

/-- Where the span of a PREROLL_REPLAY begins, and the ms it falls short (R390, R391). -/
def replayStart (s : State) (c : Cmd) : Nat × Nat :=
  if rpStart c ≠ 0 then (rpStart c, 0)
  else if 4 ≤ rpSource c then (s.drone.wakeOnset.getD 0 - 500000, 0)
  else onsetStart s (rpSource c) (s.drone.wakeOnset.getD 0)

/-- Blocks a span covers: the first and one past the last (R391). -/
def replayBlocks (start dur : Nat) : Nat × Nat := (start / 16000, ceilDiv (start / 16000 * 16000 + 1000 * dur) 16000)

def blockNo (p : Preroll) (n : Nat) : Option PreBlock := p.blocks.find? (fun b => b.block == n)

/-- A replay that begins now. -/
def freshReplay (s : State) (c : Cmd) : Replay :=
  let st := replayStart s c
  let span := replayBlocks st.1 (rpDur c + 16)
  { cmd := c.id, start := st.1, short := st.2
    blocks := if 16 ≤ rpSource c then [] else
      (prerollOf s (rpSource c)).blocks.filter (fun b => decide (span.1 ≤ b.block) && decide (b.block < span.2)) }

/-- A waiting replay of a beam copies the block that has just been stored when it lies in its span (R392). -/
def copyBlock (s : State) (r : Replay) : Replay :=
  match cmdOf s r.cmd with
  | none => r
  | some c =>
    let n := nowUs s / 16000 - 1
    if 16 ≤ rpSource c ∨ n < (replayBlocks r.start (rpDur c)).1 ∨ (replayBlocks r.start (rpDur c + 16)).2 ≤ n then r else
    match blockNo (prerollOf s (rpSource c)) n with
    | none => r
    | some b => { r with blocks := b :: r.blocks }

/-- Begin the replays that may run: where each begins is fixed, and the blocks of its span that are kept now are copied (R390, R392). -/
def openReplays (s : State) : State :=
  let live := s.drone.replays.filter (fun r => (cmdOf s r.cmd).isSome)
  let new := s.hif.cmds.filter (fun c => c.opcode == 0x54 && decide (c.phase = .ready) && !live.any (fun r => r.cmd == c.id))
  modDrone (fun d => { d with replays := live ++ new.map (freshReplay s) }) s

/-- PREROLL_BLOCK_BOUNDARY (R376, R377, R382): the rest of the block's audio is captured, and each beam's newest 256 samples are the
block that ends. -/
def execPrerollBlockBoundary (balls : List PdmEdges) (s : State) : Res :=
  ok (if !capturing s then s else
    let no := nowUs s / 16000 - 1
    let s1 := capture balls (openReplays s)
    let s2 := modDrone (fun d => { d with
      nextFlags := 0
      preroll := d.preroll.mapIdx (fun b p =>
        if bit d.cfg.flags 0 && decide (b < d.cfg.beams) && decide (0 < d.cfg.prerollS) then
          storeBlock no d.nextFlags (keptBlocks d.cfg) ((d.audio.getD b []).take 256).reverse p
        else p) }) s1
    modDrone (fun d => { d with replays := d.replays.map (copyBlock s2) }) s2)

/-! ## DRONE_CONFIG (R380 to R382, R388) -/

/-- The first field of the block that breaks R381. -/
def droneConfigFault (b : Bytes) : Option Nat :=
  let fl := byteAt b 6
  firstBad [(decide (byteAt b 2 ≤ 1), 2), (decide (byteAt b 3 ≤ 4), 3), (decide (byteAt b 4 < 2 ^ byteAt b 3), 4), (decide (byteAt b 5 ≤ 2), 5),
    (decide (fl < 16) && (!bit fl 1 || byteAt b 2 == 1), 6), (decide (byteAt b 7 ≤ 60), 7), (leAt b 8 8 % 64 == 0, 8),
    (if leAt b 8 8 = 0 then leAt b 16 4 == 0 else decide (1024 ≤ leAt b 16 4) && decide (leAt b 16 4 ≤ 393216), 16),
    (decide (byteAt b 20 ≤ 30), 20), (decide (byteAt b 21 ≤ 7), 21), (decide (10 ≤ leAt b 22 2) && decide (leAt b 22 2 ≤ 1000), 22),
    (leAt b 24 2 == 0 || (decide (50 ≤ leAt b 24 2) && decide (leAt b 24 2 ≤ 10000)), 24), (decide (byteAt b 26 ≤ 15), 26),
    (decide (1 ≤ byteAt b 27) && decide (byteAt b 27 ≤ 12), 27), (decide (1 ≤ byteAt b 32) && decide (byteAt b 32 ≤ 4), 32),
    (decide (2 ≤ byteAt b 33) && decide (byteAt b 33 ≤ 192) && byteAt b 33 % 2 == 0, 33),
    (decide (toSigned 16 (leAt b 34 2) ≤ 0), 34), (zeroAt b 36 28, 36)] |>.or
  ((List.range 64).findSome? (fun i => if leAt b (64 + 4 * i) 2 ≤ 1024 then none else some (64 + 4 * i)))

/-- The configuration a block states. -/
def cfgOf (b : Bytes) : DroneCfg :=
  { micMask := leAt b 0 2, pdmClk := byteAt b 2, beams := byteAt b 3, detBeams := bf (byteAt b 4) 3 0, vibMode := byteAt b 5,
    flags := byteAt b 6, camPeriodS := byteAt b 7, prerollS := byteAt b 20, tdmSlot := byteAt b 21, vibPeriodMs := leAt b 22 2,
    levelPeriodMs := leAt b 24 2, levelMic := byteAt b 26, spiClkMhz := byteAt b 27, spiCmd := leAt b 28 4,
    spiCmdLen := byteAt b 32, spiRdLen := byteAt b 33, ovLevel := toSigned 16 (leAt b 34 2), beamTable := slice b 64 256 }

/-- A block changes the audio against a configuration (R382). -/
def audioChanging (o : DroneCfg) (b : Bytes) : Bool :=
  let n := cfgOf b
  decide (n.micMask ≠ o.micMask ∨ n.pdmClk ≠ o.pdmClk ∨ n.beams ≠ o.beams ∨ n.detBeams ≠ o.detBeams ∨ n.vibMode ≠ o.vibMode ∨
    n.tdmSlot ≠ o.tdmSlot ∨ n.prerollS ≠ o.prerollS ∨ bf n.flags 1 0 ≠ bf o.flags 1 0 ∨ n.beamTable ≠ padTo 256 o.beamTable ∨ leAt b 8 8 ≠ 0)

/-- The detector image that a command loads (R372): its bytes are the command's second stage. -/
def imageOf (c : Cmd) : Option DetImage :=
  match c.stages with
  | [] => none
  | bs :: _ =>
    let i := Config.detectorInfo bs
    some { classes := i.classes, onsetLevel := i.onsetLevel, lagMs := i.lagMs, bytes := bs }

/-- An image passes its own checks and R372. -/
def imageOk (bs : Bytes) : Bool :=
  let i := Config.detectorInfo bs
  i.valid && decide (1 ≤ i.classes) && decide (i.classes ≤ 8) && decide (1 ≤ i.onsetLevel) && decide (i.onsetLevel ≤ 255) &&
    decide (i.lagMs ≤ 1000) && decide (i.macs ≤ 4000000)

/-- A configuration takes effect (R369, R374, R377, R382). -/
def applyConfig (c : Cmd) (s : State) : State :=
  let o := s.drone.cfg
  let n := cfgOf c.params
  let audio := audioChanging o c.params
  let restart := decide (n.micMask ≠ o.micMask ∨ n.pdmClk ≠ o.pdmClk)
  let s1 := modDrone (fun d => { d with
    cfg := n
    nextFlags := if audio then d.nextFlags ||| 2 ||| (if restart then 4 else 0) else d.nextFlags
    bits := if restart then [] else d.bits, level := if restart || n.levelMic != o.levelMic then [] else d.level
    lines := if restart then [] else d.lines, sums := if restart then [] else d.sums, audio := if restart then [] else d.audio
    preroll := d.preroll.mapIdx (fun b p =>
      if o.beams ≤ b ∧ b < n.beams then { p with blocks := [] }
      else if bit n.flags 0 then { p with blocks := p.blocks.take (keptBlocks n) } else p) }) s
  let s2 := modDet (fun d => { d with
    ovFrames := if n.vibMode = 1 then d.ovFrames else [], runs := d.runs.filter (fun e => bit n.detBeams (e.1 / 8)) }) s1
  match imageOf c with
  | none => s2
  | some i => modDet (fun d => { d with image := some i, state := .idle, runs := [], lowest := 0, quiet := 0 })
      (if s2.drone.det.state = .candidate then leaveCandidate .idle s2 else s2)

/-- An earlier DRONE_CONFIG has not yet come to its turn. -/
def configBefore (s : State) (c : Cmd) : Bool :=
  s.hif.cmds.any (fun x => x.opcode == 0x52 && decide (x.id < c.id) && (decide (x.phase = .held) || decide (x.phase = .ready)))

/-- Take a DRONE_CONFIG whose image has been read: one that changes no audio takes effect at once and is never deferred; one that does waits
for its block boundary behind the earlier ones (R382, R388; DEDUCED, log entry 40: the order binds those that wait). -/
def queueConfig (c : Cmd) (s : State) : State :=
  if !audioChanging s.drone.cfg c.params then stageDone c.id [] 0 (applyConfig c s)
  else if configBefore s c then s
  else
    let deferred := decide (s.drone.det.state = .candidate)
    modDrone (fun d => { d with waitingCfg := d.waitingCfg ++ [(c.id, deferred)] })
      (modCmd c.id (fun c => { c with phase := .running, aux := [b2n deferred] }) s)

def runDroneConfig (c : Cmd) (s : State) : State :=
  if c.func ≠ droneOwner s then failCmd c.id (fwDenied 0) s
  else if leAt c.params 8 8 = 0 then queueConfig c s
  else match vaRead s c.func droneDomain (leAt c.params 8 8) (leAt c.params 16 4) (locator 2 0 8) with
    | .error e => failCmd c.id e s
    | .ok bs => if !imageOk bs then failCmd c.id (bad (locator 2 0 8)) s
      else queueConfig { c with stages := [bs] } (modCmd c.id (fun c => { c with stages := [bs] }) s)

/-- DRONE_CONFIG (R380 to R382, R388). -/
def execDroneConfig (id : Nat) (s : State) : Res := ok (runReady id 0x52 runDroneConfig s)

/-- The commands at the front of the queue that are not deferred take effect, in order. One that was deferred says so on completion. -/
def takeEffect : Nat → State → State
  | 0, s => s
  | fuel + 1, s => match s.drone.waitingCfg with
    | [] => s
    | (_, true) :: _ => s
    | (id, false) :: l =>
      let s1 := modDrone (fun d => { d with waitingCfg := l }) s
      takeEffect fuel (match cmdOf s1 id with
        | none => s1
        | some c => if !c.alive then s1 else
          let s2 := applyConfig c s1
          if c.aux.headD 0 = 1 then stageDone id [] ((s.now - c.accepted) / 384000000 % 65536) (drnEvent 16 s2)
          else stageDone id [] 0 s2)

/-- DRONE_CONFIG_TAKE_EFFECT (R382, R388): a block boundary. -/
def execDroneConfigTakeEffect (s : State) : Res := ok (takeEffect s.drone.waitingCfg.length s)

/-! ## WAKE_PLAN_SET (R380, R383, R384) -/

/-- A field that only trigger `t` uses is 0 for the others and in its range for its own. -/
def forTrig (trig t v lo hi off : Nat) : Bool × Nat := (if trig = t then decide (lo ≤ v) && decide (v ≤ hi) else v == 0, off)

/-- The first field of the block that breaks R383. -/
def wakePlanFault (b : Bytes) : Option Nat :=
  let t := plTrig b
  let d := leAt b 8 2
  let needs := leAt b 10 2 ≠ 0 ∨ leAt b 12 2 ≠ 0
  firstBad [(decide (byteAt b 0 ≤ 7), 0), (decide (byteAt b 1 < 32) && (t == 0 || (!plSpeculate b && !plOwnVoice b)), 1), (decide (t ≤ 4), 2),
    (t == 0 || plClassMask b == 0, 3), forTrig t 0 (plPre b) 1 255 4, forTrig t 0 (plScore b) (plPre b) 255 5,
    (decide (1 ≤ leAt b 6 2) && decide (leAt b 6 2 ≤ 60000), 6),
    (decide (d < 2048) && (!decide needs || (d % 4 == 3 && bf d 10 7 != 0)) && (leAt b 12 2 == 0 || bf d 3 2 == 3), 8),
    (decide (1 ≤ plLook b) && decide (plLook b ≤ 4), 14), (decide (1 ≤ plVerifyScore b), 15),
    (decide (leAt b 16 2 ≤ 1000), 16), (decide (100 ≤ leAt b 18 2) && decide (leAt b 18 2 ≤ 60000), 18), forTrig t 0 (plHoldoffMs b) 0 10000 20,
    forTrig t 1 (plVibPeaks b) 1 8 22, (byteAt b 23 == 0, 23), forTrig t 1 (plVibLevel b) 1 32767 24, forTrig t 1 (plVibWindow b) 50 2000 26,
    forTrig t 2 (plCamLevel b) 1 255 28, forTrig t 2 (plCamBlocks b) 1 192 29,
    (if t = 3 then decide (plLevel b ≤ 0) else leAt b 30 2 == 0, 30), (zeroAt b 32 32, 32)]

/-- A handle that the port may use; 0 is none. -/
def handleOk (s : State) (f h : Nat) : Bool :=
  h == 0 || (match imageInForce s h with
    | none => false
    | some m => mayUse s m f false)

def runWakePlanSet (c : Cmd) (s : State) : State :=
  let b := c.params
  if !handleOk s c.func (planVerifier b) then failCmd c.id (fwDenied (locator 2 0 10)) s
  else if !handleOk s c.func (plPreload b) then failCmd c.id (fwDenied (locator 2 0 12)) s
  else if c.func ≠ droneOwner s then failCmd c.id (fwDenied 0) s
  else
    let n := byteAt b 0
    let s1 := if planIdle (planOf s n) then s else endAttempt n .armed s
    let s2 := modDrone (fun d => { d with peakTimes := d.peakTimes.filter (fun e => e.1 != n) })
      (modPlan n (fun x => { x with block := b, state := if plEnable b then .armed else .disabled, dropped := false }) s1)
    stageDone c.id [] 0 (settlePower none (chooseDepths s2))

/-- WAKE_PLAN_SET (R383, R384). -/
def execWakePlanSet (id : Nat) (s : State) : Res := ok (runReady id 0x53 runWakePlanSet s)

/-! ## Sensors (R368, R378, R379, R393) -/

/-- The bytes that a VSPI read sends: the command's, most significant first (R368). -/
def spiCommand (c : DroneCfg) : Bytes := (leBytes 4 c.spiCmd).reverse.take c.spiCmdLen

/-- The samples of a VSPI read: `spi_rd_len` bytes, two to a sample, little-endian unless `spi_be` is set (R368). -/
def spiSamples (c : DroneCfg) (miso : Bytes) : List Int :=
  (List.range (c.spiRdLen / 2)).map (fun i => toSigned 16 (
    if bit c.flags 2 then byteAt miso (2 * i) * 256 + byteAt miso (2 * i + 1) else leAt miso (2 * i) 2))

/-- VIB_SAMPLE (R368, R378): a read of the SPI sensor. Its samples count as one instant (DESIGN CHOICE, log entry 81). -/
def execVibSample (miso : Bytes) (s : State) : Res :=
  ok (if !capturing s || s.drone.cfg.vibMode != 2 then s else
    takeVibration ((spiSamples s.drone.cfg miso).map (fun x => (nowUs s, x))) (modDrone (fun d => { d with spiSent := spiCommand d.cfg }) s))

/-- LEVEL_SAMPLE (R378): 20 ms of bits of `level_mic`, of which the last 10 ms are measured. A microphone that is enabled is measured
in every frame, and a period of 0 is off. -/
def execLevelSample (bits : List Bool) (s : State) : Res :=
  let ratio := if s.drone.cfg.pdmClk = 1 then 12 else 6
  ok (if !capturing s || s.drone.cfg.levelPeriodMs == 0 || bit s.drone.cfg.micMask s.drone.cfg.levelMic then s else
    levelTrigger (((decimated (Config.pdmDecimate ratio) ratio bits.length bits.reverse).take 2560).map (clampInt (-32768) 32767)) s)

/-! The luma tap (R379) -/

/-- A pixel of a line in its 8 most significant bits; of YUV422 its Y. -/
def tapPixel (f : TapFrame) (stored : Bytes) (x : Nat) : Nat :=
  if f.dtype = 0x1E then byteAt stored (2 * x + 1) else if f.dtype = 0x2A then byteAt stored x else leAt stored (2 * x) 2

/-- The luma plane: the Y of each pixel, or the mean of each 2 × 2 cell in its 8 most significant bits. -/
def lumaPlane (f : TapFrame) : List (List Nat) :=
  let rows := f.lines.map (fun l => let b := storedLine f.dtype f.width (padTo (payloadBytes f.dtype f.width) l)
    (List.range f.width).map (tapPixel f b))
  if f.dtype = 0x1E then rows else
  let at_ (x y : Nat) : Nat := (rows.getD y []).getD x 0
  (List.range (rows.length / 2)).map (fun y => (List.range (f.width / 2)).map (fun x =>
    (at_ (2 * x) (2 * y) + at_ (2 * x + 1) (2 * y) + at_ (2 * x) (2 * y + 1) + at_ (2 * x + 1) (2 * y + 1)) / 2 ^ (dtypeBits f.dtype - 6)))

/-- The part of a plane that one of `n` equal shares begins at (DESIGN CHOICE, log entry 81). -/
def shareStart (size n i : Nat) : Nat := size * i / n

/-- The means of 16 × 12 blocks, row by row, rounded down (DESIGN CHOICE, log entry 81). -/
def blockMeans (plane : List (List Nat)) : List Nat :=
  let w := (plane.headD []).length
  (List.range 192).map (fun k =>
    let y0 := shareStart plane.length 12 (k / 16)
    let x0 := shareStart w 16 (k % 16)
    let cells := ((plane.drop y0).take (shareStart plane.length 12 (k / 16 + 1) - y0)).flatMap
      (fun r => (r.drop x0).take (shareStart w 16 (k % 16 + 1) - x0))
    cells.foldl (· + ·) 0 / cells.length)

/-- Blocks of a map whose means differ by a level from the previous map's. -/
def movedBlocks (old new : List Nat) (level : Nat) : Nat :=
  ((old.zip new).filter (fun p => decide (level ≤ max p.1 p.2 - min p.1 p.2))).length

/-- CAMERA_MOTION_SAMPLE (R378, R379): a frame of CSI-2 port 0 through the luma tap, within the 100 ms its receiver is powered. -/
def execCameraMotionSample (frame : TapFrame) (s : State) : Res :=
  ok (if s.drone.cfg.camPeriodS = 0 then s else
    let means := blockMeans (lumaPlane frame)
    let old := s.drone.camMap
    sensorTrigger 2 (fun _ p => decide (plCamBlocks p.block ≤ movedBlocks old means (plCamLevel p.block)))
      (modDrone (fun d => { d with camMap := means }) s))

/-- CAM_SAMPLE_TIMEOUT (R379): the sample is dropped and the previous block map kept. -/
def execCamSampleTimeout (s : State) : Res := ok (if s.drone.cfg.camPeriodS = 0 then s else drnEvent 4 s)
/-- VIB_FAULT (DRN_EVENTS). -/
def execVibFault (s : State) : Res := ok (drnEvent 2 s)
/-- PDM_FAULT (DRN_EVENTS): an enabled microphone has delivered constant data for 10 ms. -/
def execPdmFault (mic : Nat) (s : State) : Res :=
  unit mic 16 (ok (if !bit s.drone.cfg.micMask mic then s else drnEvent 1 s))

/-! ## Host triggers, acknowledgement, hold, verifier, preload (R384 to R386, R433) -/

/-- DRN_PLAN_KICK (R384, R393). -/
def execDrnPlanKick (func value : Nat) (s : State) : Res :=
  regWrite func 6 s <|
  ok (if func ≠ droneOwner s then s else sensorTrigger 4 (fun n _ => bit value n) s)

/-- Set a port's targets of a set of domains to ON. -/
def targetsOn (p mask : Nat) (s : State) : State :=
  { s with pwr := { s.pwr with domains := s.pwr.domains.mapIdx (fun d x => if bit mask d then
      { x with target := setAt p 1 x.target, retMode := setAt p 0 x.retMode, tolMs := setAt p 0 x.tolMs, bankMask := setAt p 0 x.bankMask }
      else x) } }

/-- Acknowledge one ACCEPTED plan: its domains become host targets (13_power_domains R433). -/
def ackPlan (func n : Nat) (s : State) : State :=
  if (planOf s n).state ≠ .accepted then s else
  let s1 := chooseDepths (targetsOn s.drone.ownerPort (planDomains (planOf s n).block) s)
  settlePower (some (3, func)) (modPlan n (fun x => { x with state := .armed, requested := 0 }) (dropPreload n s1))

/-- DRN_PLAN_ACK (R384, R393). -/
def execDrnPlanAck (func value : Nat) (s : State) : Res :=
  regWrite func 6 s <|
  ok (if func ≠ droneOwner s then s else (maskBits 8 value).foldl (fun t n => ackPlan func n t) s)

/-- PLAN_HOLD_EXPIRY (R384). -/
def execPlanHoldExpiry (plan : Nat) (s : State) : Res :=
  unit plan 8 (ok (if (planOf s plan).state ≠ .accepted then s else wakeEvent plan 6 (drnEvent 64 (endAttempt plan .armed s))))

/-- The last instant of a verifier's input, in µs (R386). -/
def verifyEnd (p : Plan) : Nat := p.fireUs + 1000 * planTailMs p.block

/-- A verifier may have run: its entry is loaded, and the block of its input's last sample is in the ring (R386). -/
def verifierReady (s : State) (p : Plan) : Bool :=
  s.bow.hot.any (fun h => h.handle == planVerifier p.block && liveHot h && h.loaded) && decide (16000 * ceilDiv (verifyEnd p) 16000 ≤ nowUs s)

/-- Decoded samples of a ring from a sample number on, none where a sample is not kept. -/
def ringSamples (find : Nat → Option PreBlock) (first count : Nat) : List (Option Int) :=
  let blocks := (List.range (count / 256 + 2)).flatMap (fun i => match find (first / 256 + i) with
    | none => List.replicate 256 none
    | some b => (blockSamples b).map some)
  (blocks.drop (first % 256)).take count

/-- The input of a plan's verifier: the firing beam from the onset estimate minus 500 ms, or the oldest block, to the end (R386, R390). A
sample that is not kept is 0 (DESIGN CHOICE, log entry 81). -/
def verifierInput (s : State) (p : Plan) : List Int :=
  let first := (onsetStart s p.beam p.info).1 * 16 / 1000
  (ringSamples (blockNo (prerollOf s p.beam)) first (verifyEnd p * 16 / 1000 - first)).map (fun x => x.getD 0)

/-- VERIFIER_SCORE (R384, R386): the run's one score, once its entry is loaded and its input exists. -/
def execVerifierScore (plan score : Nat) (s : State) : Res :=
  unit plan 8 (ok (if (planOf s plan).state ≠ .verifying ∨ verifierReady s (planOf s plan) = false then s else
    let s1 := modPlan plan (fun p => { p with input := verifierInput s p }) s
    if plVerifyScore (planOf s plan).block ≤ score then acceptPlan plan s1
    else wakeEvent plan 4 (modDrone (fun d => { d with rejects := satAdd 16 d.rejects 1 }) (endAttempt plan .armed s1))))

/-- PRELOAD_START (R385): DDR, FLASH and a string of the plan are ON. -/
def execPreloadStart (plan : Nat) (s : State) : Res :=
  unit plan 8 (ok (
    let p := planOf s plan
    let strings := [7, 8, 9, 10].any (fun d => bit (planDomains p.block) d && domOn s d)
    if planIdle p || p.preload.isSome || !domOn s 2 || !domOn s 3 || !strings then s else
    match imageInForce s (plPreload p.block) with
    | none => s
    | some img =>
      let last := (infoOf img).layers - 1
      let m : Member := { cmd := preloadMember plan, func := droneOwner s, session := preloadMember plan, first := 0, last := last, mask := 0,
                          look := plLook p.block, prio := 7 }
      modPlan plan (fun x => { x with preload := some s.stream.nextPass }) (openPass m img (droneOwner s) (placedNow s (droneOwner s) img.handle img.version) 50000 0 0 last false s)))

/-! ## PREROLL_REPLAY (R380, R390 to R392) -/

/-- The first field of the block that breaks R391. -/
def replayFault (b : Bytes) : Option Nat :=
  let src := byteAt b 12
  firstBad [(leAt b 0 8 % 8 == 0, 0), (decide (src ≤ 3) || (decide (16 ≤ src) && decide (src ≤ 31)), 12),
    (decide (byteAt b 13 ≤ 1) && (byteAt b 13 == 0 || decide (src ≤ 3)), 13), (zeroAt b 14 2, 14),
    (decide (1 ≤ leAt b 24 4) && decide (leAt b 24 4 ≤ 30000), 24), (zeroAt b 28 4, 28)]

/-- Bytes the replay writes (R391). -/
def replayLen (c : Cmd) (start : Nat) : Nat :=
  if rpFormat c = 1 then 136 * ((replayBlocks start (rpDur c)).2 - (replayBlocks start (rpDur c)).1)
  else if 16 ≤ rpSource c then rpDur c * 96 else rpDur c * 32

/-- The source is enabled (R391). -/
def sourceOn (s : State) (c : Cmd) : Bool :=
  if 16 ≤ rpSource c then bit s.drone.cfg.micMask (rpSource c - 16) && bit s.drone.cfg.flags 1 else decide (rpSource c < s.drone.cfg.beams)

/-- The span's audio has been captured: a beam's last block is complete, a microphone's last instant past. -/
def replayReady (s : State) (c : Cmd) (start : Nat) : Bool :=
  if 16 ≤ rpSource c then decide (start + 1000 * rpDur c ≤ nowUs s)
  else decide (16000 * ceilDiv (start + 1000 * rpDur c) 16000 ≤ nowUs s)

/-- A block of a replay's span: copied while it waited, or still in the ring. -/
def replayBlock (s : State) (c : Cmd) (r : Replay) (n : Nat) : Option PreBlock :=
  (r.blocks.find? (fun b => b.block == n)).or (blockNo (prerollOf s (rpSource c)) n)

/-- A beam's replay: its bytes and the samples that are missing. -/
def beamReplay (s : State) (c : Cmd) (r : Replay) : Bytes × Nat :=
  if rpFormat c = 1 then
    let n := replayBlocks r.start (rpDur c)
    (List.range (n.2 - n.1)).foldl (fun acc i => match replayBlock s c r (n.1 + i) with
      | none => (acc.1 ++ blockBytes { pred := 0, step := 0, flags := 1, block := n.1 + i, codes := [] }, acc.2 + 256)
      | some b => (acc.1 ++ blockBytes b, acc.2)) ([], 0)
  else
    let xs := ringSamples (replayBlock s c r) (r.start * 16 / 1000) (rpDur c * 16)
    (xs.flatMap (fun x => leBytes 2 (ofSigned 16 (x.getD 0))), (xs.filter (fun x => x.isNone)).length)

/-- A microphone's replay: the live samples of its span, zeros for the others, and the samples that are missing counted at 16 kHz. -/
def micReplay (c : Cmd) (r : Replay) : Bytes × Nat :=
  let xs := (List.range (rpDur c * 48)).map (fun i => (r.samples.find? (fun e => e.1 == r.start * 48 / 1000 + i)).map (fun e => e.2))
  (xs.flatMap (fun x => leBytes 2 (ofSigned 16 (x.getD 0))), ceilDiv (xs.filter (fun x => x.isNone)).length 3)

/-- The replay that a command has begun. -/
def replayOf (s : State) (c : Cmd) : Replay := (s.drone.replays.find? (fun r => r.cmd == c.id)).getD (freshReplay s c)

/-- Run a replay: it waits while its span reaches into the future, and copies what it needs meanwhile (R392). -/
def runPrerollReplay (c : Cmd) (s : State) : State :=
  let r := replayOf s c
  if !bit s.drone.replayFuncs c.func then failCmd c.id (fwDenied 0) s
  else if !sourceOn s c then failCmd c.id (bad (locator 2 0 12)) s
  else if leAt c.params 8 4 < replayLen c r.start then failCmd c.id (bad (locator 2 0 8)) s
  else if !replayReady s c r.start then openReplays s
  else
    let out := if 16 ≤ rpSource c then micReplay c r else beamReplay s c r
    let lost := r.short + ceilDiv out.2 16
    match vaStage s c.func droneDomain (leAt c.params 0 8) out.1 (locator 2 0 0) with
    | .error e => failCmd c.id e s
    | .ok segs => stageDone c.id segs lost (if lost = 0 then s else drnEvent 8 s)

/-- PREROLL_REPLAY (R390 to R392). -/
def execPrerollReplay (id : Nat) (s : State) : Res := ok (runReady id 0x54 runPrerollReplay s)

end Sys2Proof.Machine
end

