-- ==== Sys2Proof/Machine/Resets.lean ====
section
/-! DEFINITION. Machine/Resets.lean: what a command leaves that does not commit, and the resets of the device, of a port
and of a function (17_firmware_reset R541, R544, R545; 19_clocks_startup R577, R581, R582; 15_functional_safety R481). -/

namespace Sys2Proof.Machine
open Sys2Proof

/-! ## A command that does not commit (05_command_rings R183, R204) -/

/-- An install that a killed INSTALL_COMMIT or INSTALL_CANCEL held is OPEN again. -/
def reopenInstall (c : Cmd) (s : State) : State :=
  if c.opcode ≠ 0x62 ∧ c.opcode ≠ 0x63 then s else
  match installFor s c.model (portOf c.func) with
  | none => s
  | some i => modInstall i.xfer (fun i => if i.state = .committing ∨ i.state = .cancelling then { i with state := .open } else i) s

/-- Give back what a command held when it ends, whether or not it commits. -/
def letGo (c : Cmd) (s : State) : State :=
  let s1 := leaveQueue c.id (leavePasses c.id s)
  modDrone (fun d => { d with waitingCfg := d.waitingCfg.filter (fun w => w.1 != c.id) }) s1

/-- Undo what a command that does not commit had begun. -/
def undo (c : Cmd) (s : State) : State :=
  letGo c (when (c.opcode == 0x41) (reopenSession c)
    (reopenInstall c (dropHandover c.id (dropStagedCopies c.id (dropForming c.id (safetyRunKilled c.id (markDiscarded c s)))))))

/-- Kill a command of a function that is reset: no completion is written (R545). -/
def killReset (c : Cmd) (s : State) : State := retire c.id (undo c s)

/-! ## Function-level reset (R544) -/

/-- Rings of a function's range, DISABLED: their configuration stays. -/
def disableRings (f : Nat) (s : State) : State :=
  (ringsOf s f).foldl (fun t r => modRing r (fun g =>
    { g with state := .disabled, index := 0, hostIndex := 0, phase := true, outstanding := 0, reserved := 0, sinceIrq := 0,
             sinceShadow := 0, sealN := 0 }) t) s

/-- The safety host, or its port, is reset: cause 11. -/
def safetyReset (fs : List Nat) (s : State) : State :=
  match safetyHost s with
  | none => s
  | some f => if fs.contains f then latch 11 s else s

/-- The state of one function that its reset takes. -/
def resetFunction (f : Nat) (s : State) : State :=
  let s1 := (s.hif.cmds.filter (fun c => c.func == f)).foldl (fun t c => killReset c t) s
  let s2 := releaseBinds [f] (closeSessions f (leaveConf f s1))
  modHifFunc f (fun h => { h with dropped := 0 }) (disableRings f s2)

/-- What follows the end of commands: a compaction that a firmware write held back starts, passes, versions and domains
settle, and the bow dispatches. -/
def settleAll (src : Option (Nat × Nat)) (s : State) : State :=
  dispatch (settlePower src (sweepVersions (pinMore (settlePins (sweepOld (settleStream (grantPrograms (settleCompaction s))))))))

/-- A physical function's reset leaves its port's installs SUSPENDED and its proposal at k (R541; 10_scheduling_sharing
R345). -/
def physReset (p : Nat) (s : State) : State :=
  suspendPort p { s with bow := { s.bow with
    prop := setAt p s.bow.k s.bow.prop, blocked := s.bow.blocked && decide (s.bow.prop.getD p 0 = s.bow.k) } }

/-- Function-level reset of a list of functions of one port, counted as `n` resets. -/
def resetFunctions (p n : Nat) (fs : List Nat) (s : State) : State :=
  let s1 := fs.foldl (fun t f => resetFunction f t) (safetyReset fs s)
  let s2 := if fs.contains (physOf p) then physReset p s1 else s1
  { s2 with rst := { s2.rst with flr := modAt p (fun x => wrapAdd 32 x n) s2.rst.flr } }

/-- FUNCTION_LEVEL_RESET: of function 0 or 8 it includes the port's virtual functions, and counts once (DEDUCED, log entry 50). -/
def execFunctionLevelReset (func : Nat) (s : State) : Res :=
  unit func 16 (ok (if !funcExists s func then s else
    settleAll none (resetFunctions (portOf func) 1 (if isPhys func then funcsOf (portOf func) else [func]) s)))

/-- VF_ENABLE_CHANGE: virtual functions that are removed are reset (18_host_ports R552). -/
def execVfEnableChange (port : Nat) (enable : Bool) (numVfs : Nat) (s : State) : Res :=
  unit port 2 (ok (
    let n := min 7 numVfs
    let s1 := modPort port (fun x => { x with vfEnable := enable, numVfs := n }) s
    let gone := (funcsOf port).filter (fun f => funcExists s f && !funcExists s1 f)
    if gone.isEmpty then s1 else settleAll none (resetFunctions port gone.length gone s1)))

/-! ## Port reset (R544) -/

/-- Registers of a function that a reset of its port takes to their reset values. -/
def clearFunction (f : Nat) (s : State) : State :=
  let s1 := { s with
    irq := { s.irq with vecs := s.irq.vecs.filter (fun p => p.1 / 2048 != f) }
    mmu := setAt f {} s.mmu }
  modFuncCfg f (fun _ => resetFuncCfg f) (modHifFunc f (fun _ => resetHifFunc f) s1)

/-- The rings of a port's IDs at their reset values. -/
def clearRings (p : Nat) (s : State) : State :=
  { s with hif := { s.hif with rings := s.hif.rings.filter (fun r => r.1 / 8192 != p) } }

/-- The port's own state: its link is down; HIF_PORT_ERR and HIF_WAKE are kept. -/
def clearPort (p : Nat) (s : State) : State :=
  modPort p (fun x =>
    { perst := x.perst, linkDowns := if x.linkUp then satAdd 16 x.linkDowns 1 else x.linkDowns, recoveries := x.recoveries,
      corrected := x.corrected, wakeN := x.wakeN, wakeSeen := x.wakeSeen, pmeSent := x.pmeSent, asserts := x.asserts,
      pmeMessages := x.pmeMessages }) s

/-- A reset of a port's eight functions and of the port's state. -/
def resetPort (p : Nat) (s : State) : State :=
  let s1 := (funcsOf p).foldl (fun t f => resetFunction f t) (safetyReset (funcsOf p) s)
  let s2 := physReset p s1
  let s3 := clearPort p (clearRings p ((funcsOf p).foldl (fun t f => clearFunction f t) s2))
  { s3 with rst := { s3.rst with portCount := modAt p (fun n => satAdd 16 n 1) s3.rst.portCount } }

/-- The port's domain targets are ON (13_power_domains R430). -/
def targetsOnAll (p : Nat) (s : State) : State :=
  { s with pwr := { s.pwr with domains := s.pwr.domains.map (fun x =>
      { x with target := setAt p 1 x.target, retMode := setAt p 0 x.retMode, tolMs := setAt p 0 x.tolMs, bankMask := setAt p 0 x.bankMask }) } }

/-- A port reset while PERST_N stays high. -/
def portReset (p : Nat) (s : State) : State := settleAll (some (4, p)) (chooseDepths (targetsOnAll p (resetPort p s)))

/-- HOT_RESET. -/
def execHotReset (port : Nat) (s : State) : Res :=
  unit port 2 (ok (when (!(portSt s port).perst) (portReset port) s))

/-- PERST_N_ASSERT: the port stays in reset until PERST_N is released (18_host_ports R564). -/
def execPerstNAssert (port : Nat) (s : State) : Res :=
  unit port 2 (ok (if (portSt s port).perst then s else
    settleAll none (modPort port (fun x => { x with perst := true }) (resetPort port s))))

/-- PERST_N_RELEASE: the port's targets are ON, its HOST domain comes up, WAKE_N is released (18_host_ports R563, R564;
13_power_domains R430, R441). -/
def execPerstNRelease (port : Nat) (s : State) : Res :=
  unit port 2 (ok (if !(portSt s port).perst then s else
    let s1 := modPort port (fun x => { x with perst := false, wakeN := false }) s
    settleAll (some (4, port)) (chooseDepths (targetsOnAll port s1))))

/-! ## Warm and power-on reset (R544; 19_clocks_startup R581, R582) -/

/-- What the weight store keeps: its content and its journal; its registers and counters return to their reset values. -/
def keptStore (s : State) : Wst :=
  let d : Wst := {}
  let w := (dropStore s).wst
  { w with
    changed := [], tempChanged := [], erasing := [], tlcLimitK := d.tlcLimitK, pslcLimitK := d.pslcLimitK,
    intervalH := d.intervalH, berRefresh := d.berRefresh, patrolEnable := d.patrolEnable, pgmDies := d.pgmDies,
    pgmDiesEff := d.pgmDiesEff, running := 0, events := 0 }

/-- Its counters survive, with the blocks a patrol pass after an unknown off time has still to visit (03_weight_store R121, R131);
`cold`, rebuilds and relocations start at 0: 20_register_map R594 gives 0 at a power-on reset (DEDUCED, log entry 31). -/
def keptStoreMore (cold : Bool) (s : State) : WstMore :=
  let m := (dropStore s).wstMore
  { retired := m.retired, spareLowDies := m.spareLowDies, unusableMib := m.unusableMib, cleanShutdown := m.cleanShutdown,
    rebuilds := if cold then 0 else m.rebuilds, relocations := if cold then 0 else m.relocations,
    patrolLeft := if m.mountPatrol && !cold then m.patrolLeft else [], mountPatrol := m.mountPatrol && !cold, segment := m.segment,
    offSince := m.offSince, offTemp := m.offTemp }

/-- What the firmware slots keep; a slot that was loading is empty again (R527), a hand-over is given up (R532). -/
def keptFwu (s : State) : Fwu :=
  let w := s.fwu
  let loading := decide (w.state = .loading)
  { slots := if loading then setAt (1 - w.active) {} w.slots else w.slots
    active := w.active
    state := if loading then .empty else if w.state = .activating then .loaded else w.state
    len4k := w.len4k
    recv := if loading then [] else w.recv
    loader := w.loader
    minSecVer := w.minSecVer
    secVer := w.secVer }

/-- Draw the hash keys of the 16 share groups (07_attention_kv ATN_KEY_g). -/
def drawKeys (s : State) : State :=
  drawn 16 { s with atn := { s.atn with keys := (List.range 16).map (fun i => Config.freeNat (s.free + i) % hashMod) } }

/-- The drone through a warm reset: its commands are gone, its preload passes too. -/
def keptDrone (s : State) : Drone :=
  { s.drone with waitingCfg := [], replays := [], plans := s.drone.plans.map (fun p => { p with preload := none }) }

/-- Security state that a warm reset keeps: the lifecycle, and the refusal of debug requests. -/
def keptSec (s : State) : Sec :=
  let c := s.sec
  { State.reset.sec with
    lifecycle := c.lifecycle, keysHeld := c.keysHeld, dbgFails := c.dbgFails, granted := c.granted,
    dbgState := if c.lifecycle = .unlocked then c.dbgState else 0 }

/-- The counters and records of PEG_ that only a power-on reset clears, and the rails that are up. -/
def keptPwr (s : State) : Pwr :=
  let p := s.pwr
  { State.reset.pwr with
    domains := (State.reset.pwr.domains).mapIdx (fun d x => if d = 12 then domainOf s 12 else x)
    railEnable := p.railEnable, railGood := p.railGood, trainValid := p.trainValid, trainTemp := p.trainTemp,
    trainFallbacks := p.trainFallbacks, warmUses := p.warmUses, wakeSrc := p.wakeSrc }

/-- The whole device but what the power-on reset itself keeps: weight-store content, journal, fuses. -/
def afterPowerOn (s : State) : State :=
  { State.reset with
    ident := { s.ident with fwMajor := 0, fwMinor := 0, fwBuild := 0 }
    mem := { s.mem with dev := [] }
    irq := { State.reset.irq with sent := s.irq.sent }
    wst := keptStore s
    wstMore := keptStoreMore true s
    fwu := keptFwu s
    free := s.free
    pending := s.pending }

/-- Both ports' pins are not the device's: PERST_N stays as the hosts drive it. -/
def keptPorts (s : State) : Ports :=
  { State.reset.port with ports := (List.range 2).map (fun p => { (State.reset.port.ports.getD p {}) with perst := (portSt s p).perst }) }

/-- What a warm reset makes of the device (R544). -/
def afterWarm (cause rail : Nat) (s : State) : State :=
  let s1 := afterPowerOn s
  { s1 with
    now := s.now
    drone := keptDrone s
    sec := keptSec s
    pwr := keptPwr s
    wstMore := keptStoreMore false s
    port := keptPorts s
    capoMore := { s1.capoMore with sensors := s.capoMore.sensors }
    rst := { cause := cause, rail := rail, warmCount := satAdd 16 s.rst.warmCount 1, portCount := s.rst.portCount, flr := s.rst.flr }
    clk := { fault := s.clk.fault, last := s.clk.last, aonFailed := s.clk.aonFailed, rtcFailed := s.clk.rtcFailed,
             running := s.clk.running &&& 2 ^ 22 + 2 ^ 23 + 2 ^ 24, offUnknown := s.clk.offUnknown, offWindows := 0 }
    pins := { s1.pins with supplied := true } }

/-- Start the device: every domain target is ON, so every domain comes up (13_power_domains R430, R441 code 6). -/
def startDevice (cold : Bool) (s : State) : State :=
  let s1 := drawKeys { s with clk := { s.clk with stage := 1, started := true, cold := cold, fullUs := 0, startAt := s.now } }
  settlePower (some (6, b2n (!cold))) (suspendPort 1 (suspendPort 0 s1))

/-- A warm reset (R544), and the warm start that follows it (19_clocks_startup R582). -/
def warmReset (cause rail : Nat) (s : State) : State :=
  if s.pins.supplied then startDevice false (afterWarm cause rail s) else s

/-- The power-on reset holds the part until its supplies are valid (19_clocks_startup R579). -/
def holdPowerOn (s : State) : State := { afterPowerOn s with port := keptPorts s }

/-- SUPPLIES_VALID: a cold start (19_clocks_startup R579, R581). -/
def execSuppliesValid (s : State) : Res :=
  ok (if s.pins.supplied then s else
    let s1 := afterPowerOn s
    startDevice true { s1 with
      rst := { s1.rst with cause := 1 }
      port := keptPorts s
      clk := { s1.clk with running := 2 ^ 22 + 2 ^ 23 }
      pins := { s1.pins with supplied := true } })

/-- RESET_N_ASSERT. -/
def execResetNAssert (s : State) : Res := ok (warmReset 2 0 s)

/-- RST_CTRL_WARM: with its key, from a port that `warm_ports` allows. -/
def execRstCtrlWarm (func value : Nat) (s : State) : Res :=
  regWrite func 12 s <|
  ok (when (isPhys func && bit value 0 && bf value 15 8 == 0x5A && bit s.rst.warmPorts (portOf func)) (warmReset 4 0) s)

/-- PEG_WATCHDOG_EXPIRY: the watchdog is paused during a firmware gap. -/
def execPegWatchdogExpiry (s : State) : Res := ok (when (!fwGap s) (warmReset 5 0) s)

/-- JTAG_EXTEST: every key slot is erased, and the logic die is held in reset (16_security R511); it starts again as after
a warm reset. -/
def execJtagExtest (s : State) : Res :=
  ok (let s1 := { s with sec := { s.sec with slots := [] } }
      if s.pins.supplied then let s2 := afterWarm s.rst.cause s.rst.rail s1
        { s2 with clk := { s2.clk with stage := 0, started := false }, rst := s.rst } else s1)

/-! ## Engine reset (R546) -/

/-- A unit is off: a fret's or a string's STRING domain is not ON. -/
def engineRefused (s : State) (isString : Bool) (i : Nat) : Bool :=
  let inRange := decide (i < if isString then 4 else 48)
  let j := if isString then i else i / 12
  s.rst.engine.isSome || !inRange || !domOn s (7 + j) ||
    (decide (s.saf.state = .running) && s.saf.partition.any (fun k => if isString then k / 12 == i else k == i))

/-- The frets of a target. -/
def engineFrets (e : EngineReset) : List Nat := if e.isString then (List.range 12).map (fun n => 12 * e.index + n) else [e.index]

/-- Remove the target from service; its slices are rerun elsewhere. -/
def startEngine (e : EngineReset) (s : State) : State :=
  let runs := (runningSlices s).filter (fun r => r.frets.any (fun i => (engineFrets e).contains i))
  let s1 := runs.foldl (fun t r => rerunQuietly r t) { s with rst := { s.rst with engine := some e } }
  if e.isString then modString e.index (fun x => { x with held := true }) (evictString e.index s1)
  else modFret e.index (fun x => { x with held := true }) (evictString (e.index / 12) s1)

/-- RST_ENGINE_START: a write of `start`; a write that only clears `refused` starts nothing. -/
def execRstEngineStart (func value : Nat) (s : State) : Res :=
  regWrite func 12 s <|
  ok (if !isPhys func then s else
    let s1 := if bit value 30 then { s with rst := { s.rst with refused := false } } else s
    if !bit value 9 then s1 else
    if engineRefused s1 (bit value 8) (bf value 7 0) then { s1 with rst := { s1.rst with refused := true } }
    else settleDispatch (startEngine { isString := bit value 8, index := bf value 7 0 } { s1 with rst := { s1.rst with refused := false } }))

/-- Zero the SRAM of a target. -/
def zeroEngine (e : EngineReset) (s : State) : State :=
  let s1 := (engineFrets e).foldl (fun t i => zeroFret i t) s
  if e.isString then zeroBuffer e.index s1 else s1

/-- ENGINE_RESET_DONE: the target is zeroed and tested; one that passes returns to service without its quarantine, one that
fails is quarantined (01_architecture R30, R36; the manual names no quarantine cause for a string that fails, so no event
reports it). -/
def execEngineResetDone (passed : Bool) (s : State) : Res :=
  ok (match s.rst.engine with
    | none => s
    | some e =>
      let s1 := zeroEngine e { s with rst := { s.rst with engine := none } }
      let s2 := if e.isString then modString e.index (fun x => { x with held := false, quarantined := !passed }) s1 else s1
      let s3 := (engineFrets e).foldl (fun t i => modFret i (fun x =>
        { x with held := false, quarantined := x.quarantined && !passed }) t) s2
      settleDispatch (if passed || e.isString then s3 else quarantineFret e.index s3))

end Sys2Proof.Machine
end

