-- ==== Sys2Proof/Machine/Power.lean ====
section
/-! DEFINITION. Machine/Power.lean: DOMAIN_SET and the events of the power domains' bring-up and power-down
(13_power_domains R424 to R440; 17_firmware_reset R529 to R531; 19_clocks_startup R580, R583; 21_package_electrical
R599). -/

namespace Sys2Proof.Machine
open Sys2Proof

/-! ## DOMAIN_SET (R427 to R429, R433, R436) -/

/-- Entry `d` of a block. -/
def dsEntry (b : Bytes) (d : Nat) : Target4 :=
  { code := byteAt b (8 * d), ret := byteAt b (8 * d + 1), tol := leAt b (8 * d + 2) 2, mask := leAt b (8 * d + 4) 4 }

/-- The first field of an entry that breaks R427 or the first cases of R428. -/
def dsEntryFault (b : Bytes) (d : Nat) : Option Nat :=
  let e := dsEntry b d
  let banked := decide (7 ≤ d) && decide (d ≤ 11)
  let low := (e.code == 2 || e.code == 4) && e.ret == 0
  firstBad [(decide (e.code ≤ 4) && (d != 12 || decide (e.code ≤ 1)) && !(e.code == 4 && [5, 6, 11].contains d), 0),
    (decide (e.ret ≤ if banked then 1 else 0), 1),
    (if e.code = 4 then decide (1 ≤ e.tol) && decide (e.tol ≤ 60000) else e.tol == 0, 2),
    (e.mask == 0 || (banked && low && (d == 11 || decide (e.mask < 65536))), 4)]

/-- The locator of the first field that breaks them. -/
def domainSetFault (b : Bytes) : Option Nat :=
  (List.range 13).findSome? (fun d => (dsEntryFault b d).map (locator 2 d))

/-- The targets of a port after a block. -/
def applyTargets (p : Nat) (b : Bytes) (s : State) : State :=
  { s with pwr := { s.pwr with domains := s.pwr.domains.mapIdx (fun d x =>
      let e := dsEntry b d
      if e.code = 0 then x else
      { x with target := setAt p e.code x.target, retMode := setAt p e.ret x.retMode, tolMs := setAt p e.tol x.tolMs,
               bankMask := setAt p e.mask x.bankMask }) } }

/-- Entries whose target differs from the port's in force (R433). -/
def changedTargets (s : State) (p : Nat) (b : Bytes) : Nat :=
  ofBits ((List.range 13).filter (fun d => (dsEntry b d).code != 0 && (dsEntry b d).code != (targetOf s p d).code))

/-- A block names a domain, and would take it below ON: `t` is the state with the new targets and depths. -/
def takesBelow (t : State) (b : Bytes) (d : Nat) : Bool :=
  (dsEntry b d).code != 0 && (combined t d).code != 1 && decide (lowState t d < 2)

/-- A block names CAMERA and would take it below ON while a bind exists: the bind's demand holds an AUTO target ON (R404, R431, R432). -/
def takesCamera (t : State) (b : Bytes) : Bool := (dsEntry b 4).code != 0 && ((combined t 4).code == 2 || (combined t 4).code == 3)

/-- How a DOMAIN_SET fails (R428, R429). -/
def domainSetFail (s : State) (c : Cmd) : Option Fail :=
  let p := portOf c.func
  let b := c.params
  let t := chooseDepths (applyTargets p b s)
  let code (d : Nat) : Nat := (targetOf t p d).code
  let bare := (List.range 13).find? (fun d => code d == 1 && (requires d).any (fun e => code e == 2 || code e == 3))
  let partStrings := s.saf.partition.map (fun i => 7 + i / 12)
  let losesPart := partStrings.find? (fun d => takesBelow t b d)
  let owner := match inlineBind s with
    | none => true
    | some x => x.func == c.func
  firstFail [(bare.isNone, bad (locator 2 (bare.getD 0) 0)),
    (!((combined t 2).code == 3 && (dsEntry b 2).code != 0 && ddrHeld s), bad (locator 2 2 0)),
    ((dsEntry b (6 - p)).code == 0, fwDenied (locator 2 (6 - p) 0)),
    ((dsEntry b 11).code == 0 || (s.saf.enable && isPhys c.func && portOf s.saf.safetyFunc == p), fwDenied (locator 2 11 0)),
    (!domOn s 11 || losesPart.isNone, fwDenied (locator 2 (losesPart.getD 0) 0)),
    (owner || !takesCamera t b, fwDenied (locator 2 4 0))]

/-- Domains whose effective state a DOMAIN_SET changes: those that left their state, those whose sequence in progress will
be turned round, and the port's own HOST domain when it is to leave ON. -/
def changedStates (s t : State) (p : Nat) : Nat :=
  let wanted := heldDomains t (wantedDomains t)
  ofBits ((List.range 12).filter (fun d =>
    decide (domSt t d ≠ domSt s d) || (decide (domSt t d = .leaving) && wanted.contains d) ||
    (decide (domSt t d = .bringup) && !wanted.contains d && decide (lowState t d < 2)) ||
    (d == 5 + p && domOn t d && !wanted.contains d && decide (lowState t d < 2))))

def runDomainSet (c : Cmd) (s : State) : State :=
  match domainSetFail s c with
  | some e => failCmd c.id e s
  | none =>
    let p := portOf c.func
    let s1 := hostChanged (changedTargets s p c.params) (chooseDepths (applyTargets p c.params s))
    let s2 := settlePower (some (3, c.func)) s1
    settleDispatch (settleDomainSets (modCmd c.id (fun c => { c with phase := .running, aux := [changedStates s s2 p] }) s2))

/-- DOMAIN_SET. -/
def execDomainSet (id : Nat) (s : State) : Res := ok (runReady id 0x67 runDomainSet s)

/-! ## The regulator phase (R434, R580, R599) -/

/-- A domain in a phase of its bring-up. -/
def inPhase (s : State) (d : Nat) (p : BringPhase) : Bool := decide (domSt s d = .bringup) && decide ((domainOf s d).phase = p)
/-- Every power-good of a domain is in. -/
def railsGood (s : State) (d : Nat) : Bool := (enablesOf d).all (bit s.pwr.railGood)

/-- POWER_GOOD: the second enable of a row follows the first one's power-good. -/
def execPowerGood (rail : Nat) (s : State) : Res :=
  unit rail 11 (ok (if !bit s.pwr.railEnable rail then s else
    let s1 := { s with pwr := { s.pwr with railGood := putBit s.pwr.railGood rail true } }
    let s2 := [2, 3].foldl (fun t d => if inPhase t d .regulator then assertEnables d t else t) s1
    { s2 with pwr := { s2.pwr with pgMissing := ofBits ((maskBits 13 s2.pwr.pgMissing).filter (fun d => !railsGood s2 d)) } }))

/-- POWER_GOOD_TIMEOUT: during start-up the domain is reported; it stays in BRINGUP. -/
def execPowerGoodTimeout (rail : Nat) (s : State) : Res :=
  unit rail 11 (ok (if bit s.pwr.railEnable rail && !bit s.pwr.railGood rail && s.clk.started && decide (s.clk.stage < 6) then
    (let late := ofBits ((List.range 12).filter (fun d => inPhase s d .regulator && (enablesOf d).contains rail))
     { s with pwr := { s.pwr with pgMissing := s.pwr.pgMissing ||| late } })
    else s))

/-- POWER_SWITCH_READY: the regulator phase ends. -/
def execPowerSwitchReady (domain : Nat) (s : State) : Res :=
  unit domain 13 (ok (when (inPhase s domain .regulator && railsGood s domain) (modDomain domain (fun x => { x with phase := .clock })) s))

/-! ## The clock phase -/

/-- Clock domains of a power domain (19_clocks_startup R572). -/
def clocksOf (d : Nat) : List Nat :=
  match d with
  | 0 => [6]
  | 1 => [4]
  | 2 => [9]
  | 3 => [5, 10]
  | 4 => [8]
  | 5 => [7, 11]
  | 6 => [7, 12]
  | 7 => [0]
  | 8 => [1]
  | 9 => [2]
  | 10 => [3]
  | 11 => [13]
  | _ => []

def startClocks (d : Nat) (s : State) : State := { s with clk := { s.clk with running := s.clk.running ||| ofBits (clocksOf d) } }
/-- Stop a domain's clocks; HIF_CLK runs while either HOST domain is on. -/
def stopClocks (d : Nat) (s : State) : State :=
  let other := domOn s (11 - d)
  { s with clk := { s.clk with running := clearBits s.clk.running (ofBits ((clocksOf d).filter (fun k => k != 7 || !other))) } }

/-- CLOCK_LOCK. -/
def execClockLock (domain : Nat) (s : State) : Res :=
  unit domain 13 (ok (when (inPhase s domain .clock) (fun s => startClocks domain (modDomain domain (fun x => { x with phase := .memory }) s)) s))

/-! ## The memory phase (R424, R440) -/

/-- Zero the banks of a mask on a string's frets. -/
def zeroBanks (j mask : Nat) (s : State) : State :=
  (List.range 12).foldl (fun t n => (maskBits 16 mask).foldl (fun t b => zeroDev (bankBase (12 * j + n) b) 0x40000 t) t) s

/-- Retained banks that are lost. -/
def lostBanks (d mask : Nat) (s : State) : State :=
  let x := domainOf s d
  let lost := mask &&& (if d = 0 then 0xFFFF else x.kept)
  if !x.fromRet || x.regSave || lost == 0 || !(([0, 7, 8, 9, 10, 11] : List Nat).contains d) then s else
  let s1 := { s with pwr := { s.pwr with events := s.pwr.events ||| 1 } }
  if d = 0 then modDomain 0 (fun x => { x with fromRet := false }) s1
  else if d = 11 then { s1 with safMore := { s1.safMore with island := [] } }
  else zeroBanks (d - 7) lost ((maskBits 16 lost).foldl (fun t b => evictBank (d - 7) b t) s1)

/-- DDR comes up from OFF: saved training is used, or the device trains and stores the new values. -/
def trainDdr (found : MemoryPhase) (s : State) : State :=
  let p := s.pwr
  let near := decide (p.trainTemp - 30 ≤ found.stackTemp) && decide (found.stackTemp ≤ p.trainTemp + 30)
  if p.trainValid && found.savedTrainingOk && near then { s with pwr := { p with warmUses := satAdd 16 p.warmUses 1 } }
  else
    chooseDepths { s with pwr :=
      { p with
        events := if p.trainValid then p.events ||| 2 else p.events
        trainFallbacks := if p.trainValid then satAdd 16 p.trainFallbacks 1 else p.trainFallbacks
        trainValid := true
        trainTemp := found.stackTemp } }

/-- MEMORY_PHASE_DONE: it starts only when every prerequisite is ON. -/
def execMemoryPhaseDone (domain : Nat) (found : MemoryPhase) (s : State) : Res :=
  unit domain 13 (ok (if !inPhase s domain .memory || !(requires domain).all (domOn s) then s else
    let s1 := lostBanks domain found.lostBanks s
    let s2 := if domain = 2 ∧ (domainOf s1 2).fromRet = false then trainDdr found s1 else s1
    modDomain domain (fun x => { x with phase := .logic }) s2))

/-! ## The logic phase (R425, R434) -/

/-- DDR5 loses its content. -/
def loseDdr (s : State) : State := zeroDev 0 ddrEnd s

/-- A register save area failed its CRC: the domain comes up as from OFF, BRIDGE with its firewalls shut. -/
def restoreFailed (d : Nat) (s : State) : State :=
  let s1 := { s with pwr := { s.pwr with events := s.pwr.events ||| 4, firewallShut := s.pwr.firewallShut || d == 1 } }
  let s2 := modDomain d (fun x => { x with fromRet := false }) s1
  if d = 2 then loseDdr s2 else if d = 3 then { s2 with wstMore := offBegins s2 s2.wstMore } else s2

/-- The last stage reached of a start (PEG_START_STATUS). -/
def reachStage (n : Nat) (s : State) : State := { s with clk := { s.clk with stage := max n s.clk.stage } }

/-- What a domain does as it comes ON: MGMT from OFF boots, FLASH mounts. -/
def domainUp (d : Nat) (s : State) : State :=
  match d with
  | 0 => if (domainOf s 0).fromRet then s else
    let s1 := reachStage 2 (boot s)
    if s1.fwu.recovery then s1 else reachStage 3 s1
  | 2 => reachStage 4 s
  | 3 => reachStage 5 (mountKeys (mountStore s))
  | _ => s

/-- Verifiers that wait for a string start their switch (11_listening_wake R386). -/
def verifiersSwitch (s : State) : State :=
  (List.range 8).foldl (fun t n => if (planOf t n).state = .verifying then switchVerifier n t else t) s

/-- LOGIC_PHASE_DONE: the domain is ON; a start that the temperature holds waits (21_package_electrical R606). -/
def execLogicPhaseDone (domain : Nat) (saveCrcOk : Bool) (s : State) : Res :=
  unit domain 13 (ok (if !inPhase s domain .logic || s.clk.hot then s else
    let x := domainOf s domain
    let s1 := if x.fromRet && x.regSave && !saveCrcOk then restoreFailed domain s else s
    let s2 := modDomain domain (fun x => { x with state := .on, kept := 0, regSave := false }) (domainUp domain s1)
    settleDispatch (verifiersSwitch (settlePower none s2))))

/-- START_FRET_TEST_DONE: full function (19_clocks_startup R583). -/
def execStartFretTestDone (failed : List Nat) (s : State) : Res :=
  ok (if !s.clk.started || decide (6 ≤ s.clk.stage) || decide (s.clk.stage < 3) || !s.wstMore.mounted ||
      !(List.range 13).all (fun d => (combined s d).code != 1 || domOn s d) then s else
    let s1 := (failed.filter (fun i => decide (i < 48))).foldl (fun t i => quarantineFret i t) s
    settleDispatch { s1 with clk := { s1.clk with stage := 6, fullUs := ((s.now - s.clk.startAt) / 384000) % 2 ^ 32 } })

/-! ## Power-down (R435) -/

/-- What a domain holds is finished: no slice runs on a string, the image pipeline has no pass and no frame in
it, and a HOST domain bound for RETENTION has its link in L1.2. -/
def workDone (s : State) (d : Nat) : Bool :=
  if 7 ≤ d ∧ d ≤ 10 then ((List.range 12).all (fun n => !fretBusy s (12 * (d - 7) + n)))
  else if d = 4 then s.cam.running.isNone && s.cam.binds.all (fun b => b.out.isNone)
  else if (d = 5 ∨ d = 6) ∧ lowState s d = 1 then (portSt s (d - 5)).l1
  else true

/-- Retention of a domain is by register save: every domain but MGMT, and STRING and SAFETY in register mode. -/
def savesRegisters (s : State) (d : Nat) : Bool :=
  if d = 0 then false else if 7 ≤ d ∧ d ≤ 11 then (combined s d).ret == 1 else true

/-- Install work that ends before FLASH or DDR powers down (17_firmware_reset R542). -/
def suspendInstalls (s : State) : State :=
  ((s.wst.installs.filter (fun i => i.state == .open)).map (fun i => i.xfer)).foldl (fun t x => suspendInstall true x t) s

/-- A hand-over keeps the save area to itself: no register-save retention begins meanwhile (17_firmware_reset R529). -/
def saveAreaBusy (s : State) : Bool := match s.fwu.handover with
  | .none => false
  | _ => true

/-- DOMAIN_POWER_DOWN_START. -/
def execDomainPowerDownStart (domain : Nat) (s : State) : Res :=
  unit domain 13 (ok (
    let x := domainOf s domain
    let toRet := decide (lowState s domain = 1)
    if domSt s domain ≠ .leaving ∨ x.goingDown = true ∨ workDone s domain = false ∨ fwGap s = true ∨
      (toRet = true ∧ savesRegisters s domain = true ∧ saveAreaBusy s = true) then s else
    let s1 := if domain = 2 ∨ domain = 3 then suspendInstalls s else s
    let s2 := if domain = 3 then (if toRet then flushDeltas s1 else unmountStore s1) else s1
    modDomain domain (fun x => { x with goingDown := true, toRet := toRet, regSave := toRet && savesRegisters s domain,
                                         kept := if toRet then (combined s domain).mask else 0 }) s2))

/-- HOST goes OFF: the port's state is lost as in a port reset; its targets stay. -/
def loseHost (p : Nat) (s : State) : State :=
  let n := s.rst.portCount
  let t := resetPort p s
  { t with rst := { t.rst with portCount := n } }

/-- What a domain loses on its way to RETENTION or OFF. -/
def domainDown (d : Nat) (s : State) : State :=
  let x := domainOf s d
  if 7 ≤ d ∧ d ≤ 10 then zeroBuffer (d - 7) (zeroBanks (d - 7) (clearBits 0xFFFF (if x.toRet && !x.regSave then x.kept else 0)) s)
  else if d = 11 then
    let s1 := if x.toRet && !x.regSave && x.kept == 2 ^ 32 - 1 then s else { s with safMore := { s.safMore with island := [] } }
    if x.toRet then s1 else unconfigure s1
  else if x.toRet then s
  else if d = 2 then loseDdr s
  else if d = 5 ∨ d = 6 then loseHost (d - 5) s
  else s

/-- Rails of a domain that no other domain uses are dropped, in reverse order (R599). -/
def dropRails (d : Nat) (s : State) : State :=
  let used := (List.range 12).filter (fun e => decide (e ≠ d) && decide (domSt s e ≠ .off))
  let gone := ofBits ((enablesOf d).filter (fun r => !used.any (fun e => (enablesOf e).contains r)))
  { s with pwr := { s.pwr with railEnable := clearBits s.pwr.railEnable gone, railGood := clearBits s.pwr.railGood gone } }

/-- POWER_DOWN_DONE. -/
def execPowerDownDone (domain : Nat) (s : State) : Res :=
  unit domain 13 (ok (
    let x := domainOf s domain
    if domSt s domain ≠ .leaving ∨ x.goingDown = false then s else
    let s1 := domainDown domain s
    let s2 := stopClocks domain (modDomain domain (fun x => { x with state := if x.toRet then .retention else .off, goingDown := false }) s1)
    let s3 := if x.toRet then s2 else dropRails domain s2
    settleAll none s3))

/-- AUTO_IDLE_EXPIRY: an AUTO domain that nothing wants or holds leaves ON (R431). -/
def execAutoIdleExpiry (domain : Nat) (s : State) : Res :=
  unit domain 13 (ok (
    if domOn s domain && isAuto s domain && transitionsRun s && decide (lowState s domain < 2) &&
        decide ((domainOf s domain).idleSince ≠ 0) && !(heldDomains s (wantedDomains s)).contains domain then
      settleAll none (startLeaving domain s)
    else s))

/-- DDR_TRAIN_INVALIDATE: PEG_DDR_TRAIN `invalidate`. -/
def execDdrTrainInvalidate (func : Nat) (s : State) : Res :=
  regWrite func 7 s <|
  ok (when (isPhys func) (fun s => chooseDepths { s with pwr := { s.pwr with trainValid := false } }) s)

/-! ## The end of a firmware gap (17_firmware_reset R529, R531) -/

/-- A HOST domain in RETENTION whose link has left L1.2 comes up: wake source 5 (13_power_domains R441). -/
def wakeHost (s : State) (p : Nat) : State :=
  if transitionsRun s && decide (domSt s (5 + p) = .retention) && (portSt s p).linkUp && !(portSt s p).l1 then
    startBringup (5 + p) (recordWake 5 p s)
  else s

/-- The gap ends; the transitions that waited may start (R530). -/
def gapEnds (s : State) : State := settleDispatch (settlePower none ([0, 1].foldl wakeHost s))

/-- HANDOVER_TAKEOVER. -/
def execHandoverTakeover (snapshotCrcOk : Bool) (s : State) : Res :=
  ok (match s.fwu.handover with
    | .gap id since =>
      let s1 := { s with fwu := { s.fwu with gapMs := gapLength since s } }
      gapEnds (if snapshotCrcOk then takeCharge id s1 else activationFailed id 7 s1)
    | _ => s)

/-- HANDOVER_TIMEOUT: the frozen image resumes. -/
def execHandoverTimeout (s : State) : Res :=
  ok (match s.fwu.handover with
    | .gap id since => gapEnds (activationFailed id 7 { s with fwu := { s.fwu with gapMs := gapLength since s } })
    | _ => s)

end Sys2Proof.Machine
end

