-- ==== Sys2Proof/Machine/Capo.lean ====
section
/-! DEFINITION. Machine/Capo.lean: the power estimate and the bubbles, droop detectors, temperature levels, supply
monitors and dips (14_capo_thermal_supply), the AVSBus check (21_package_electrical R604) and the temperature of a start
(R606), with their rows. -/

namespace Sys2Proof.Machine
open Sys2Proof

def modCapoString (j : Nat) (g : CapoString → CapoString) (s : State) : State :=
  { s with capo := { s.capo with strings := modAt j g s.capo.strings } }
def modRail (r : Nat) (g : Rail → Rail) (s : State) : State :=
  { s with capoMore := { s.capoMore with rails := modAt r g s.capoMore.rails } }
def railOf (s : State) (r : Nat) : Rail := s.capoMore.rails.getD r {}
/-- Bits newly set in CAPO_EVENTS. -/
def capoEvent (bits : Nat) (s : State) : State := { s with capoMore := { s.capoMore with events := s.capoMore.events ||| bits } }

/-! ## The estimate and the bubbles (R444, R447 to R450) -/

/-- One unit of a bubble fraction: fractions are numerators over 2^40. -/
def bubbleScale : Nat := 2 ^ 40
/-- The largest fraction that the cap asks: 14/16. -/
def bubbleMax : Nat := 14 * 2 ^ 36
/-- The clamp of a dip: 3/4. -/
def dipClamp : Nat := 3 * 2 ^ 38

/-- Dynamic power at full duty of a string that had `dyn` mW under the fraction `b`. -/
def fullDuty (dyn b : Nat) : Nat := dyn * bubbleScale / (bubbleScale - b)
/-- Dynamic power that the fraction `b` leaves of `full` mW. -/
def underBubble (full b : Nat) : Nat := full * (bubbleScale - b) / bubbleScale

/-- The string holds the safety partition. -/
def safetyString (s : State) (j : Nat) : Bool := !s.saf.partition.isEmpty && s.saf.partString == j

/-- The smallest fraction that keeps a string's rise within the ramp limit (R450). -/
def rampBubble (full prev ramp : Nat) : Nat :=
  if full ≤ prev + ramp then 0 else min (bubbleScale - 1) (bubbleScale - (prev + ramp) * bubbleScale / full)

/-- The ramp limit governs a string: no hint lifts it, it is off or quarantined, or it climbs back after a dip (R450, R459;
06_streaming_and_fusion R244). -/
def ramped (live : Bool) (x : CapoString) : Bool := !(x.rampLifted && live) || x.climbing

/-- The fraction that the cap asks of the next window (R447): with no dynamic power to divide by, the manual states no
value and it is a free one within the clamp (DESIGN CHOICE, log entry 4). -/
def capBubble (s : State) (p c d : Nat) : Nat :=
  if d = 0 then Config.freeNat s.free % (bubbleMax + 1)
  else (clampInt 0 bubbleMax ((s.capo.bCap : Int) + ((p : Int) - (c : Int)) * bubbleScale / d)).toNat

/-- The 1 ms average of P exceeds C_eff (R449). -/
def overCap (powers : List (Nat × Nat × Nat)) (c : Nat) : Bool := decide (powers.length * c < sumBy (fun x => x.1) powers)

/-- A string's bubbles for the next window. -/
def bubbleString (bCap bClamp ramp : Nat) (live : Bool) (x : CapoString) (est : StringPower) : CapoString :=
  let full := fullDuty est.dynMw x.bubble
  let br := if ramped live x then rampBubble full x.dynMw ramp else 0
  let b := max bCap (max br bClamp)
  { x with dynMw := underBubble full b, leakMw := est.leakMw, bubble := b, hold := ceilDiv (400 * b) bubbleScale
           climbing := x.climbing && decide (br ≠ 0) }

/-- CAPO_TICK: the estimate of one window and the fractions of the next. -/
def execCapoTick (strings : List StringPower) (outsideMw : Nat) (s : State) : Res :=
  ok (
    let est (j : Nat) : StringPower := strings.getD j { dynMw := 0, leakMw := 0 }
    let inStrings := sumBy (fun j => (est j).dynMw + (est j).leakMw) (List.range 4)
    let p := (inStrings + outsideMw) * s.capoMore.scale / 1000
    let c := effCap s * 100
    let d := sumBy (fun j => if safetyString s j then 0 else fullDuty (est j).dynMw (s.capo.strings.getD j {}).bubble) (List.range 4)
    let powers := (p, c, inStrings) :: s.capo.powers.take 999
    let excess := overCap powers c
    let b := if s.capo.bCap = bubbleMax ∧ excess = true then bubbleMax else capBubble s p c d
    let next := s.capo.strings.mapIdx (fun j x => bubbleString b s.capo.bClamp (s.capo.rampDw * 100) (stringIn s j) x (est j))
    let s1 := { s with
      capo := { s.capo with
        bCap := b, strings := next, outsideMw := outsideMw, powers := powers
        holds := next.map (fun x => x.hold) :: s.capo.holds.take 999 } }
    let s2 := if d = 0 then drawn 1 s1 else s1
    if b = bubbleMax ∧ excess = true then capoEvent 1 s2 else s2)

/-! ## The flash program budget (R451) -/

/-- T_nand (R455). -/
def nandLimit (s : State) : Nat :=
  if bit s.capoMore.levels 9 || bit s.capoMore.levels 10 then 0
  else if bit s.capoMore.levels 8 then s.wst.pgmDies / 2 else s.wst.pgmDies

/-- The excess over the cap, averaged over the last 100 µs, in mW. -/
def excessMw (s : State) : Nat :=
  let l := s.capo.powers.take 100
  let e : Int := l.foldl (fun a x => a + ((x.1 : Int) - (x.2.1 : Int))) 0
  if l.isEmpty then 0 else (e / (l.length : Int)).toNat

/-- `pgm_dies_eff`. -/
def programBudget (s : State) : Nat :=
  if s.capo.dip || s.capo.holdoff then 0
  else min s.wst.pgmDies (min (nandLimit s) (max s.capo.pgmFloor (s.wst.pgmDies - ceilDiv (excessMw s) 150)))

def setBudget (s : State) : State := grantPrograms { s with wst := { s.wst with pgmDiesEff := programBudget s } }

/-- PGM_BUDGET_TICK. -/
def execPgmBudgetTick (s : State) : Res := ok (setBudget s)

/-- AVS_CURRENT_CHECK (21_package_electrical R604): P is scaled so that its average is not below the measured power. -/
def execAvsCurrentCheck (measuredMw : Nat) (s : State) : Res :=
  ok (let n := s.capo.powers.length
      let share := sumBy (fun x => x.2.2) s.capo.powers
      if n = 0 ∨ share = 0 then s else
      { s with capoMore := { s.capoMore with scale := max 1000 (ceilDiv (measuredMw * n * 1000) share) } })

/-! ## Droop detectors (R452, R453) -/

/-- The stretch of a detector level, in percent. -/
def stretchOf (level : Nat) : Nat := if level = 0 then 0 else if level = 1 then 25 else 100

/-- The stretch of a string's clocks: the larger of its droop stretch and the one of a dip (R458, R461). -/
def clockStretch (s : State) (j : Nat) : Nat :=
  max (s.capo.strings.getD j {}).stretch (if s.capo.dip && stringIn s j then 100 else 0)

/-- DROOP_CROSSING. -/
def execDroopCrossing (string detector level : Nat) (s : State) : Res :=
  unit string 4 (unit detector 8 (ok (when (level == 1 || level == 2) (modCapoString string (fun x =>
    { x with
      detectors := modAt detector (max level) x.detectors
      stretch := max x.stretch (stretchOf level)
      l1 := if level = 1 then wrapAdd 32 x.l1 1 else x.l1
      l2 := if level = 2 then wrapAdd 32 x.l2 1 else x.l2 })) s)))

/-- DROOP_RECOVERY: the last detector recovered 64 cycles ago. -/
def execDroopRecovery (string : Nat) (s : State) : Res :=
  unit string 4 (ok (modCapoString string (fun x => { x with detectors := List.replicate 8 0, stretch := 0 }) s))

/-- A stuck detector quarantines its string. -/
def stuckDetector (j : Nat) (s : State) : State := quarantineString j 2 (capoEvent 32 s)

/-- DROOP_STUCK. -/
def execDroopStuck (string detector : Nat) (s : State) : Res :=
  unit string 4 (unit detector 8 (ok (if ((s.capo.strings.getD string {}).detectors.getD detector 0) = 2
    then settleDispatch (stuckDetector string s) else s)))

/-- DROOP_SELF_CHECK. -/
def execDroopSelfCheck (failed : List (Nat × Nat)) (s : State) : Res :=
  ok (settleDispatch ((failed.filter (fun x => decide (x.1 < 4 ∧ x.2 < 8))).foldl (fun t x => stuckDetector x.1 t) s))

/-! ## Temperature (R454, R455) -/

/-- The sensors of the group of a level. -/
def levelSensors (l : Nat) : List Nat :=
  if l ≤ 4 then List.range 51 else if l ≤ 7 then [51, 52, 53, 54] else (List.range 8).map (fun n => 55 + n)

/-- The temperature of a level in 0.1 °C. -/
def levelTemp (s : State) (l : Nat) : Int :=
  match l with
  | 1 => s.capo.tjWarn * 10
  | 2 => s.capo.tjThrottle * 10
  | 3 => 1250
  | 4 => 1300
  | 5 => 850
  | 6 => 950
  | 7 => 1050
  | 8 => 950
  | 9 => 1050
  | _ => 1150

def sensorTemp (s : State) (n : Nat) : Int := (s.capoMore.sensors.getD n {}).temp

/-- THERMAL `info` (R462). -/
def thermalInfo (sensor : Nat) (temp : Int) (ended : Bool) : Nat := ofSigned 16 temp + sensor * 2 ^ 16 + b2n ended * 2 ^ 24

/-- A level that sets the thermal cap to 15 W is in force: CRITICAL of any group. -/
def criticalLevel (s : State) : Bool := [3, 7, 10].any (bit s.capoMore.levels)

/-- A TRIP: every domain but DRONE loses its supplies at once. -/
def tripDevice (s : State) : State :=
  let s1 := dropStore (loseHost 1 (loseHost 0 s))
  let s2 := (List.range 12).foldl (fun t d =>
    stopClocks d (modDomain d (fun x => { x with state := .off, goingDown := false, toRet := false })
      (domainDown d (modDomain d (fun x => { x with toRet := false }) (if domOn t d then startLeaving d t else t))))) s1
  { s2 with pwr := { s2.pwr with railEnable := 0, railGood := 0 }, pins := { s2.pins with thermTripN := false } }

/-- What entering a level does. -/
def levelAction (l sensor : Nat) (s : State) : State :=
  if l = 3 ∨ l = 7 ∨ l = 10 then settleHints { s with capo := { s.capo with thermalCap := some 150 } }
  else if l = 4 then tripDevice (if sensor = 50 then pinsLow (latch 10 s) else s)
  else if l = 5 then { s with capoMore := { s.capoMore with refreshHalved := true } }
  else s

/-- A level is entered: bit, event, action. -/
def enterLevel (sensor : Nat) (t : Int) (s : State) (l : Nat) : State :=
  if bit s.capoMore.levels l || decide (t < levelTemp s l) then s else
  let s1 := capoEvent 2 { s with capoMore := { s.capoMore with levels := putBit s.capoMore.levels l true } }
  levelAction l sensor (postBoth 0x0021 l (thermalInfo sensor t false) 0xFFFF s1)

/-- The levels of a sensor's group, lowest first. -/
def levelsOf (sensor : Nat) : List Nat := if sensor ≤ 50 then [1, 2, 3, 4] else if sensor ≤ 54 then [5, 6, 7] else [8, 9, 10]

/-- The level in force that CAPO_TEMP shows for a sensor. -/
def sensorLevel (s : State) (sensor : Nat) : Nat :=
  if sensor < 63 then ((levelsOf sensor).filter (bit s.capoMore.levels)).foldl max 0 else 0

/-- A start at or above 125 °C is held until every logic sensor reads below 120 °C (21_package_electrical R606). -/
def holdStart (s : State) : State :=
  if s.clk.started && decide (s.clk.stage < 6) && (List.range 51).any (fun n => decide (1250 ≤ sensorTemp s n)) then
    { s with clk := { s.clk with hot := true } }
  else if (List.range 51).all (fun n => decide (sensorTemp s n < 1200)) then { s with clk := { s.clk with hot := false } } else s

/-- TEMP_SAMPLE. -/
def execTempSample (sensor : Nat) (deciC : Int) (s : State) : Res :=
  unit sensor 63 (ok (
    let s1 := { s with
      capoMore := { s.capoMore with sensors := modAt sensor (fun x =>
        { read := true, temp := deciC, peak := if x.read then max x.peak deciC else deciC }) s.capoMore.sensors }
      wstMore := { s.wstMore with
        minuteTemp := if 55 ≤ sensor then some (max deciC (s.wstMore.minuteTemp.getD deciC)) else s.wstMore.minuteTemp } }
    (levelsOf sensor).foldl (enterLevel sensor deciC) (holdStart s1)))

/-- THERMAL_CAP_STEP: the cap falls by 5 W under THROTTLE, and rises by 5 W up to C once it has ended. -/
def execThermalCapStep (s : State) : Res :=
  ok (let cap := s.capo.thermalCap.getD s.capo.cap
      let t := if criticalLevel s then some 150
        else if bit s.capoMore.levels 2 then some (max 150 (cap - 50))
        else if s.capo.thermalCap.isNone || decide (s.capo.cap ≤ cap + 50) then none else some (cap + 50)
      settleHints { s with capo := { s.capo with thermalCap := t } })

/-- The hottest sensor of a group. -/
def hottest (s : State) (l : Nat) : Nat := (argMax (sensorTemp s) (levelSensors l)).getD 0

/-- THERMAL_LEVEL_EXIT: every sensor of the group reads at least 5 °C below the level; a TRIP does not end. -/
def execThermalLevelExit (level : Nat) (s : State) : Res :=
  ok (if !bit s.capoMore.levels level || level == 4 || decide (level < 1) || decide (10 < level) ||
      !(levelSensors level).all (fun n => decide (sensorTemp s n + 50 ≤ levelTemp s level)) then s else
    let s1 := { s with capoMore := { s.capoMore with
      levels := putBit s.capoMore.levels level false
      refreshHalved := s.capoMore.refreshHalved && level != 5 } }
    postBoth 0x0021 level (thermalInfo (hottest s level) (sensorTemp s (hottest s level)) true) 0xFFFF s1)

/-! ## Supply monitors and dips (R456 to R461) -/

/-- A warning crossing of the rail starts a dip (R458). -/
def dipRail (r : Nat) : Bool := decide (r ≤ 5) || (decide (8 ≤ r) && decide (r ≤ 12))

/-- Some rail that starts dips is below its warning level. -/
def railsBelow (s : State) : Bool := (List.range 18).any (fun r => dipRail r && (railOf s r).below)

/-- A dip begins: its start counts towards a storm (R461). -/
def beginDip (s : State) : State :=
  let starts := nowUs s :: s.capoMore.dipStarts.filter (fun t => decide (nowUs s < t + 1000000))
  let storm := decide (s.capo.stormCount ≤ starts.length)
  let s1 := settleHints { s with
    capo := { s.capo with stormCap := s.capo.stormCap || storm }
    capoMore := { s.capoMore with dipStarts := starts, dipTime := nowUs s % 2 ^ 32 } }
  if storm && !s.capo.stormCap then capoEvent 8 s1 else s1

/-- A dip runs: clocks stretched, the clamp in force, no flash program or erase. -/
def enterDip (s : State) : State :=
  let s1 := if s.capo.dip || s.capo.holdoff then s else beginDip s
  setBudget (capoEvent 4 { s1 with capo := { s1.capo with dip := true, holdoff := false, bClamp := dipClamp } })

/-- SUPPLY_WARNING_CROSSING. -/
def execSupplyWarningCrossing (rail mv : Nat) (s : State) : Res :=
  unit rail 18 (ok (
    let s1 := modRail rail (fun x =>
      { x with below := true, resetHit := x.below && x.resetHit, now := mv, minMv := min x.minMv mv, warnings := satAdd 16 x.warnings 1 }) s
    if dipRail rail then enterDip s1 else s1))

/-- SUPPLY_DIP `info` (R462). -/
def dipInfo (minMv belowUs : Nat) (reset storm : Bool) : Nat :=
  minMv % 2 ^ 16 + min 255 belowUs * 2 ^ 16 + b2n reset * 2 ^ 24 + b2n storm * 2 ^ 25

/-- SUPPLY_RECOVERED: the hold-off starts when every rail has recovered; every warning crossing is reported. -/
def execSupplyRecovered (rail mv minMv belowUs : Nat) (s : State) : Res :=
  unit rail 18 (ok (if !(railOf s rail).below then s else
    let hit := (railOf s rail).resetHit
    let s1 := modRail rail (fun x => { x with below := false, resetHit := false, now := mv, minMv := min x.minMv minMv }) s
    let s2 := if !dipRail rail then s1 else
      { s1 with
        capo := if railsBelow s1 then s1.capo else { s1.capo with holdoff := s1.capo.dip || s1.capo.holdoff, dip := false }
        capoMore := { s1.capoMore with dipDur := min 255 belowUs, dipRail := rail, dipMin := minMv % 2 ^ 16 } }
    let s3 := if rail = 6 then { s2 with safMore := { s2.safMore with inReset := false } } else s2
    postBoth 0x0020 rail (dipInfo minMv belowUs hit s3.capo.stormCap) 0xFFFF s3))

/-- DIP_HOLDOFF_EXPIRY: the arrays climb back under the ramp limit, suspended programs and erases resume (R459). -/
def execDipHoldoffExpiry (s : State) : Res :=
  ok (if !s.capo.holdoff then s else
    setBudget { s with
      capo := { s.capo with holdoff := false, bClamp := 0, strings := s.capo.strings.map (fun x => { x with climbing := true }) }
      wstMore := { s.wstMore with suspended := [] } })

/-- STORM_CAP_END. -/
def execStormCapEnd (s : State) : Res :=
  ok (when (!s.capo.dip) (fun s => settleHints { s with capo := { s.capo with stormCap := false } }) s)

/-- Units whose weight-store part is being read, with their passes. -/
def storeReads (s : State) : List (Nat × Nat) :=
  s.stream.passes.flatMap (fun p => ((List.range p.units.length).filter (fun i => storeWaits s p.id i)).map (fun i => (p.id, i)))

/-- A FLASH fault (R457): programs and erases in flight fail, reads in flight end FLASH_LATE, and the FLASH domain is
taken off and comes up again through its mount. -/
def flashFault (s : State) : State :=
  let s1 := capoEvent 16 s
  let s2 := (storeReads s1).foldl (fun t x => failPass x.1 x.2 stFlashLate t) s1
  let dests := s2.wst.relocs.filterMap (fun r => r.dest)
  let s3 := suspendInstalls s2
  let lost := dests ++ s3.wst.erasing
  let s4 := lost.foldl (fun t k => retireBlock k t)
    { s3 with wst := { s3.wst with relocs := s3.wst.relocs.map (fun r => { r with dest := none }) } }
  let s5 := stopClocks 3 (modDomain 3 (fun x => { x with state := .off, goingDown := false, toRet := false }) (dropStore s4))
  settlePower none (dropRails 3 s5)

/-- The safety island is held in reset by its supply: safe state, and the stream is unconfigured (R456 rail 6). -/
def islandReset (s : State) : State :=
  let s1 := unconfigure (safetyLeavesOn s)
  { s1 with safMore := { s1.safMore with inReset := true, island := [] } }

/-- SUPPLY_RESET_CROSSING: the action of the rail (R456, R460). -/
def execSupplyResetCrossing (rail mv : Nat) (s : State) : Res :=
  unit rail 18 (ok (
    let s1 := modRail rail (fun x => { x with resetHit := true, now := mv, minMv := min x.minMv mv, resets := satAdd 16 x.resets 1 }) s
    if rail ≤ 3 then settleDispatch (quarantineString rail 5 s1)
    else if rail = 6 then islandReset s1
    else if rail = 7 then holdPowerOn s1
    else if rail = 11 ∨ rail = 12 then dispatch (settleStream (flashFault s1))
    else if rail = 13 ∨ rail = 14 then portReset 0 s1
    else if rail = 15 ∨ rail = 16 then portReset 1 s1
    else if rail = 17 then endFrames true (s1.cam.binds.map (fun b => b.id)) s1
    else warmReset 3 rail s1))

end Sys2Proof.Machine
end

