-- ==== Sys2Proof/Machine/Clocks.lean ====
section
/-! DEFINITION. Machine/Clocks.lean: the clock monitors and what a faulty clock does (19_clocks_startup R576, R577;
15_functional_safety R469), with their rows. -/

namespace Sys2Proof.Machine
open Sys2Proof

/-- Record a clock fault: its bit, the last faulty domain, and its running bit. -/
def noteFault (k : Nat) (s : State) : State :=
  { s with clk := { s.clk with fault := putBit s.clk.fault k true, last := k, running := putBit s.clk.running k false } }

/-- A fault of the island's clock or of the root PLL: `clk_mon`, and the fault state latches with cause 5 (R469). -/
def clockLatch (s : State) : State := latch 5 { s with safMore := { s.safMore with events := s.safMore.events ||| 128 } }

/-- The root PLL is lost: domains 0 to 8 stop. -/
def rootLost (s : State) : State :=
  let s1 := clockLatch s
  { s1 with clk := { s1.clk with running := clearBits s1.clk.running (2 ^ 9 - 1) } }

/-- The result of one faulty clock. Domains 4 to 8 are divided from the root and keep its phase: their fault is the root's. -/
def clockFault (s : State) (k : Nat) : State :=
  let s1 := noteFault k s
  if k ≤ 3 then quarantineString k 3 s1
  else if k ≤ 8 then rootLost s1
  else if k = 9 then loseDdr s1
  else if k = 10 then settleStream (flashFault s1)
  else if k = 11 then portReset 0 s1
  else if k = 12 then portReset 1 s1
  else if k = 13 then pinsLow (clockLatch s1)
  else s1

/-- The faults of a set of clocks: with the root lost, the strings' clocks stop with it and no string is quarantined. -/
def clockFaults (l : List Nat) (s : State) : State :=
  let root := l.any (fun k => decide (4 ≤ k) && decide (k ≤ 8))
  settleDispatch (l.foldl (fun t k => if root && decide (k ≤ 3) then noteFault k t else clockFault t k) s)

/-- CLOCK_MONITOR_WINDOW: a running clock off by more than 1 % in two windows in a row is faulty. -/
def execClockMonitorWindow (off : List Nat) (s : State) : Res :=
  ok (let now := ofBits (off.filter (fun k => decide (k < 14) && bit s.clk.running k))
      let l := (maskBits 14 now).filter (bit s.clk.offWindows)
      clockFaults l { s with clk := { s.clk with offWindows := now } })

/-- AON_CLK is faulty: capture and detector stop with `pdm_fault`, device time runs on from RTC_CLK. -/
def aonFault (s : State) : State :=
  let s1 := noteFault 22 s
  drnEvent 1 { s1 with clk := { s1.clk with aonFailed := true } }

/-- RTC_CLK is faulty: the off time of the next mount is unknown. -/
def rtcFault (s : State) : State :=
  let s1 := noteFault 23 s
  { s1 with clk := { s1.clk with rtcFailed := true, offUnknown := true } }

/-- AON_RTC_MONITOR_WINDOW. -/
def execAonRtcMonitorWindow (aonOff rtcOff : Bool) (s : State) : Res :=
  ok (let s1 := { s with clk := { s.clk with offAon := aonOff, offRtc := rtcOff } }
      let s2 := if aonOff && s.clk.offAon && !s.clk.aonFailed then aonFault s1 else s1
      if rtcOff && s.clk.offRtc && !s.clk.rtcFailed then rtcFault s2 else s2)

/-- The clock domains that a PLL feeds. -/
def pllClocks : Pll → List Nat
  | .root => [0, 1, 2, 3, 4, 5, 6, 7, 8]
  | .ddr => [9]
  | .flash => [10]
  | .pcieA => [11]
  | .pcieB => [12]
  | .safety => [13]

/-- PLL_LOSS_OF_LOCK: every running clock of the PLL is faulty. -/
def execPllLossOfLock (pll : Pll) (s : State) : Res :=
  ok (clockFaults ((pllClocks pll).filter (bit s.clk.running)) s)

end Sys2Proof.Machine
end

