-- ==== Sys2Proof/Machine/Ports.lean ====
section
/-! DEFINITION. Machine/Ports.lean: links, PCIe errors, function power states, interrupts' masks, the PTM dialogue and the
BAR4 window (18_host_ports R549 to R570), with their rows. -/

namespace Sys2Proof.Machine
open Sys2Proof

/-! ## The link (R549, R562, R564) -/

/-- LINK_UP: the link is in L0 at a trained speed and width, and configuration requests complete (step 3 of R564). -/
def execLinkUp (port speed width : Nat) (s : State) : Res :=
  unit port 2 (ok (
    let x := portSt s port
    if x.perst || !domOn s (5 + port) || decide (speed < 1) || decide (5 < speed) || !([1, 2, 4].contains width) then s else
    let s1 := modPort port (fun x => { x with linkUp := true, l1 := false, speed := speed, width := width, cfgReady := true }) s
    { s1 with clk := { s1.clk with running := putBit s1.clk.running (11 + port) true } }))

/-- LINK_RECOVERY. -/
def execLinkRecovery (port : Nat) (s : State) : Res :=
  unit port 2 (ok (when (portSt s port).linkUp (modPort port (fun x => { x with l1 := false, recoveries := satAdd 16 x.recoveries 1 })) s))

/-- ASPM_L1_REQUEST. -/
def execAspmL1Request (port : Nat) (s : State) : Res :=
  unit port 2 (ok (when ((portSt s port).linkUp && (portSt s port).aspmL1) (modPort port (fun x => { x with l1 := true })) s))

/-- LINK_L1_EXIT: a HOST domain in RETENTION comes up (13_power_domains R441). -/
def execLinkL1Exit (port : Nat) (s : State) : Res :=
  unit port 2 (ok (if !(portSt s port).l1 then s else
    settleDispatch (settlePower none (wakeHost (modPort port (fun x => { x with l1 := false }) s) port))))

/-! ## Errors (R560) -/

/-- Log an error in AER: 0 correctable, 1 unsupported request, 2 non-fatal, 3 fatal. -/
def logAer (port kind : Nat) (s : State) : State := modPort port (fun x => { x with aer := setAt kind 1 x.aer }) s

/-- PCIE_CORRECTABLE_ERROR. -/
def execPcieCorrectableError (port : Nat) (s : State) : Res :=
  unit port 2 (ok (logAer port 0 (modPort port (fun x => { x with corrected := wrapAdd 32 x.corrected 1 }) s)))

/-- UNSUPPORTED_REQUEST: the request is discarded. -/
def execUnsupportedRequest (port : Nat) (s : State) : Res := unit port 2 (ok (logAer port 1 s))

/-- POISONED_WRITE: the write is discarded, whatever it would have reached. -/
def execPoisonedWrite (func _bar _offset : Nat) (s : State) : Res := unit func 16 (ok (logAer (portOf func) 2 s))

/-- A ring enters ERROR when a request for it fails: a fetch of a submission ring, else a write (05_command_rings R184). -/
def requestFailed (r : Nat) (s : State) : State :=
  match ringOwner s r with
  | none => s
  | some f => ringError r (if (ringOf s r).typ = 0 then 2 else 3) (logAer (portOf f) 2 s)

/-- A read of command data failed: UR 1, CA 2, timeout 3, poison or ECRC 4. -/
def dataReadFailed (id code : Nat) (s : State) : State :=
  match cmdOf s id with
  | none => s
  | some c => match c.phase with
    | .done => s
    | .failed _ _ => s
    | _ => failCmd id { status := stInternal, result := 6 * 2 ^ 28 + code } (logAer (portOf c.func) 2 s)

/-- COMPLETION_ERROR. -/
def execCompletionError (target : ReadTarget) (code : Nat) (s : State) : Res :=
  ok (if code < 1 ∨ 4 < code then s else
    match target with
    | .ring r => requestFailed r s
    | .command id => settleDispatch (dataReadFailed id code s))

/-- PCIE_FATAL_ERROR. -/
def execPcieFatalError (port : Nat) (s : State) : Res :=
  unit port 2 (ok (portReset port (logAer port 3 s)))

/-! ## Bus mastering and D3hot (R561) -/

/-- The functions whose requests stop with one function's. -/
def stoppedWith (f : Nat) (d3 : Bool) : List Nat := if d3 && isPhys f then funcsOf (portOf f) else [f]

/-- The device issues no more requests for these functions: rings in ERROR, binds released, the verdict ring latches. -/
def stopRequests (fs : List Nat) (s : State) : State :=
  let rings := fs.flatMap (fun f => (ringsOf s f).filter (fun r =>
    decide ((ringOf s r).state ≠ .disabled) && decide ((ringOf s r).state ≠ .error)))
  let s1 := rings.foldl (fun t x => modRing x (fun g => { g with state := .error, err := 3 }) t) s
  let s2 := rings.foldl (fun t x => postBoth 0x0060 3 0 x t) s1
  let s3 := (s2.cam.binds.filter (fun b => fs.contains b.func)).foldl (fun t b => bindWriteError b t) s2
  match safetyHost s3 with
  | none => s3
  | some f => if fs.contains f then latch 7 s3 else s3

/-- Clear Bus Master Enable. -/
def masterOff (f : Nat) (s : State) : State :=
  if !(funcCfg s f).busMaster then s else stopRequests [f] (modFuncCfg f (fun x => { x with busMaster := false }) s)

/-- Enter D3hot. -/
def enterD3 (f : Nat) (s : State) : State :=
  if (funcCfg s f).d3hot then s else stopRequests (stoppedWith f true) (modFuncCfg f (fun x => { x with d3hot := true }) s)

/-- BUS_MASTER_DISABLE. -/
def execBusMasterDisable (func : Nat) (s : State) : Res := unit func 16 (ok (settleDispatch (masterOff func s)))

/-- D3HOT_ENTRY. -/
def execD3hotEntry (func : Nat) (s : State) : Res := unit func 16 (ok (settleDispatch (enterD3 func s)))

/-! ## MSI-X masks (R559) -/

/-- Vectors of a function. -/
def vectorCount (f : Nat) : Nat := if isPhys f then 2048 else 256

/-- Send a vector's pending message when nothing masks it. -/
def sendPending (f : Nat) (s : State) (v : Nat) : State :=
  let w := vectorOf s f v
  if w.pending && !w.masked && !(funcCfg s f).msixMask && (funcCfg s f).msixEn && canMaster s f then
    sendMsg f v (modVector f v (fun w => { w with pending := false }) s)
  else s

/-- Set or clear a vector's mask. -/
def setMask (f v : Nat) (m : Bool) (s : State) : State := sendPending f (modVector f v (fun w => { w with masked := m }) s) v

/-- Every vector of a function that is pending. -/
def pendingVectors (s : State) (f : Nat) : List Nat :=
  (s.irq.vecs.filter (fun p => decide (p.1 / 2048 = f) && p.2.pending)).map (fun p => p.1 % 2048)

/-- MSIX_UNMASK. -/
def execMsixUnmask (func vector : Nat) (s : State) : Res :=
  unit func 16 (unit vector (vectorCount func) (ok (setMask func vector false s)))

/-! ## Configuration requests (R552, R553, R564) -/

/-- What a configuration write changes. -/
def configWrite (f : Nat) (w : CfgWrite) (s : State) : State :=
  let p := portOf f
  match w with
  | .read => s
  | .busMaster on => if on then modFuncCfg f (fun x => { x with busMaster := true }) s else masterOff f s
  | .powerState d3 => if d3 then enterD3 f s else modFuncCfg f (fun x => { x with d3hot := false }) s
  | .pmeEnable on => modFuncCfg f (fun x => { x with pmeEn := on }) s
  | .msixEnable on => modFuncCfg f (fun x => { x with msixEn := on }) s
  | .msixFunctionMask on =>
    let s1 := modFuncCfg f (fun x => { x with msixMask := on }) s
    (pendingVectors s1 f).foldl (sendPending f) s1
  | .tag10Enable on => if isPhys f then modPort p (fun x => { x with tag10 := on }) s else s
  | .maxPayload m => if isPhys f ∧ m ≤ 2 then modPort p (fun x => { x with mps := m }) s else s
  | .aspmL1 on => if isPhys f then modPort p (fun x => { x with aspmL1 := on }) s else s
  | .ltr on => if isPhys f then modPort p (fun x => { x with ltr := on }) s else s
  | .ptmEnable on => if isPhys f then modPort p (fun x => { x with ptmEnable := on, ptmOk := if on then x.ptmOk else 0, ptmFails := 0 }) s else s
  | .bar4Size n => if 20 ≤ n ∧ n ≤ (if isPhys f then 36 else 32) then modFuncCfg f (fun x => { x with bar4Log2 := n }) s else s

/-- CONFIGURATION_REQUEST: until step 3 of R564 it completes with retry status, and of a function that does not exist with
Unsupported Request. -/
def execConfigurationRequest (func : Nat) (write : CfgWrite) (s : State) : Res :=
  unit func 16 (ok (
    if !(portSt s (portOf func)).cfgReady then s
    else if !funcExists s func then logAer (portOf func) 1 s
    else settleDispatch (configWrite func write s)))

/-! ## Precision Time Measurement (R568, R569) -/

/-- The rate between two dialogues, in parts per 10⁹: an exact quotient; of an inexact one the manual does not say how it is
rounded, and a free value chooses (DESIGN CHOICE, log entry 5). -/
def ptmRate (s : State) (d1 h1 d2 h2 : Int) : Int :=
  let dd := d2 - d1
  let num := 1000000000 * ((h2 - h1) - dd)
  if dd ≤ 0 then 0 else num / dd + (if num % dd = 0 then 0 else Config.freeInt s.free % 2)

/-- A dialogue succeeds. -/
def ptmSuccess (h : Int) (s : State) (x : Port) : Port :=
  let d : Int := nowNs s
  { x with
      ptmD := d, ptmH := h, ptmOk := min 2 (x.ptmOk + 1), ptmFails := 0
      ptmRate := if x.ptmOk = 0 then x.ptmRate else ptmRate s x.ptmD x.ptmH d h }

/-- A dialogue fails: the second in a row ends validity. -/
def ptmFailure (x : Port) : Port :=
  { x with ptmFails := min 2 (x.ptmFails + 1), ptmOk := if x.ptmFails = 0 ∧ x.ptmOk = 2 then 2 else 0 }

/-- PTM_DIALOGUE. -/
def execPtmDialogue (port : Nat) (hostNs : Option Int) (s : State) : Res :=
  unit port 2 (ok (if !(portSt s port).ptmEnable then s else
    match hostNs with
    | none => modPort port ptmFailure s
    | some h => drawn 1 (modPort port (ptmSuccess h s) s)))

/-- `valid` of HIF_PTM_RATE. -/
def ptmValid (x : Port) : Bool := x.ptmEnable && decide (x.ptmOk = 2)

/-- HIF_PTM_STAMP_READ: OFFSET and RATE are latched until both have been read. -/
def execHifPtmStampRead (func : Nat) (s : State) : Res :=
  unit func 16 (ok (modPort (portOf func) (fun x =>
    { x with latchOffset := x.ptmH - x.ptmD, latchRate := x.ptmRate, latchValid := ptmValid x, latched := 3 }) s))

/-! ## The host window (R554) -/

/-- BAR4 of the function reaches device addresses. -/
def windowOpen (s : State) (f : Nat) : Bool :=
  funcExists s f && (portSt s (portOf f)).cfgReady && (funcCfg s f).winEnable && !(confOf s f).on

/-- Record a failure of a window access: with `ring_id` 0xFFFF. A refusal by a firewall has no cause code in the manual's
list, so its cause and level are free values (DESIGN CHOICE, log entry 4). -/
def windowFailed (f va : Nat) (write : Bool) (e : Fail) (s : State) : State :=
  match e.mmu with
  | some _ => recordFail f 0xFFFF e s
  | none => drawn 2 (recordFail f 0xFFFF { e with mmu := some (va, Config.freeNat s.free % 16, Config.freeNat (s.free + 1) % 4, write) } s)

/-- The function's device virtual address at an offset of BAR4. -/
def windowVa (s : State) (f offset : Nat) : Nat := (funcCfg s f).winBase + offset

/-- The access lies in the BAR. -/
def inBar4 (s : State) (f offset len : Nat) : Bool := decide (0 < len) && decide (offset + len ≤ 2 ^ (funcCfg s f).bar4Log2)

/-- What a window read returns. -/
def windowRead (s : State) (f offset len : Nat) : Bytes :=
  if !windowOpen s f then zeros len else
  match vaRead s f f (windowVa s f offset) len 0 with
  | .ok bs => bs
  | .error _ => zeros len

/-- BAR4_WINDOW_READ: a failure is recorded. -/
def execBar4WindowRead (func offset len : Nat) (s : State) : Res :=
  unit func 16 (ok (
    if !windowOpen s func || !inBar4 s func offset len then s else
    match vaRead s func func (windowVa s func offset) len 0 with
    | .ok _ => s
    | .error e => windowFailed func (windowVa s func offset) false e s))

/-- BAR4_WINDOW_WRITE: a write into the KV aperture is dropped. -/
def execBar4WindowWrite (func offset : Nat) (data : Bytes) (s : State) : Res :=
  unit func 16 (ok (
    if !windowOpen s func || !inBar4 s func offset data.length || inAperture (windowVa s func offset) then s else
    match vaStage s func func (windowVa s func offset) data 0 with
    | .ok segs => commitSegs segs s
    | .error e => windowFailed func (windowVa s func offset) true e s))

end Sys2Proof.Machine
end

