-- ==== Sys2Proof/Machine/Operands.lean ====
section
/-! DEFINITION. Machine/Operands.lean: operand forms of the matrix operators: the operator body, the arithmetic control
field, the operand table, the formats of weights and activations, conversion at entry, and the accumulator step
(04_fret_arithmetic R136 to R160; 05_command_rings R189 to R191). -/

namespace Sys2Proof.Machine
open Sys2Proof

/-! ## A stage: one operator with what was read at its acceptance -/

/-- An operator descriptor, its operand table and its parameter block; a command's own, or a stage of FUSED_GROUP. -/
structure Stage where
  desc : Bytes
  table : List Nat
  params : Bytes
  /-- Index of the stage in its group; none for a command of its own. -/
  index : Option Nat := none
  deriving DecidableEq, Repr

def stageOf (c : Cmd) : Stage := { desc := c.desc, table := c.table, params := c.params }

def Stage.op (t : Stage) : Nat := dOpcode t.desc
def Stage.mode (t : Stage) : Nat := leAt t.desc 16 4
def Stage.wfmt (t : Stage) : Nat := bf t.mode 2 0
def Stage.afmt (t : Stage) : Nat := bf t.mode 5 3
def Stage.gsize (t : Stage) : Nat := bf t.mode 7 6
def Stage.ofmt (t : Stage) : Nat := bf t.mode 9 8
def Stage.comp (t : Stage) : Bool := bit t.mode 10
def Stage.accIn (t : Stage) : Bool := bit t.mode 11
def Stage.outScale (t : Stage) : Nat := leAt t.desc 20 4
def Stage.m (t : Stage) : Nat := leAt t.desc 24 4
def Stage.k (t : Stage) : Nat := leAt t.desc 28 4
def Stage.n (t : Stage) : Nat := leAt t.desc 32 4
def Stage.layer (t : Stage) : Nat := leAt t.desc 36 2
def Stage.tensor (t : Stage) : Nat := leAt t.desc 38 2
def Stage.operands (t : Stage) : Nat := leAt t.desc 40 8
def Stage.paramAddr (t : Stage) : Nat := leAt t.desc 48 8
def Stage.paramLen (t : Stage) : Nat := leAt t.desc 56 4
def Stage.slot (t : Stage) (i : Nat) : Nat := t.table.getD i 0
/-- Weights come from slots 5 to 7. -/
def Stage.ownWeights (t : Stage) : Bool := t.tensor == 0xFFFF
/-- The group size G (R145). -/
def Stage.group (t : Stage) : Nat := 32 * 2 ^ t.gsize
/-- Locator of a field of the descriptor: structure 0, or 3 with the stage's index in a group (05_command_rings R200). -/
def Stage.atDesc (t : Stage) (off : Nat) : Nat := match t.index with
  | none => locator 0 0 off
  | some i => locator 3 i off
/-- Locator of a slot of the operand table. -/
def Stage.atSlot (_t : Stage) (i : Nat) : Nat := locator 1 0 (8 * i)
/-- Locator of a field of the parameter block: in a group its index is the stage's. -/
def Stage.atParam (t : Stage) (off : Nat) : Nat := locator 2 (t.index.getD 0) off

/-! ## Checks of the body (R160, R161, R189; 05_command_rings R188 step 3) -/

/-- Length of the parameter block of an operator opcode. -/
def paramBytes (op : Nat) : Nat :=
  match op with
  | 2 => 16
  | 3 => 16
  | 4 => 8
  | 5 => 8
  | 6 => 32
  | 7 => 32
  | 8 => 16
  | _ => 0

/-- An FP32 that is neither a NaN nor an infinity. -/
def finiteBits (v : Nat) : Bool := decide (bf v 30 23 ≠ 255)

/-- The checks of the operator body that need nothing read from memory, with the offset each names. -/
def bodyChecks (t : Stage) : List (Bool × Nat) :=
  [(decide (t.wfmt < 6) && decide (t.afmt < 6) && decide (t.gsize < 3) && decide (bf t.mode 31 12 = 0), 16),
   (finiteBits t.outScale, 20),
   (decide (1 ≤ t.m) && decide (t.m < 2 ^ 31), 24),
   (decide (32 ≤ t.k) && decide (t.k % 32 = 0), 28),
   (decide (1 ≤ t.n) && decide (t.n < 2 ^ 31), 32),
   (decide (t.operands ≠ 0) && decide (t.operands % 64 = 0), 40),
   (decide (paramBytes t.op ≠ 0) || decide (t.paramAddr = 0), 48),
   (decide (t.paramLen = paramBytes t.op), 56),
   (zeroAt t.desc 60 4, 60)]

/-- Checks with a locator each. -/
def firstLoc : List (Bool × Nat) → Option Nat := firstBad

/-- Tensors a stage needs in its operand table: activations (unless handed over), scales, zero points, weights, output. -/
def slotChecks (t : Stage) (needIn needOut : Bool) : List (Bool × Nat) :=
  let present (i : Nat) : Bool := decide (t.slot i ≠ 0)
  [(!needIn || present 0, t.atSlot 0),
   (decide (2 < t.afmt) || present 1, t.atSlot 1),
   (decide (t.afmt ≠ 1) || present 2, t.atSlot 2),
   (!t.accIn || present 3, t.atSlot 3),
   (!needOut || present 4, t.atSlot 4),
   (!t.ownWeights || present 5, t.atSlot 5),
   (!t.ownWeights || present 6, t.atSlot 6),
   (!t.ownWeights || decide (t.wfmt % 2 = 0) || present 7, t.atSlot 7)]

/-! ## Weights (R133, R136, R144 to R147) -/

/-- Lanes of a weight format. -/
def lanesOf (wfmt : Nat) : Nat := if wfmt < 2 then 1 else if wfmt < 4 then 2 else 4
/-- Stored bits of a weight. -/
def weightBits (wfmt : Nat) : Nat := 8 / lanesOf wfmt

/-- The operand of a code after zero-point subtraction (R136, R137, R139). -/
def weightValue (wfmt byte lane zp : Nat) : Int :=
  let w := weightBits wfmt
  let code := byte / 2 ^ (w * lane) % 2 ^ w
  if wfmt % 2 = 0 then toSigned w code else (code : Int) - (zp % 2 ^ w : Nat)

/-- A weight matrix in the Ronzer grouped format. -/
structure WeightMat where
  wfmt : Nat
  group : Nat
  k : Nat
  n : Nat
  w : Bytes
  sc : Bytes
  zp : Bytes

def WeightMat.width (a : WeightMat) : Nat := 128 * lanesOf a.wfmt
def WeightMat.groups (a : WeightMat) : Nat := ceilDiv a.k a.group
/-- Entry index of group `g` and logical column `j` in the scale and zero-point tensors (R146, R147). -/
def WeightMat.entry (a : WeightMat) (g j : Nat) : Nat := (j / a.width * a.groups + g) * a.width + j % a.width
def WeightMat.scale (a : WeightMat) (g j : Nat) : Flt := ofBf16 (leAt a.sc (2 * a.entry g j) 2)
def WeightMat.zero (a : WeightMat) (g j : Nat) : Nat := if a.wfmt % 2 = 0 then 0 else byteAt a.zp (a.entry g j)
/-- The operand of row `r` and logical column `j` (R144). -/
def WeightMat.value (a : WeightMat) (r j : Nat) : Int :=
  weightValue a.wfmt (byteAt a.w (j / a.width * (128 * a.k) + 128 * r + j % a.width % 128)) (j % a.width / 128) (a.zero (r / a.group) j)

/-- Bytes of the weight, scale and zero-point tensors of a matrix. -/
def weightSizes (wfmt group k n : Nat) : Nat × Nat × Nat :=
  let panels := ceilDiv n (128 * lanesOf wfmt)
  let entries := panels * ceilDiv k group * (128 * lanesOf wfmt)
  (panels * 128 * k, 2 * entries, if wfmt % 2 = 0 then 0 else entries)

/-! ## Activations (R138 to R143, R149) -/

def actBytes (afmt : Nat) : Nat := if afmt = 2 ∨ afmt = 5 then 2 else 1

/-- The value of an element of a converted format. -/
def actValue (afmt v : Nat) : Flt := if afmt = 3 then ofE4m3 v else if afmt = 4 then ofE5m2 v else ofBf16 v

/-- The integer of an element of an integer format, less its zero point. -/
def actInt (afmt v zp : Nat) : Int :=
  if afmt = 0 then toSigned 8 v else if afmt = 1 then (v : Int) - (zp : Int) else toSigned 16 v

/-- A run of the reduction with one activation scale: its first row, its integers, its scale. A block marked invalid
(R143) carries a NaN scale. -/
structure Interval where
  first : Nat
  ints : List Int
  scale : Flt
  /-- The activation zero point that was subtracted. -/
  zero : Nat := 0
  deriving DecidableEq, Repr

/-- The exponent E of a block (R141): −133 for zeros. -/
def blockExp (xs : List Flt) : Int :=
  ((xs.filterMap (fun x => match x with
    | .fin _ m k => if m = 0 then none else some (binade m 1 k)
    | _ => none)).max?).getD (-133)

/-- Convert a block to integers with one power-of-two scale: 6 bits below E and 127, or 14 bits and 32,767 (R141, R263). -/
def convertBlock (wide : Bool) (first : Nat) (xs : List Flt) : Interval :=
  let e := blockExp xs - (if wide then 14 else 6)
  let lim : Int := if wide then 32767 else 127
  { first := first
    ints := xs.map (fun x => clampInt (-lim) lim (toIntEven (mulF x (.fin false 1 (-e)))))
    scale := if xs.all isFinite then .fin false 1 e else .nan }

/-- Blocks of a list of values along the reduction. -/
def convertBlocks (wide : Bool) (n : Nat) (xs : List Flt) : List Interval :=
  (chunksOf n (xs.length + 1) xs).mapIdx (fun i b => convertBlock wide (n * i) b)

/-! ## The accumulator (R152 to R158) -/

/-- An accumulator with its compensation remainder. -/
structure Acc where
  a : Flt
  rem : Int := 0
  deriving DecidableEq, Repr

/-- Exponent of one unit in the last place of an FP32 value. -/
def ulpExp : Flt → Int
  | .fin _ m e => if m = 0 then -149 else max (-149) (binade m 1 e - 23)
  | _ => -149

/-- The exact value of a remainder. -/
def remValue (a : Flt) (r : Int) : Flt := if r = 0 then zeroF else ofInt r (ulpExp a - 16)

/-- Truncate toward zero to an integer. -/
def toIntTrunc : Flt → Int
  | .fin n m e => signed n (inUnits m 1 e 0 |> fun u => u.1 / u.2)
  | _ => 0

/-- Set accumulator and remainder from an exact value (R156 steps 2 and 3). An accumulator that rounds to an infinity or a NaN leaves
no remainder (DESIGN CHOICE, log entry 5). -/
def compSet (x : Flt) : Acc :=
  let a := round32 x
  if !isFinite a then { a := a } else
  { a := a, rem := clampInt (-32768) 32767 (toIntTrunc (mulF (subF x a) (.fin false 1 (16 - ulpExp a)))) }

/-- One rescale step: A ← A + P × s (R153, R156). -/
def accStep (comp : Bool) (acc : Acc) (p : Int) (s : Flt) : Acc :=
  if comp then compSet (addF (addF acc.a (mulF (ofInt p 0) s)) (remValue acc.a acc.rem))
  else { a := fma32 (ofInt p 0) s acc.a }

/-- What a lane delivers at the drain (R158). -/
def accValue (acc : Acc) : Flt := if acc.rem = 0 then acc.a else addF acc.a (remValue acc.a acc.rem)

/-- The partial sum of an interval for a column. -/
def dotInts (w : Nat → Int) (v : Interval) : Int := (v.ints.foldl (fun (x : Int × Nat) i => (x.1 + i * w x.2, x.2 + 1)) (0, v.first)).1

/-- The intervals of a row against a column, in order. -/
def runIntervals (comp : Bool) (a : WeightMat) (j : Nat) (init : Acc) (l : List Interval) : Acc :=
  l.foldl (fun acc v => accStep comp acc (dotInts (fun r => a.value r j) v) (round32 (mulF (a.scale (v.first / a.group) j) v.scale))) init

/-! ## Split reductions (R164): the number of parts, their places and the order of the sums are free (DESIGN CHOICE, log entry 5) -/

/-- Cut a list into at most `m + 1` parts at free places. -/
def cutParts {α : Type} : Nat → Nat → List α → List (List α)
  | _, _, [] => []
  | b, m, x :: xs =>
    let cut := decide (0 < m) && Config.freeNat b % 2 == 1
    match cutParts (b + 1) (if cut then m - 1 else m) xs with
    | [] => [[x]]
    | p :: ps => if cut then [x] :: p :: ps else (x :: p) :: ps

/-- Add FP32 values in a free order. -/
def sumFree : Nat → Nat → List Flt → Flt
  | _, _, [] => zeroF
  | _, _, [x] => x
  | 0, _, x :: _ => x
  | n + 1, b, x :: y :: l =>
    let all := x :: y :: l
    let i := Config.freeNat b % all.length
    let rest := all.eraseIdx i
    let j := Config.freeNat (b + 1) % rest.length
    sumFree n (b + 2) (add32 (all.getD i zeroF) (rest.getD j zeroF) :: rest.eraseIdx j)

/-- An accumulator as one word: the lane, and its compensation register above it. -/
def accWord (x : Acc) : Nat := toBits32 x.a + 2 ^ 32 * ofSigned 16 x.rem

/-! ## What the array holds (R132) -/

/-- Where a lane of a cell stands in a fret's array: its row, and its logical column (R133). -/
def laneAt (row col : Nat) : Nat := (row % 128 * 128 + col % 128) * 4 + col / 128
def cellAt (row col : Nat) : Nat := row % 128 * 128 + col % 128

/-- A lane at the end of a rescale interval: its accumulator, the cleared partial sum, and its latches (R132, R153; DESIGN CHOICE, log
entry 74). -/
def laneAfter (a : WeightMat) (j : Nat) (v : Interval) (x : Acc) : Lane :=
  { acc := toBits32 x.a, wscale := toBf16 (a.scale (v.first / a.group) j), wzero := a.zero (v.first / a.group) j, ascale := toBits32 v.scale,
    azero := v.zero }

/-- The array of a fret over an output tile: `f` gives the lane and the remainder of a row and a column. With `comp` lane 0 alone is used, and
the last column that it served stands in it (R157). -/
def tileArray (comp : Bool) (f : Nat → Nat → Lane × Int) (is js : List Nat) : ArrayEnd :=
  let cells := (is.mapIdx (fun r i => js.mapIdx (fun q j => (r, q, f i j)))).flatten
  { lanes := cells.map (fun x => (laneAt x.1 (if comp then x.2.1 % 128 else x.2.1), x.2.2.1))
    rems := if comp then cells.map (fun x => (cellAt x.1 x.2.1, ofSigned 16 x.2.2.2)) else [] }

/-! ## Products (R152 to R164) -/

/-- A product on the array: its weights, the tensor they are of, the rescale intervals of each row, the starting accumulators, the first of
its free values, and the cycles of a rescale interval. -/
structure Product where
  comp : Bool
  a : WeightMat
  /-- Rows `first` to `first + count - 1` of the tensor that it takes its weights from. -/
  needs : Nat → Nat → List Need
  rows : List (List Interval)
  init : Nat → Nat → Flt
  base : Nat
  step : Nat

def Product.steps (p : Product) : Nat := (p.rows.headD []).length
/-- Row tiles. -/
def Product.tiles (p : Product) : Nat := ceilDiv p.rows.length 128
def Product.panels (p : Product) : Nat := ceilDiv p.a.n p.a.width
/-- Free values of one tile: where it is split, where its parts are cut, and the order of its sums. -/
def Product.tileDraws (p : Product) : Nat := 2 * p.steps + 24 * 128 * p.a.width
def Product.draws (p : Product) : Nat := p.panels * p.tiles * p.tileDraws
/-- The first free value of the tile of panel `q` and row tile `r`. -/
def Product.tileAt (p : Product) (q r : Nat) : Nat := p.base + (q * p.tiles + r) * p.tileDraws
/-- The lengths of the parts of a tile's reduction; a compensated one stays whole (R157). -/
def Product.lens (p : Product) (q r : Nat) : List Nat :=
  if p.comp then [p.steps] else (cutParts (p.tileAt q r) 11 (List.range p.steps)).map List.length

/-- The accumulator of part `k` of a lane after these intervals. -/
def Product.after (p : Product) (i j k : Nat) (l : List Interval) : Acc :=
  runIntervals p.comp p.a j { a := if k = 0 then p.init i j else zeroF } l

/-- One output lane: its parts, added in a free order. -/
def Product.value (p : Product) (i j : Nat) : Acc :=
  match (cutRuns (p.lens (j / p.a.width) (i / 128)) (p.rows.getD i [])).mapIdx (fun k l => p.after i j k l) with
  | [x] => x
  | parts => { a := sumFree 11 (p.tileAt (j / p.a.width) (i / 128) + 2 * p.steps + 24 * (i % 128 * p.a.width + j % p.a.width)) (parts.map (fun x => x.a)) }

/-- What a lane holds after these intervals of part `k`. -/
def Product.lane (p : Product) (i j k : Nat) (l : List Interval) : Lane × Int :=
  let x := p.after i j k l
  (match l.getLast? with | none => { acc := toBits32 x.a } | some v => laneAfter p.a j v x, x.rem)

/-- Part `k` of a tile, as a slice: `len` intervals from `first`. -/
def Product.part (p : Product) (q r k first len : Nat) (whole : Bool) : Work :=
  let is := (List.range (min 128 (p.rows.length - 128 * r))).map (fun x => 128 * r + x)
  let js := (List.range (min p.a.width (p.a.n - p.a.width * q))).map (fun x => p.a.width * q + x)
  let part (i e : Nat) : List Interval := ((p.rows.getD i []).drop first).take (e + 1)
  { panel := q
    tile := if whole then 0 else q * p.tiles + r + 1
    bytes := ceilDiv (ceilDiv (p.a.w.length + p.a.sc.length + p.a.zp.length) (max 1 p.panels) * len) (max 1 p.steps)
    needs := p.needs (p.a.width * q) js.length
    step := p.step
    ends := (List.range len).map (fun e => is.flatMap (fun i => js.map (fun j => accWord (p.after i j k (part i e)))))
    array := (List.range len).map (fun e => [tileArray p.comp (fun i j => p.lane i j k (part i e)) is js]) }

/-- The parts of a tile in order, from part `k` at interval `first`. -/
def Product.tileParts (p : Product) (q r : Nat) (whole : Bool) : Nat → Nat → List Nat → List Work
  | _, _, [] => []
  | k, first, len :: l => p.part q r k first len whole :: Product.tileParts p q r whole (k + 1) (first + len) l

/-- The slices of a product, panel by panel. -/
def Product.work (p : Product) : List Work :=
  (List.range p.panels).flatMap (fun q => (List.range p.tiles).flatMap (fun r =>
    p.tileParts q r (decide ((p.lens q r).length ≤ 1)) 0 0 (p.lens q r)))

/-! ## Reading operands -/

/-- Read a tensor for a command; its failure names `loc`. -/
def fetch (s : State) (c : Cmd) (va n loc : Nat) : Except Fail Bytes := vaRead s c.func c.domain va n loc

/-- Read a tensor of a slot. -/
def fetchSlot (s : State) (c : Cmd) (t : Stage) (i n : Nat) : Except Fail Bytes := fetch s c (t.slot i) n (t.atSlot i)

/-- The elements of a byte string. -/
def elems (size : Nat) (b : Bytes) : List Nat := (chunksOf size (b.length + 1) b).map leNat

/-- The image and the tensor that a stage names (R191): the checks after R188. -/
def namedTensor (s : State) (c : Cmd) (t : Stage) : Except Fail (Image × Config.TensorInfo) :=
  match imageVersion s c.model c.bound.version with
  | none => .error (fwDenied (locator 0 0 8))
  | some img =>
    if (infoOf img).layers ≤ t.layer then .error (bad (t.atDesc 36)) else
    match tensorOf img t.layer t.tensor with
    | none => .error (bad (t.atDesc 38))
    | some x =>
      match firstBad [(x.wfmt == t.wfmt && x.gsize == t.gsize, 16), (x.k == t.k, 28), (x.n == t.n, 32)] with
      | some o => .error (bad (t.atDesc o))
      | none => .ok (img, x)

/-- The weights of a stage: from slots 5 to 7, or of the tensor it names. -/
def weightsOf' (s : State) (c : Cmd) (t : Stage) : Except Fail WeightMat :=
  let z := weightSizes t.wfmt t.group t.k t.n
  let mat (w sc zp : Bytes) : WeightMat := { wfmt := t.wfmt, group := t.group, k := t.k, n := t.n, w := w, sc := sc, zp := zp }
  if t.ownWeights then do
    let w ← fetchSlot s c t 5 z.1
    let sc ← fetchSlot s c t 6 z.2.1
    let zp ← if z.2.2 = 0 then .ok [] else fetchSlot s c t 7 z.2.2
    .ok (mat w sc zp)
  else do
    let x ← namedTensor s c t
    .ok (mat (extentBytes s x.1 x.2.weights) (extentBytes s x.1 x.2.scales) (extentBytes s x.1 x.2.zeros))

/-- What a stage computes: the bytes of its output, its other writes (address, bytes, slot), the KV it writes (session,
layer, position, tokens), its slices, those behind which a barrier stands, and the free values it drew. -/
structure OpOut where
  out : Bytes
  extra : List (Nat × Bytes × Nat) := []
  /-- Writes into the KV cache, at aperture addresses of the function. -/
  cache : List Seg := []
  kv : List Nat := []
  work : List Work := [{}]
  barriers : List Nat := []
  draws : Nat := 0

/-- What a slice of a stage consumes of the tensor that the stage names: `count` of its rows, from `first`. -/
def stageNeeds (c : Cmd) (t : Stage) (first count : Nat) : List Need :=
  if t.ownWeights then [] else
    [{ handle := c.model, layer := t.layer, tensor := t.tensor, first := first, count := count, rows := t.n }]

/-- Slices of no common panel. -/
def numbered (l : List Work) : List Work := l.mapIdx (fun i w => { w with panel := i })

/-- `n` slices that carry no state between segments, each of its own panel. -/
def plainWork (n : Nat) : List Work := (List.range n).map (fun i => { panel := i })

/-- Bind the weights of a stage that names a tensor: its hot entry when it is placed SRAM_HOT and may be loaded, else the units
of a pass that streams it (R191; 10_scheduling_sharing R358, R359). -/
def bindWeights (c : Cmd) (img : Image) (x : Config.TensorInfo) (s : State) : State :=
  let pl := boundPlace c img.handle
  let hot := if (homeUnder s pl x).hint = 1 then pl.hot else none
  let s1 := modCmd c.id (fun c => { c with bound := { c.bound with tensors := c.bound.tensors ++ [(x.layer, x.index)], usesWeights := true } }) s
  match hot with
  | some e => modCmd c.id (fun c => { c with hot := some e }) s1
  | none => bindStream c.id img x s1

/-- Bind what a stage names. -/
def bindStage (c : Cmd) (t : Stage) (s : State) : State :=
  if t.ownWeights then s else match namedTensor s c t with
    | .error _ => s
    | .ok x => bindWeights c x.1 x.2 s

/-- Stage an operator's writes: its output to slot 4, and the rest. -/
def stageOut (s : State) (c : Cmd) (t : Stage) (o : OpOut) : Except Fail (List Seg) := do
  let a ← if t.slot 4 = 0 then .ok [] else vaStage s c.func c.domain (t.slot 4) o.out (t.atSlot 4)
  let r ← o.extra.foldlM (fun (l : List Seg) e => do
    let g ← vaStage s c.func c.domain e.1 e.2.1 (t.atSlot e.2.2)
    .ok (l ++ g)) []
  .ok (a ++ r)

/-- The output bytes of a list of values. -/
def drain (t : Stage) (l : List Flt) : Bytes := l.flatMap (fun x => outBytes t.ofmt (mulF x (scaleOf t.outScale)))

end Sys2Proof.Machine
end

