-- ==== Sys2Proof/Machine/Matmul.lean ====
section
/-! DEFINITION. Machine/Matmul.lean: MATMUL (04_fret_arithmetic R132 to R167; 05_command_rings R189 to R191), and how an
operator command runs on a computed result. -/

namespace Sys2Proof.Machine
open Sys2Proof

/-! ## MATMUL -/

/-- The checks of MATMUL on what was read at acceptance. -/
def matmulChecks (t : Stage) (needIn needOut : Bool) : List (Bool × Nat) := slotChecks t needIn needOut

/-- The activations of one row as rescale intervals (R141, R149, R151). -/
def rowIntervals (t : Stage) (x sc zp : Bytes) (i : Nat) : List Interval :=
  let e := actBytes t.afmt
  let row := elems e (slice x (i * t.k * e) (t.k * e))
  if 3 ≤ t.afmt then convertBlocks false 32 (row.map (actValue t.afmt)) else
  let ng := ceilDiv t.k t.group
  (chunksOf t.group (t.k + 1) row).mapIdx (fun g xs =>
    { first := g * t.group
      ints := xs.map (fun v => actInt t.afmt v (byteAt zp (i * ng + g)))
      scale := ofBf16 (leAt sc (2 * (i * ng + g)) 2)
      zero := byteAt zp (i * ng + g) })

/-- Passes of an activation over the array (R140). -/
def Stage.passes (t : Stage) : Nat := if t.afmt = 2 then 2 else 1
/-- Products of a rescale interval (R151). -/
def Stage.interval (t : Stage) : Nat := if 3 ≤ t.afmt then 32 else t.group
/-- Array cycles of one reduction step of a tile (R135, R157). -/
def Stage.rate (t : Stage) : Nat := t.passes * (if t.comp then lanesOf t.wfmt else 1)

/-- What MATMUL computes. -/
def matmulOut (s : State) (c : Cmd) (t : Stage) (input : Option Bytes) : Except Fail OpOut := do
  let a ← weightsOf' s c t
  let ng := ceilDiv t.k t.group
  let x ← match input with
    | some b => .ok b
    | none => fetchSlot s c t 0 (t.m * t.k * actBytes t.afmt)
  let sc ← if t.afmt ≤ 2 then fetchSlot s c t 1 (2 * t.m * ng) else .ok []
  let zp ← if t.afmt = 1 then fetchSlot s c t 2 (t.m * ng) else .ok []
  let acc ← if t.accIn then fetchSlot s c t 3 (4 * t.m * t.n) else .ok []
  let rows := (List.range t.m).map (rowIntervals t x sc zp)
  let init (i j : Nat) : Flt := if t.accIn then ofBits32 (leAt acc (4 * (i * t.n + j)) 4) else zeroF
  let p : Product := { comp := t.comp, a := a, needs := stageNeeds c t, rows := rows, init := init, base := s.free, step := t.interval * t.rate }
  .ok { out := drain t ((List.range t.m).flatMap (fun i => (List.range t.n).map (fun j => accValue (p.value i j))))
        work := p.work, draws := p.draws }

/-! ## Running an operator command -/

/-- Run an operator of one stage: its results are staged at once, and its slices then run on the frets (R204). -/
def runStage (f : State → Cmd → Stage → Option Bytes → Except Fail OpOut) (c : Cmd) (s : State) : State :=
  let t := stageOf c
  match f s c t none with
  | .error e => failCmd c.id e s
  | .ok o => match stageOut s c t o with
    | .error e => failCmd c.id e s
    | .ok segs =>
      let s1 := drawn o.draws (bindStage c t s)
      dispatch (settleStream (startWork c (segs ++ o.cache) 0 o.work
        (modCmd c.id (fun c => { c with aux := o.kv, barriers := o.barriers }) s1)))

/-- MATMUL. -/
def execMatmul (id : Nat) (s : State) : Res := ok (runReady id 0x01 (runStage matmulOut) s)

end Sys2Proof.Machine
end

