-- ==== Sys2Proof/Machine/Attention.lean ====
section
/-! DEFINITION. Machine/Attention.lean: ATTENTION and ATTENTION_BWD (07_attention_kv R249, R257 to R272, R615, R616). -/

namespace Sys2Proof.Machine
open Sys2Proof

/-! ## Parameter block and length table (R257 to R260) -/

def attnEntries (p : Bytes) : Nat := leAt p 0 2
def attnHeads (p : Bytes) : Nat := leAt p 2 2
def attnScale (p : Bytes) : Nat := leAt p 4 4
def attnWindow (p : Bytes) : Nat := leAt p 8 4
def attnP16 (p : Bytes) : Bool := bit (byteAt p 12) 0

/-- Checks of the descriptor of ATTENTION beyond those of every operator body. -/
def attnDescChecks (t : Stage) : List (Bool × Nat) :=
  [(decide (t.wfmt = 0) && decide (3 ≤ t.afmt) && !t.comp && !t.accIn, 16), (decide (t.k ≤ 256), 28),
   (t.tensor == 0xFFFF, 38)]

/-- Checks of the parameter block, and of `n` against it. -/
def attnParamChecks (t : Stage) : List (Bool × Nat) :=
  [(decide (1 ≤ attnEntries t.params) && decide (attnEntries t.params ≤ 4096), t.atParam 0),
   (decide (1 ≤ attnHeads t.params), t.atParam 2),
   (finiteBits (attnScale t.params), t.atParam 4),
   (decide (byteAt t.params 12 < 2), t.atParam 12),
   (zeroAt t.params 13 3, t.atParam 13),
   (attnHeads t.params * t.k == t.n, t.atDesc 32)]

/-- Slots that an operator needs. -/
def needSlots (t : Stage) (l : List Nat) : List (Bool × Nat) := l.map (fun i => (decide (t.slot i ≠ 0), t.atSlot i))

/-- An entry of a length table (R259). -/
structure LenEntry where
  session : Nat
  flags : Nat
  qLen : Nat
  pos : Nat
  reserved : Nat
  deriving DecidableEq, Repr

def LenEntry.causal (e : LenEntry) : Bool := bit e.flags 0
def LenEntry.write (e : LenEntry) : Bool := bit e.flags 1

def lenEntry (b : Bytes) : LenEntry :=
  { session := leAt b 0 2, flags := leAt b 2 2, qLen := leAt b 4 4, pos := leAt b 8 4, reserved := leAt b 12 4 }

/-- The length table of a command. -/
def lenTable (s : State) (c : Cmd) (t : Stage) : Except Fail (List LenEntry) := do
  let b ← fetchSlot s c t 10 (16 * attnEntries t.params)
  .ok ((chunksOf 16 (b.length + 1) b).map lenEntry)

/-- First and last position that token `i` of an entry sees (R261). -/
def seesFrom (win : Nat) (e : LenEntry) (i : Nat) : Nat := if win = 0 then 0 else e.pos + i + 1 - win
def seesTo (e : LenEntry) (i : Nat) : Nat := if e.causal then e.pos + i else e.pos + e.qLen - 1

/-- The sessions that an operator's length table names as it stands now, with the fills that were in force at the command's acceptance
(R260, R265). -/
def usesOf (s : State) (c : Cmd) (t : Stage) : List Use :=
  if t.op ≠ 2 then [] else
  match lenTable s c t with
  | .error _ => []
  | .ok l => l.map (fun e => {
      session := e.session, layer := some t.layer, write := e.write,
      fill := (((c.bound.fills.find? (fun p => p.1 == e.session)).map Prod.snd).getD []).getD t.layer 0 })

def withUses (c : Cmd) (u : List Use) : Cmd := { c with bound := { c.bound with uses := u } }

/-- The stages of an accepted group. -/
def groupStages (c : Cmd) : List Stage :=
  c.stages.mapIdx (fun i d => { desc := d, table := c.stageTables.getD i [], params := c.stageParams.getD i [], index := some i })

/-- An ATTENTION or a group with the sessions that its length tables name now (05_command_rings R192). -/
def withLens (s : State) (c : Cmd) : Cmd :=
  withUses c ((if c.opcode = 0x33 then groupStages c else [stageOf c]).flatMap (usesOf s c))

/-- It waits for an earlier command by the order of the sessions that they name (R265). -/
def mustWait (s : State) (k : Cmd) : Bool :=
  s.hif.cmds.any (fun e => decide (e.id < k.id) && e.func == k.func && sessionOrder k e)

/-- Start an ATTENTION or a group once the order of its sessions lets it. -/
def runOrdered (run : Cmd → State → State) (c : Cmd) (s : State) : State :=
  let k := withLens s c
  let s1 := modCmd c.id (fun _ => k) s
  if mustWait s k then s1 else run k s1

/-- The fill that a command's checks and reads use: the one in force at its start when it writes KV, in whatever stage, else the one at its
acceptance (R260, R265). -/
def fillFor (c : Cmd) (x : Session) (layer : Nat) : Nat :=
  let now := x.fills.getD layer 0
  if c.bound.uses.any (fun u => u.write) then now else
    match c.bound.uses.find? (fun u => u.session == x.sid && (u.layer == none || u.layer == some layer)) with
    | none => now
    | some u => u.fill

/-- Why an entry fails, if it does (R257, R260). -/
def lenEntryFault (s : State) (c : Cmd) (t : Stage) (i : Nat) (e : LenEntry) : Option Nat :=
  let loc (o : Nat) := locator 2 i o
  match firstBad [(decide (e.flags < 4), loc 2), (decide (1 ≤ e.qLen) && decide (e.qLen ≤ 65536), loc 4), (e.reserved == 0, loc 12)] with
  | some o => some o
  | none => match (sessionOf s c.func e.session).filter (openFor s c) with
    | none => some (loc 0)
    | some x =>
      let fill := fillFor c x t.layer
      firstBad [(x.handle == c.model && x.version == c.bound.version, loc 0),
        (decide (t.layer < x.layers), t.atDesc 36), (x.headDim == t.k, t.atDesc 28),
        (decide (attnHeads t.params % x.kvHeads = 0) && decide (attnHeads t.params ≤ 128 * x.kvHeads), t.atParam 2),
        (decide (e.pos ≤ fill), loc 8),
        (if e.write then decide (e.pos + e.qLen ≤ x.maxLen) else decide (e.pos + e.qLen ≤ fill), loc 4)]

/-- The first failing entry of a table. -/
def tableFault (f : Nat → LenEntry → Option Nat) : Nat → List LenEntry → Option Nat
  | _, [] => none
  | i, e :: l => match f i e with
    | some o => some o
    | none => tableFault f (i + 1) l

/-! ## Stored keys and values (R249) -/

/-- The key or the value of one token and one head as stored: raw elements and, for INT8, the BF16 scale. -/
structure KvTok where
  raw : List Nat
  scale : Nat
  deriving DecidableEq, Repr

/-- Round `num ÷ den × 2^e` up to BF16. -/
def bf16Up (num den : Nat) (e : Int) : Nat × Int :=
  if num = 0 then (0, 0) else
  let k := max (-133) (binade num den e - 7)
  let u := inUnits num den e k
  (ceilDiv u.1 u.2, k)

/-- The largest magnitude of a list of finite values. -/
def maxMag (xs : List Flt) : Flt := xs.foldl (fun a x => maxF a (absF x)) zeroF

/-- Convert one token's head to the stored format. -/
def storeKv (fmt : Nat) (xs : List Flt) : KvTok :=
  match fmt with
  | 0 => { raw := xs.map toE4m3, scale := 0 }
  | 1 => { raw := xs.map toE5m2, scale := 0 }
  | 3 => { raw := xs.map toBf16, scale := 0 }
  | _ =>
    if !xs.all isFinite then { raw := xs.map (fun _ => 0), scale := 0x7FC0 } else
    match maxMag xs with
    | .fin _ m e =>
      let sc := bf16Up m 127 e
      if sc.1 = 0 then { raw := xs.map (fun _ => 0), scale := 0 } else
      let quo (x : Flt) : Int := match x with
        | .fin n mx ex => clampInt (-127) 127 (signed n (let u := inUnits mx sc.1 ex sc.2; nearestEven u.1 u.2))
        | _ => 0
      { raw := xs.map (fun x => ofSigned 8 (quo x)), scale := toBf16 (.fin false sc.1 sc.2) }
    | _ => { raw := xs.map (fun _ => 0), scale := 0x7FC0 }

/-- The value of a stored element, an INT8 one without its scale. -/
def kvValue (fmt v : Nat) : Flt :=
  match fmt with
  | 0 => ofE4m3 v
  | 1 => ofE5m2 v
  | 2 => ofInt (toSigned 8 v) 0
  | _ => ofBf16 v

/-- Aperture addresses of token `j`: its elements and its scale (R250). -/
def kvVa (x : Session) (layer v head j : Nat) : Nat × Nat :=
  let plane := x.slotVa (j / 64) + x.planeOff layer v head
  (plane + j % 64 * x.headDim * kvElem x.kvFmt, plane + 64 * x.headDim * kvElem x.kvFmt + 2 * (j % 64))

/-- Read a cached token. -/
def readKv (s : State) (c : Cmd) (x : Session) (layer v head j loc : Nat) : Except Fail KvTok := do
  let a := kvVa x layer v head j
  let b ← fetch s c a.1 (x.headDim * kvElem x.kvFmt) loc
  let sc ← if x.kvFmt = 2 then fetch s c a.2 2 loc else .ok []
  .ok { raw := elems (kvElem x.kvFmt) b, scale := leNat sc }

/-- The writes that put a token into the cache. -/
def writeKv (x : Session) (layer v head j : Nat) (k : KvTok) : List Seg :=
  let a := kvVa x layer v head j
  { space := .dev, addr := a.1, data := k.raw.flatMap (leBytes (kvElem x.kvFmt)) } ::
    (if x.kvFmt = 2 then [{ space := .dev, addr := a.2, data := leBytes 2 k.scale }] else [])

/-! ## Scores (R263, R266) -/

/-- A key as the array takes it: blocks of 32 along the head. -/
def keyBlocks (fmt : Nat) (k : KvTok) : List Interval :=
  let xs := k.raw.map (kvValue fmt)
  if fmt = 2 then (chunksOf 32 (k.raw.length + 1) k.raw).mapIdx (fun i b =>
    { first := 32 * i, ints := b.map (toSigned 8), scale := ofBf16 k.scale })
  else convertBlocks false 32 xs

/-- The partial sum of two blocks. -/
def dotInt (a b : List Int) : Int := (a.zip b).foldl (fun s p => s + p.1 * p.2) 0

/-- The product of two block sequences, rescaled block by block into an accumulator. -/
def dotBlocks (init : Flt) (a b : List Interval) : Flt :=
  (a.zip b).foldl (fun acc p => fma32 (ofInt (dotInt p.1.ints p.2.ints) 0) (round32 (mulF p.1.scale p.2.scale)) acc) init

/-- FP32 constants log2(e) and ln(2). -/
def log2e : Flt := ofBits32 0x3FB8AA3B
def ln2 : Flt := ofBits32 0x3F317218

/-- Square root, one bit a step from bit `n − 1` down. -/
def sqrtBits (x : Nat) : Nat → Nat → Nat
  | 0, r => r
  | n + 1, r => if (r + 2 ^ n) * (r + 2 ^ n) ≤ x then sqrtBits x n (r + 2 ^ n) else sqrtBits x n r

/-- 1 ÷ √d in FP32. -/
def rsqrt32 (d : Nat) : Flt := roundRat fp32 false (sqrtBits (2 ^ 160 / d) 81 0) 1 (-80)

/-- The score scale (R258). -/
def scoreScale (t : Stage) : Flt := if attnScale t.params = 0 then rsqrt32 t.k else ofBits32 (attnScale t.params)

/-- The least integer that is not below a value. -/
def ceilF : Flt → Int
  | .fin n m e => let u := inUnits m 1 e 0; if n then -((u.1 / u.2 : Nat) : Int) else ((ceilDiv u.1 u.2 : Nat) : Int)
  | _ => 0

/-- exp2 with the part's own error, at most 2^−22 (R266; DESIGN CHOICE, log entry 5). -/
def exp2At (i : Nat) (x : Flt) : Flt := nearBy (2 ^ 22) (Config.freeInt i) (exp2Fx x)

/-- A value off by a relative error of at most 2^−23, in FP32 (DESIGN CHOICE, log entry 5). -/
def near23 (i : Nat) (x : Flt) : Flt := nearBy (2 ^ 23) (Config.freeInt i) x

def log2F : Flt → Flt
  | .fin _ m e => if m = 0 then .inf true else ofInt (log2Fx m e) (-(fxBits : Int))
  | .inf _ => .inf false
  | .nan => .nan

/-! ## One row (R266, R267, R616) -/

/-- The running values of a row; `bad` once a score or a block it uses is not finite. -/
structure RowAcc where
  m : Option Int := none
  l : Flt := zeroF
  o : List Flt
  bad : Bool := false

/-- Multiply by 2^(−d), or drop to zero when d is 150 or more. -/
def rescaleBy (d : Int) (x : Flt) : Flt := if 150 ≤ d then zeroF else if 0 < d then mul32 x (.fin false 1 (-d)) else x

/-- What a row tile sees: its first and last position, and the keys and values of a KV head from position `from`. -/
structure KvView where
  fmt : Nat
  lo : Nat
  hi : Nat
  start : Nat
  keys : List KvTok
  vals : List KvTok

def KvView.key (v : KvView) (j : Nat) : KvTok := v.keys.getD (j - v.start) { raw := [], scale := 0 }
def KvView.val (v : KvView) (j : Nat) : KvTok := v.vals.getD (j - v.start) { raw := [], scale := 0 }

/-- P·V over one block of 32 positions (R263): probabilities of the positions, hidden ones 0. -/
def pvBlock (p16 : Bool) (v : KvView) (b : Nat) (prob : Nat → Option Flt) (r : RowAcc) : RowAcc :=
  let js := (List.range 32).map (fun i => b + i)
  let ps := js.map (fun j => match prob j with
    | none => zeroF
    | some p => if v.fmt = 2 then mul32 p (ofBf16 (v.val j).scale) else p)
  let pb := convertBlock p16 0 ps
  let col (d : Nat) : Interval :=
    let xs := js.map (fun j => if v.lo ≤ j ∧ j ≤ v.hi then (v.val j).raw.getD d 0 else 0)
    if v.fmt = 2 then { first := 0, ints := xs.map (toSigned 8), scale := oneF } else convertBlock false 0 (xs.map (kvValue v.fmt))
  let cols := (List.range r.o.length).map col
  { r with
    o := (r.o.zip cols).map (fun x => fma32 (ofInt (dotInt pb.ints x.2.ints) 0) (round32 (mulF pb.scale x.2.scale)) x.1),
    bad := r.bad || isNan pb.scale || cols.any (fun x => isNan x.scale) }

/-- One KV tile of a row: positions `lo` to `hi` of it are visible. -/
def rowTile (p16 : Bool) (v : KvView) (c : Flt) (q : List Interval) (base n lo hi t : Nat) (r : RowAcc) : RowAcc :=
  let js := ((List.range 128).map (fun i => 128 * t + i)).filter (fun j => decide (lo ≤ j) && decide (j ≤ hi))
  if js.isEmpty then r else
  let xs := js.map (fun j => mul32 c (dotBlocks zeroF q (keyBlocks v.fmt (v.key j))))
  if !xs.all isFinite then { r with bad := true } else
  let top := ceilF (xs.foldl maxF (xs.headD zeroF))
  let m := match r.m with | none => top | some m0 => max m0 top
  let rise := match r.m with | none => 0 | some m0 => m - m0
  let ps := (js.zip xs).map (fun p => exp2At (base + p.1) (round32 (subF p.2 (ofInt m 0))))
  let r1 : RowAcc := { r with
    m := some m,
    l := add32 (rescaleBy rise r.l) (sumFree 128 (base + n + 256 * t) ps),
    o := r.o.map (rescaleBy rise) }
  let prob (j : Nat) : Option Flt := if lo ≤ j ∧ j ≤ hi then some (ps.getD (j - js.headD 0) zeroF) else none
  [0, 32, 64, 96].foldl (fun a b =>
    if js.any (fun j => decide (128 * t + b ≤ j) && decide (j < 128 * t + b + 32)) then pvBlock p16 v (128 * t + b) prob a else a) r1

/-- The statistic of a row: log2 and the product by ln(2) with the part's own errors (R266), held to the bound of R269 about the
exact value. -/
def rowLse (base : Nat) (m : Int) (l : Flt) : Flt :=
  let x := near23 (base + 1) (mulF ln2 (add32 (ofInt m 0) (near23 base (log2F l))))
  let v := mulF (.fin false fxLn2 (-(fxBits : Int))) (addF (ofInt m 0) (log2F l))
  let b := addF (mulF (absF v) (.fin false 1 (-22))) (.fin false 1 (-23))
  if ltF (addF v b) x then roundDir false (addF v b) else if ltF x (subF v b) then roundDir true (subF v b) else x

/-- A row's output and its statistic. -/
def rowOut (dim base : Nat) (r : RowAcc) : List Flt × Flt :=
  match r.m with
  | none => (List.replicate dim .nan, .nan)
  | some m =>
    if r.bad then (List.replicate dim .nan, .nan) else
    (r.o.map (fun x => div32 x r.l), rowLse base m r.l)

/-- A row of a row tile: what its tile sees, its converted query, the first of its free values, and the positions it sees. -/
structure AttnRow where
  view : KvView
  q : List Interval
  base : Nat
  lo : Nat
  hi : Nat

def AttnRow.dim (x : AttnRow) : Nat := (x.q.map (fun b => b.ints.length)).foldl (· + ·) 0

/-- The running values of a row after `e` of the KV tiles that its row tile walks (R262). -/
def AttnRow.after (p16 : Bool) (c : Flt) (n : Nat) (x : AttnRow) (e : Nat) : RowAcc :=
  (List.range e).foldl (fun r i => rowTile p16 x.view c x.q x.base n x.lo x.hi (x.view.lo / 128 + i) r)
    ({ o := List.replicate x.dim zeroF } : RowAcc)

/-- KV tiles that the row tile of a row walks. -/
def AttnRow.tiles (x : AttnRow) : Nat := x.view.hi / 128 + 1 - x.view.lo / 128

/-- Attention of one row. -/
def rowAttention (p16 : Bool) (c : Flt) (n : Nat) (x : AttnRow) : List Flt × Flt :=
  rowOut x.dim (x.base + 3 * n + 256) (x.after p16 c n x.tiles)

/-- What a segment saves of a row: m, l and o (10_scheduling_sharing R350). -/
def rowWords (r : RowAcc) : List Nat :=
  [(match r.m with | none => 2 ^ 33 | some m => ofSigned 33 m) + 2 ^ 34 * b2n r.bad, toBits32 r.l] ++ r.o.map toBits32

/-- Array cycles of one KV tile (R615). -/
def kvTileCycles (dim : Nat) (p16 : Bool) : Nat := dim + 128 * (if p16 then 2 else 1) * ceilDiv dim 128

/-- The accumulators of a row tile stand in its fret's array, element `d` of row `r` in row r and logical column d (04_fret_arithmetic R132;
DESIGN CHOICE, log entry 74). -/
def rowsArray (l : List (List Flt)) : ArrayEnd :=
  { lanes := (l.mapIdx (fun r o => o.mapIdx (fun d x => (laneAt r d, ({ acc := toBits32 x } : Lane))))).flatten }

/-- A row tile as a slice, which may be cut behind each KV tile that it walks (R615; 10_scheduling_sharing R350). -/
def rowTileWork (p16 : Bool) (c : Flt) (n panel : Nat) (rows : List AttnRow) : Work :=
  match rows with
  | [] => { panel := panel }
  | x :: _ =>
    let after (e : Nat) : List RowAcc := rows.map (fun r => r.after p16 c n (e + 1))
    { panel := panel, step := kvTileCycles x.dim p16
      ends := (List.range x.tiles).map (fun e => (after e).flatMap rowWords)
      array := (List.range x.tiles).map (fun e => [rowsArray ((after e).map (fun r => r.o))]) }

/-! ## ATTENTION -/

/-- The new keys or values of an entry as stored, [token][kv_head]; `off` heads of earlier entries stand before it in slots 8 and
9. -/
def newKv (t : Stage) (x : Session) (b : Bytes) (off qLen : Nat) : List (List KvTok) :=
  let e := actBytes t.afmt
  (List.range qLen).map (fun i => (List.range x.kvHeads).map (fun h =>
    storeKv x.kvFmt ((elems e (slice b ((off + i * x.kvHeads + h) * x.headDim * e) (x.headDim * e))).map (actValue t.afmt))))

/-- The stored tokens of one head from position `start` to `last`: the new ones where the entry writes them, else the
cached ones (R261). -/
def gatherKv (s : State) (c : Cmd) (x : Session) (layer v head start last loc : Nat) (e : LenEntry) (new : List (List KvTok)) :
    Except Fail (List KvTok) :=
  (List.range (last + 1 - start)).mapM (fun i =>
    let j := start + i
    if e.write ∧ e.pos ≤ j ∧ j < e.pos + e.qLen then .ok ((new.getD (j - e.pos) []).getD head { raw := [], scale := 0 })
    else readKv s c x layer v head j loc)

/-- Free values of one row: its probabilities, its sums and its statistic. -/
def attnDraws (n : Nat) : Nat := 4 * n + 260

/-- What one entry gives: its rows' outputs and statistics [token][q_head], and its KV writes. -/
structure EntryOut where
  rows : List (List Flt × Flt)
  cache : List Seg
  kv : List Nat
  /-- Heads that it takes of slots 8 and 9. -/
  heads : Nat
  work : List Work

/-- One entry of the length table: `first` is its first token, `off` the heads before it in slots 8 and 9, `q` the queries. -/
def entryOut (s : State) (c : Cmd) (t : Stage) (q kb vb : Bytes) (i first off base n : Nat) (e : LenEntry) : Except Fail EntryOut :=
  match sessionOf s c.func e.session with
  | none => .error (bad (locator 2 i 0))
  | some x => do
    let heads := attnHeads t.params
    let rep := heads / x.kvHeads
    let win := attnWindow t.params
    let eb := actBytes t.afmt
    let nk := if e.write then newKv t x kb off e.qLen else []
    let nv := if e.write then newKv t x vb off e.qLen else []
    let start := seesFrom win e 0
    let last := seesTo e (e.qLen - 1)
    let keys ← (List.range x.kvHeads).mapM (fun h => gatherKv s c x t.layer 0 h start last (locator 2 i 0) e nk)
    let vals ← (List.range x.kvHeads).mapM (fun h => gatherKv s c x t.layer 1 h start last (locator 2 i 0) e nv)
    let scale := mul32 (scoreScale t) log2e
    let p16 := attnP16 t.params
    let row (a qh : Nat) : AttnRow :=
      let g := qh / rep
      let tile := (a * rep + qh % rep) / 128
      { view := { fmt := x.kvFmt, start := start, keys := keys.getD g [], vals := vals.getD g [],
                  lo := seesFrom win e (128 * tile / rep), hi := seesTo e (min (e.qLen - 1) ((128 * tile + 127) / rep)) }
        q := convertBlocks false 32 ((elems eb (slice q (((first + a) * heads + qh) * t.k * eb) (t.k * eb))).map (actValue t.afmt))
        base := base + ((first + a) * heads + qh) * attnDraws n, lo := seesFrom win e a, hi := seesTo e a }
    let tile (g k : Nat) : List AttnRow :=
      (List.range (min 128 (e.qLen * rep - 128 * k))).map (fun r => row ((128 * k + r) / rep) (g * rep + (128 * k + r) % rep))
    let write (v : Nat) (l : List (List KvTok)) : List Seg :=
      (l.mapIdx (fun a hs => (hs.mapIdx (fun h k => writeKv x t.layer v h (e.pos + a) k)).flatten)).flatten
    .ok { rows := (List.range e.qLen).flatMap (fun a => (List.range heads).map (fun h => rowAttention p16 scale n (row a h)))
          cache := write 0 nk ++ write 1 nv
          kv := if e.write then [e.session, t.layer, e.pos, e.qLen] else []
          heads := if e.write then e.qLen * x.kvHeads else 0
          work := (List.range x.kvHeads).flatMap (fun g => (List.range (ceilDiv (e.qLen * rep) 128)).map (fun k =>
            rowTileWork p16 scale n 0 (tile g k))) }

/-- Entries in order, with their first tokens. -/
def entriesOut (f : Nat → Nat → Nat → LenEntry → Except Fail EntryOut) : Nat → Nat → Nat → List LenEntry → Except Fail (List EntryOut)
  | _, _, _, [] => .ok []
  | i, first, off, e :: l => do
    let o ← f i first off e
    let r ← entriesOut f (i + 1) (first + e.qLen) (off + o.heads) l
    .ok (o :: r)

/-- Positions that the longest entry reaches, for the numbering of the free values. -/
def reach (l : List LenEntry) : Nat := l.foldl (fun a e => max a (e.pos + e.qLen)) 0

/-- What ATTENTION computes. -/
def attentionOut (s : State) (c : Cmd) (t : Stage) (input : Option Bytes) : Except Fail OpOut := do
  let l ← lenTable s c t
  let writes := l.any LenEntry.write
  let need := if writes then firstBad (needSlots t [8, 9]) else none
  match (tableFault (lenEntryFault s c t) 0 l).or need with
  | some o => .error (bad o)
  | none =>
    if sumBy (fun e => e.qLen) l ≠ t.m then .error (bad (t.atDesc 24)) else do
    let q ← match input with
      | some b => .ok b
      | none => fetchSlot s c t 0 (t.m * t.n * actBytes t.afmt)
    let kvHeads := match l.head? with
      | none => 0
      | some e => match sessionOf s c.func e.session with | none => 0 | some x => x.kvHeads
    let kvLen := sumBy (fun (e : LenEntry) => if e.write then e.qLen * (match sessionOf s c.func e.session with
      | none => kvHeads
      | some x => x.kvHeads) * t.k * actBytes t.afmt else 0) l
    let kb ← if writes then fetchSlot s c t 8 kvLen else .ok []
    let vb ← if writes then fetchSlot s c t 9 kvLen else .ok []
    let n := reach l
    let es ← entriesOut (fun i first off e => entryOut s c t q kb vb i first off s.free n e) 0 0 0 l
    let rows := es.flatMap (fun o => o.rows)
    .ok { out := rows.flatMap (fun r => drain t r.1)
          extra := if t.slot 11 = 0 then [] else [(t.slot 11, rows.flatMap (fun r => leBytes 4 (toBits32 r.2)), 11)]
          cache := es.flatMap (fun o => o.cache)
          kv := es.flatMap (fun o => o.kv)
          work := numbered (es.flatMap (fun o => o.work))
          draws := t.m * attnHeads t.params * attnDraws n }

/-- ATTENTION. -/
def execAttention (id : Nat) (s : State) : Res := ok (runReady id 0x02 (runOrdered (runStage attentionOut)) s)

/-! ## Its commit (R252, R264, R279) -/

/-- A staged write of KV: it stands at an aperture address. -/
def isKvSeg (g : Seg) : Bool := decide (g.space = .dev) && g.sealed.isNone && decide (apertureBase ≤ g.addr)

/-- Write bytes into the page behind an aperture address. -/
def writePage (f va : Nat) (bs : Bytes) (s : State) : State :=
  match kvPage s f va with
  | none => s
  | some p => writeBytes .dev (65536 * p.page + va % 65536) bs s

/-- Write bytes at an aperture address of a function, page by page. -/
def writeAperture (f va : Nat) (bs : Bytes) (s : State) : State :=
  let n := 65536 - va % 65536
  writePage f (va + n) (bs.drop n) (writePage f va (bs.take n) s)

/-- The slots that the positions of a run lie in. -/
def slotsOfRun (pos len : Nat) : List Nat := (List.range ((pos + len - 1) / 64 + 1 - pos / 64)).map (fun i => pos / 64 + i)

/-- Make every slot that a list of runs writes writable: or the pool cannot supply them. -/
def ownRuns (f : Nat) : List Nat → State → Option State
  | sid :: _ :: pos :: len :: l, s => match sessionOf s f sid with
    | none => ownRuns f l s
    | some x => (ownSlots x (slotsOfRun pos len) s).bind (ownRuns f l)
  | _, s => some s

/-- Set the layer fills that a list of runs leaves. -/
def setFills (f : Nat) : List Nat → State → State
  | sid :: layer :: pos :: len :: l, s =>
    setFills f l (modSession f sid (fun x => { x with fills := setAt layer (pos + len) x.fills }) s)
  | _, s => s

/-- The places in device memory that a write at an aperture address lands on. -/
def apertureRuns (s : State) (f va len : Nat) : List (Nat × Nat) :=
  let n := min len (65536 - va % 65536)
  let at1 (a k : Nat) := ((kvPage s f a).map (fun p => (65536 * p.page + a % 65536, k))).toList
  (if n = 0 then [] else at1 va n) ++ (if len ≤ n then [] else at1 (va + n) (len - n))

/-- The commit of the KV that a command staged: QUOTA_EXCEEDED code 3 when the pool cannot supply the pages, FIREWALL_DENIED
when a region refuses the function's write of one (01_architecture R40). -/
def commitKv (c : Cmd) (s : State) : Except Fail State :=
  match ownRuns c.func c.aux s with
  | none => .error (quotaFail 3)
  | some s1 =>
    match runsRefused s1 c.domain true 0 ((c.staged.filter isKvSeg).flatMap (fun g => apertureRuns s1 c.func g.addr g.data.length)) with
    | some e => .error e
    | none => .ok (setFills c.func c.aux ((c.staged.filter isKvSeg).foldl (fun t g => writeAperture c.func g.addr g.data t) s1))

/-- A run that begins below its layer's fill: its commit overwrites positions (R265). -/
def overwrites (f : Nat) : List Nat → State → Bool
  | sid :: layer :: pos :: _ :: l, s =>
    (match sessionOf s f sid with | none => false | some x => decide (pos < x.fills.getD layer 0)) || overwrites f l s
  | _, _ => false

/-! ## ATTENTION_BWD (R270 to R272) -/

/-- Head counts that the rules admit for a query head count: the manual does not say which the device takes, so it is a
free one of them (DESIGN CHOICE, log entry 58). -/
def kvHeadChoices (heads : Nat) : List Nat :=
  ((List.range 64).map (fun g => g + 1)).filter (fun g => decide (heads % g = 0) && decide (heads ≤ 128 * g))

def bwdEntryFault (i : Nat) (e : LenEntry) : Option Nat :=
  firstBad [(e.session == 0xFFFF, locator 2 i 0), (decide (e.flags < 2), locator 2 i 2),
    (decide (1 ≤ e.qLen) && decide (e.qLen ≤ 65536), locator 2 i 4), (e.pos == 0, locator 2 i 8), (e.reserved == 0, locator 2 i 12)]

/-- The tensors of a sequence, as values: queries, output gradients and outputs by (token, head); keys and values by
(token, KV head); statistics by (token, head). -/
structure BwdIn where
  q : Nat → Nat → List Flt
  k : Nat → Nat → List Flt
  v : Nat → Nat → List Flt
  lse : Nat → Nat → Flt
  dO : Nat → Nat → List Flt
  o : Nat → Nat → List Flt

/-- The product of two lists of values, both sides converted in blocks of 32; `wide`, the first as probabilities under `p16` 1
(R263, R270). -/
def dotConv (wide : Bool) (a b : List Flt) : Flt := dotBlocks zeroF (convertBlocks wide 32 a) (convertBlocks false 32 b)

/-- D of a row: the sum of dO ∘ O. -/
def bwdD (x : BwdIn) (base i h : Nat) : Flt := sumFree 256 base ((x.dO i h).zip (x.o i h) |>.map (fun p => mul32 p.1 p.2))

/-- p and dS of a row at a position, recomputed from lse (R271, R272); 0 where hidden. -/
def bwdCell (x : BwdIn) (scale d : Flt) (win rep base : Nat) (e : LenEntry) (i h j : Nat) : Flt × Flt :=
  if seesFrom win e i ≤ j ∧ j ≤ seesTo e i then
    let sc := mulF scale (dotConv false (x.q i h) (x.k j (h / rep)))
    let p := nearBy (2 ^ 22) (Config.freeInt (base + 512 + j)) (exp2Fx (mulF log2eFx (round32 (subF sc (x.lse i h)))))
    (p, mul32 p (round32 (subF (dotConv false (x.dO i h) (x.v j (h / rep))) d)))
  else (zeroF, zeroF)

/-- A row tile of ATTENTION_BWD (R262, R271): its KV head, its rows as token and head, its first KV tile, and for each KV tile that it
walks the cells of every row. -/
structure BwdTile where
  head : Nat
  rows : List (Nat × Nat)
  first : Nat
  cells : List (List (List (Flt × Flt)))

/-- Positions of a KV tile of a sequence. -/
def kvTile (e : LenEntry) (k : Nat) : List Nat := ((List.range 128).map (fun i => 128 * k + i)).filter (fun j => decide (j < e.qLen))

/-- Element `d` of a column of vectors. -/
def column (d : Nat) (l : List (List Flt)) : List Flt := l.map (fun r => r.getD d zeroF)

/-- Free values of one row, beyond its 512 for D. -/
def bwdStride (e : LenEntry) : Nat := 512 + e.qLen

/-- The cells of row tile `k` of a KV head, over the KV tiles in which some row sees a position. -/
def bwdTile (x : BwdIn) (scale : Flt) (heads win rep base : Nat) (e : LenEntry) (g k : Nat) : BwdTile :=
  let rows := (List.range (min 128 (e.qLen * rep - 128 * k))).map (fun r => ((128 * k + r) / rep, g * rep + (128 * k + r) % rep))
  let lo := seesFrom win e (128 * k / rep) / 128
  let hi := seesTo e (min (e.qLen - 1) ((128 * k + 127) / rep)) / 128
  { head := g, rows := rows, first := lo
    cells := (List.range (hi + 1 - lo)).map (fun n => rows.map (fun r =>
      let b := base + (r.1 * heads + r.2) * bwdStride e
      (kvTile e (lo + n)).map (bwdCell x scale (bwdD x b r.1 r.2) win rep b e r.1 r.2))) }

/-- dQ of row `r` of a tile after `n` KV tiles: `scale` multiplies each tile's product, and the accumulator takes it in FP32 (R271;
DESIGN CHOICE, log entry 58). -/
def BwdTile.dq (x : BwdIn) (scale : Flt) (dim : Nat) (e : LenEntry) (y : BwdTile) (r n : Nat) : List Flt :=
  (List.range dim).map (fun d => ((y.cells.take n).mapIdx (fun k rows =>
      mul32 scale (dotConv false ((rows.getD r []).map (fun p => p.2)) (column d ((kvTile e (y.first + k)).map (fun j => x.k j y.head)))))).foldl
    add32 zeroF)

/-- What a row tile adds to element `d` of dK (`key`) or dV at a position; none where it walks no KV tile there. -/
def BwdTile.grad (x : BwdIn) (scale : Flt) (p16 key : Bool) (y : BwdTile) (j d : Nat) : Option Flt :=
  if j / 128 < y.first then none else
  (y.cells[j / 128 - y.first]?).map (fun rows =>
    let col := rows.map (fun r => r.getD (j % 128) (zeroF, zeroF))
    if key then mul32 scale (dotConv false (col.map (fun p => p.2)) (column d (y.rows.map (fun r => x.q r.1 r.2))))
    else dotConv p16 (col.map (fun p => p.1)) (column d (y.rows.map (fun r => x.dO r.1 r.2))))

/-- Array cycles of one KV tile of ATTENTION_BWD: two products along the head, and dQ, dK and dV along a tile, of which `p16` 1 takes dV
twice (R271; DEDUCED from R615, log entry 12). -/
def bwdTileCycles (dim : Nat) (p16 : Bool) : Nat := 2 * dim + 128 * (if p16 then 4 else 3) * ceilDiv dim 128

/-- A row tile as a slice, which may be cut behind each KV tile (10_scheduling_sharing R350). -/
def BwdTile.work (x : BwdIn) (scale : Flt) (p16 : Bool) (dim : Nat) (e : LenEntry) (y : BwdTile) : Work :=
  let after (n : Nat) : List (List Flt) := (List.range y.rows.length).map (fun r => y.dq x scale dim e r (n + 1))
  { step := bwdTileCycles dim p16
    ends := (List.range y.cells.length).map (fun n => (after n).flatMap (fun l => l.map toBits32))
    array := (List.range y.cells.length).map (fun n => [rowsArray (after n)]) }

/-- What one sequence gives: query gradients [token][head], key and value gradients [token][kv_head], its slices. -/
structure BwdOut where
  dq : List (List Flt)
  dk : List (List Flt)
  dv : List (List Flt)
  work : List Work

/-- Gradients of one sequence; the sums over row tiles for dK and dV go in a free order. -/
def bwdEntry (x : BwdIn) (scale : Flt) (p16 : Bool) (heads kvHeads dim win base : Nat) (e : LenEntry) : BwdOut :=
  let rep := heads / kvHeads
  let tiles := (List.range kvHeads).flatMap (fun g => (List.range (ceilDiv (e.qLen * rep) 128)).map (bwdTile x scale heads win rep base e g))
  let b0 := base + e.qLen * heads * bwdStride e
  let span := 2 * (e.qLen * rep)
  let grad (key : Bool) (b : Nat) : List (List Flt) :=
    (List.range e.qLen).flatMap (fun j => (List.range kvHeads).map (fun g => (List.range dim).map (fun d =>
      let parts := (tiles.filter (fun y => y.head == g)).filterMap (fun y => y.grad x scale p16 key j d)
      sumFree parts.length (b + ((j * kvHeads + g) * dim + d) * span) parts)))
  { dq := (List.range e.qLen).flatMap (fun i => (List.range heads).map (fun h =>
      match tiles.find? (fun y => y.rows.contains (i, h)) with
      | none => List.replicate dim zeroF
      | some y => y.dq x scale dim e (y.rows.idxOf (i, h)) y.cells.length))
    dk := grad true b0
    dv := grad false (b0 + e.qLen * kvHeads * dim * span)
    work := tiles.map (BwdTile.work x scale p16 dim e) }

/-- Free values that one sequence takes. -/
def bwdDraws (heads kvHeads dim : Nat) (e : LenEntry) : Nat :=
  e.qLen * heads * (512 + e.qLen) + 4 * e.qLen * kvHeads * dim * (e.qLen * (heads / kvHeads))

/-- Sequences in order, with their first tokens. -/
def bwdEntries (heads kvHeads dim : Nat) (f : Nat → Nat → LenEntry → BwdOut) : Nat → Nat → List LenEntry → List BwdOut
  | _, _, [] => []
  | first, base, e :: l => f first base e :: bwdEntries heads kvHeads dim f (first + e.qLen) (base + bwdDraws heads kvHeads dim e) l

/-- What ATTENTION_BWD computes. -/
def attentionBwdOut (s : State) (c : Cmd) (t : Stage) (input : Option Bytes) : Except Fail OpOut := do
  let l ← lenTable s c t
  let heads := attnHeads t.params
  let choices := kvHeadChoices heads
  match (tableFault bwdEntryFault 0 l).or (if choices.isEmpty then some (t.atParam 2) else none) with
  | some o => .error (bad o)
  | none =>
    if sumBy (fun e => e.qLen) l ≠ t.m then .error (bad (t.atDesc 24)) else do
    let kvHeads := choices.getD (Config.freeNat s.free % choices.length) 1
    let qn := t.m * heads * t.k * 2
    let kn := t.m * kvHeads * t.k * 2
    let q ← match input with
      | some b => .ok b
      | none => fetchSlot s c t 0 qn
    let k ← fetchSlot s c t 8 kn
    let v ← fetchSlot s c t 9 kn
    let lse ← fetchSlot s c t 11 (4 * t.m * heads)
    let dO ← fetchSlot s c t 12 qn
    let o ← fetchSlot s c t 13 qn
    let vec (b : Bytes) (n first i h : Nat) : List Flt := (elems 2 (slice b (((first + i) * n + h) * t.k * 2) (t.k * 2))).map ofBf16
    let one (first base : Nat) (e : LenEntry) : BwdOut :=
      bwdEntry { q := vec q heads first, k := vec k kvHeads first, v := vec v kvHeads first, dO := vec dO heads first,
                 o := vec o heads first, lse := fun i h => ofBits32 (leAt lse (4 * ((first + i) * heads + h)) 4) }
        (scoreScale t) (attnP16 t.params) heads kvHeads t.k (attnWindow t.params) base e
    let gs := bwdEntries heads kvHeads t.k one 0 (s.free + 1) l
    let bytes (l : List (List Flt)) : Bytes := l.flatMap (fun r => r.flatMap (fun x => outBytes 1 (mulF x (scaleOf t.outScale))))
    .ok { out := gs.flatMap (fun g => bytes g.dq)
          extra := [(t.slot 14, gs.flatMap (fun g => bytes g.dk), 14), (t.slot 15, gs.flatMap (fun g => bytes g.dv), 15)]
          work := numbered (gs.flatMap (fun g => g.work))
          draws := 1 + sumBy (bwdDraws heads kvHeads t.k) l }

/-- ATTENTION_BWD. -/
def execAttentionBwd (id : Nat) (s : State) : Res := ok (runReady id 0x03 (runStage attentionBwdOut) s)

end Sys2Proof.Machine
end

