-- ==== Sys2Proof/Machine/Sequence.lean ====
section
/-! DEFINITION. Machine/Sequence.lean: the gate curves, RECURRENT and SCAN (08_sequence_state R287 to R307). -/

namespace Sys2Proof.Machine
open Sys2Proof

/-! ## Gate curves (R287, R288) -/

/-- Breakpoints at the integers −8 to 8: the FP32 value nearest each exact function value. -/
def sigmoidPoints : List Nat :=
  [0x39afd1ef, 0x3a6ed39c, 0x3b220bbc, 0x3bdb4fb4, 0x3c9357d1, 0x3d4241a2, 0x3df420a9, 0x3e89b2b1, 0x3f000000,
   0x3f3b26a8, 0x3f617beb, 0x3f73dbe6, 0x3f7b6541, 0x3f7e4961, 0x3f7f5df4, 0x3f7fc44b, 0x3f7fea06]
def tanhPoints : List Nat :=
  [0xbf7ffffc, 0xbf7fffe4, 0xbf7fff32, 0xbf7ffa0d, 0xbf7fd40c, 0xbf7ebbe9, 0xbf76ca83, 0xbf42f7d6, 0x00000000,
   0x3f42f7d6, 0x3f76ca83, 0x3f7ebbe9, 0x3f7fd40c, 0x3f7ffa0d, 0x3f7fff32, 0x3f7fffe4, 0x3f7ffffc]
def siluPoints : List Nat :=
  [0xbb2fd1ef, 0xbbd0f929, 0xbc731199, 0xbd0911d0, 0xbd9357d1, 0xbe11b139, 0xbe7420a9, 0xbe89b2b1, 0x00000000,
   0x3f3b26a8, 0x3fe17beb, 0x4036e4ec, 0x407b6541, 0x409eeddc, 0x40bf8677, 0x40dfcbc2, 0x40ffea06]

/-- x − 0.0026828 rounded to FP32, for x of at least 8. -/
def siluTail : Flt → Flt
  | .fin _ m e => roundRat fp32 false (m * 2 ^ e.toNat * 10000000 - 26828 * 2 ^ (-e).toNat) 10000000 (min e 0)
  | x => x

/-- A curve by its breakpoints. -/
def curve (points : List Nat) (silu : Bool) (x : Flt) : Flt :=
  let v (k : Int) : Flt := ofBits32 (points.getD (k + 8).toNat 0)
  match x with
  | .nan => .nan
  | _ =>
    if !ltF x (ofInt 8 0) then (if silu then siluTail x else v 8)
    else if ltF x (ofInt (-8) 0) then v (-8)
    else
      let k : Int := (splitInt x).1
      fma32 (subF x (ofInt k 0)) (round32 (subF (v (k + 1)) (v k))) (v k)

def sigmoid (x : Flt) : Flt := curve sigmoidPoints false x
def tanh (x : Flt) : Flt := curve tanhPoints false x
def silu (x : Flt) : Flt := curve siluPoints true x

/-! ## What the two operators share (R292, R293, R295, R301, R305) -/

def seqSteps (p : Bytes) : Nat := leAt p 0 4
/-- `cell` of RECURRENT, `a_mode` of SCAN. -/
def seqKind (p : Bytes) : Nat := byteAt p 4
def seqLast (p : Bytes) : Bool := bit (byteAt p 5) 0
def seqFp32 (p : Bytes) : Bool := bit (byteAt p 5) 1
/-- Bytes of an element of slots 0, 8 and 9. -/
def seqElem (p : Bytes) : Nat := if seqFp32 p then 4 else 2
def seqValue (p b : Bytes) (i : Nat) : Flt :=
  if seqFp32 p then ofBits32 (leAt b (4 * i) 4) else ofBf16 (leAt b (2 * i) 2)

def seqParamChecks (t : Stage) (kinds : Nat) : List (Bool × Nat) :=
  [(decide (1 ≤ seqSteps t.params) && decide (seqSteps t.params ≤ 2 ^ 24), t.atParam 0),
   (decide (seqKind t.params < kinds), t.atParam 4), (decide (byteAt t.params 5 < 4), t.atParam 5),
   (zeroAt t.params 6 2, t.atParam 6)]

/-- Slots in order: `must` lists those that must be given, `none'` those that must be 0. -/
def seqSlotChecks (t : Stage) (must none' : List Nat) : List (Bool × Nat) :=
  (List.range 16).map (fun i => (if must.contains i then decide (t.slot i ≠ 0)
    else if none'.contains i then decide (t.slot i = 0) else true, t.atSlot i))

/-- A step's mark (R301): streams in order, each ⌈T ÷ 64⌉ words. -/
def markAt (b : Bytes) (steps stream step : Nat) : Bool :=
  bit (leAt b (8 * (stream * ceilDiv steps 64 + step / 64)) 8) (step % 64)

/-- One update of the state lane (R295): after a reset the old state is not used (R303). -/
def stateStep (comp fresh : Bool) (acc : Acc) (a b : Flt) : Acc :=
  if fresh then (if comp then compSet b else { a := round32 b })
  else if comp then compSet (addF (addF (mulF a acc.a) b) (remValue acc.a acc.rem))
  else { a := fma32 a acc.a b }

/-- A state entry (R305). -/
def readEntry (comp : Bool) (b : Bytes) (i : Nat) : Acc :=
  { a := ofBits32 (leAt b (8 * i) 4), rem := if comp then toSigned 16 (leAt b (8 * i + 4) 2) else 0 }
def entryBytes (x : Acc) : Bytes := leBytes 4 (toBits32 x.a) ++ leBytes 2 (ofSigned 16 x.rem) ++ zeros 2

/-- The state in: zeros when slot 11 is 0. -/
def stateIn (s : State) (c : Cmd) (t : Stage) (entries : Nat) : Except Fail (List (List Acc)) := do
  if t.slot 11 = 0 then .ok (List.replicate t.m (List.replicate entries { a := zeroF })) else do
  let b ← fetchSlot s c t 11 (8 * t.m * entries)
  .ok ((List.range t.m).map (fun i => (List.range entries).map (fun e => readEntry t.comp b (i * entries + e))))

/-- The outputs of streams, reordered to [step][stream] or, with `last_only`, [stream]. -/
def seqOut (t : Stage) (steps : Nat) (ys : List (List (List Flt))) : Bytes :=
  if seqLast t.params then ys.flatMap (fun y => drain t (y.getLastD []))
  else (List.range steps).flatMap (fun p => ys.flatMap (fun y => drain t (y.getD p [])))

/-- The result of a sequence command, within the limit of R307. -/
def seqResult (t : Stage) (out : Bytes) (states : List (List Acc)) (work : List Work) (barriers : List Nat) (draws : Nat) : Except Fail OpOut :=
  let st := if t.slot 12 = 0 then [] else states.flatMap (fun l => l.flatMap entryBytes)
  if 0x4000000 < out.length + st.length then .error (bad (t.atParam 0))
  else .ok { out := out, extra := if t.slot 12 = 0 then [] else [(t.slot 12, st, 12)], work := work, barriers := barriers, draws := draws }

/-! ## RECURRENT (R290 to R297, R303) -/

def recurrentDescChecks (t : Stage) : List (Bool × Nat) :=
  [(decide (t.wfmt < 4) && decide (3 ≤ t.afmt) && !t.accIn, 16), (decide (t.m ≤ 4096), 24),
   (decide (t.k ≤ 384 * lanesOf t.wfmt), 28), (t.n == 4 * t.k, 32)]
def recurrentSlotChecks (t : Stage) (needIn needOut : Bool) : List (Bool × Nat) :=
  seqSlotChecks t ((if needIn then [0] else []) ++ (if needOut then [4] else []) ++
      (if t.ownWeights then (if t.wfmt % 2 = 0 then [5, 6] else [5, 6, 7]) else [])) [1, 2, 3, 9, 13, 14, 15]

/-- Frets of a row tile: ⌈H ÷ (32 × L)⌉ (R294). -/
def rowTileFrets (t : Stage) : Nat := ceilDiv t.k (32 * lanesOf t.wfmt)

/-- Frets in service of a string. -/
def stringFrets (s : State) (j : Nat) : Nat := ((List.range 12).filter (fun i => fretIn s (12 * j + i))).length
def bestString (s : State) : Nat := ([0, 1, 2, 3].map (stringFrets s)).foldl max 0

/-- The activations of h as the array takes them: the format of `afmt`, then R141. -/
def hBlocks (afmt : Nat) (h : List Flt) : List Interval :=
  let f (x : Flt) : Flt := if afmt = 3 then ofE4m3 (toE4m3 x) else if afmt = 4 then ofE5m2 (toE5m2 x) else ofBf16 (toBf16 x)
  convertBlocks false 32 (h.map f)

/-- Decay, input term and output gate of an element (R290). A pre-activation enters its curve exactly: the rounding that R308 allows a step is
that of a_t and b_t (DEDUCED, log entry 59). -/
def gates (cell : Nat) (px ph b : Nat → Flt) : Flt × Flt × Flt :=
  let pre (q : Nat) : Flt := addF (addF (px q) (ph q)) (b q)
  if cell = 0 then (sigmoid (pre 1), mul32 (sigmoid (pre 0)) (tanh (pre 2)), sigmoid (pre 3))
  else
    let r := sigmoid (pre 0)
    let u := sigmoid (pre 1)
    (u, mul32 (round32 (subF oneF u)) (tanh (addF (px 2) (mulF r (addF (ph 2) (b 2))))), oneF)

/-- One step of a stream (R296): the state and h; the result is the next state and h. -/
def recStep (t : Stage) (u : WeightMat) (px b : Nat → Flt) (mark : Bool) (st : List Acc × List Flt) : List Acc × List Flt :=
  let h := if mark then st.2.map (fun _ => zeroF) else st.2
  let hb := hBlocks t.afmt h
  let cell := seqKind t.params
  let next := st.1.mapIdx (fun j acc =>
    let g := gates cell (fun q => px (4 * j + q)) (fun q => (runIntervals false u (4 * j + q) { a := zeroF } hb).a) (fun q => b (4 * j + q))
    let c := stateStep t.comp mark acc g.1 g.2.1
    (c, if cell = 0 then mul32 g.2.2 (tanh c.a) else c.a))
  (next.map Prod.fst, next.map Prod.snd)

/-- The steps of a stream: its state and h before each of them and after the last. -/
def recRun (f : Nat → List Acc × List Flt → List Acc × List Flt) : Nat → Nat → List Acc × List Flt → List (List Acc × List Flt)
  | 0, _, st => [st]
  | n + 1, p, st => st :: recRun f n (p + 1) (f p st)

/-- h as the gate edge writes it into a work area: the format of `afmt` (R296). -/
def hBytes (afmt : Nat) (h : List Flt) : Bytes :=
  h.flatMap (fun x => if afmt = 3 then leBytes 1 (toE4m3 x) else if afmt = 4 then leBytes 1 (toE5m2 x) else leBytes 2 (toBf16 x))

/-- What fret `n` of a row tile holds behind a step: in lanes 0 to L − 1 the products of its gate columns, which are panel `n` of U, and in lane 3
of row i the state of its elements of stream i, one in each column, with the remainders (R294 to R296; DESIGN CHOICE, log entry 74). Each
row is the h that went in, and the state. -/
def recArray (u : WeightMat) (n : Nat) (rows : List (List Interval × List Acc)) : ArrayEnd :=
  let per := u.width / 4
  let own (l : List Acc) : List Acc := (l.drop (per * n)).take per
  { lanes := (rows.mapIdx (fun r x =>
      (List.range (min u.width (u.n - u.width * n))).map (fun q =>
        let j := u.width * n + q
        let acc := runIntervals false u j { a := zeroF } x.1
        (laneAt r q, match x.1.getLast? with | none => { acc := toBits32 acc.a } | some v => laneAfter u j v acc)) ++
      (own x.2).mapIdx (fun e a => (4 * cellAt r e + 3, { acc := toBits32 a.a })))).flatten
    rems := (rows.mapIdx (fun r x => (own x.2).mapIdx (fun e a => (cellAt r e, ofSigned 16 a.rem)))).flatten }

/-- A row tile of RECURRENT as a slice on its frets, which may be cut behind each step, of H + 352 cycles. At the end of each run of steps the
state values, their remainders and h_t are saved; every fret's work area holds the converted h_t, and the state and U stay on the
frets (R294, R296, R297). -/
def rowTileSlice (c : Cmd) (t : Stage) (u : WeightMat) (panel : Nat) (marks : Nat → Nat → Bool) (runs : List (List (List Acc × List Flt))) : Work :=
  let steps := List.range (seqSteps t.params)
  let at' (n : Nat) (r : List (List Acc × List Flt)) : List Acc × List Flt := r.getD n ([], [])
  let into (n i : Nat) (r : List (List Acc × List Flt)) : List Interval :=
    hBlocks t.afmt (if marks i n then (at' n r).2.map (fun _ => zeroF) else (at' n r).2)
  { panel := panel, frets := rowTileFrets t, upTo := rowTileFrets t, step := t.k + 352, stays := true, usesEdge := true
    bytes := u.w.length + u.sc.length + u.zp.length, needs := stageNeeds c t 0 t.n, whole := true
    ends := steps.map (fun n => runs.flatMap (fun r => (at' (n + 1) r).1.map accWord ++ (at' (n + 1) r).2.map toBits32))
    array := steps.map (fun n => (List.range (rowTileFrets t)).map (fun k =>
      recArray u k (runs.mapIdx (fun i r => (into n i r, (at' (n + 1) r).1)))))
    area := steps.map (fun n => runs.flatMap (fun r => hBytes t.afmt (at' (n + 1) r).2)) }

/-- What RECURRENT computes. -/
def recurrentOut (s : State) (c : Cmd) (t : Stage) (input : Option Bytes) : Except Fail OpOut :=
  if bestString s < rowTileFrets t then .error (bad (t.atDesc 28)) else do
  let u ← weightsOf' s c t
  let steps := seqSteps t.params
  let lstm := decide (seqKind t.params = 0)
  let px ← match input with
    | some b => .ok b
    | none => fetchSlot s c t 0 (steps * t.m * t.n * seqElem t.params)
  let bias ← if t.slot 8 = 0 then .ok [] else fetchSlot s c t 8 (4 * t.n)
  let marks ← if t.slot 10 = 0 then .ok [] else fetchSlot s c t 10 (8 * t.m * ceilDiv steps 64)
  let st ← stateIn s c t (if lstm then 2 * t.k else t.k)
  let b (q : Nat) : Flt := if t.slot 8 = 0 then zeroF else ofBits32 (leAt bias (4 * q) 4)
  let runs := st.mapIdx (fun i l =>
    let first := l.take t.k
    let h := (if lstm then l.drop t.k else first).map (fun x => x.a)
    recRun (fun p => recStep t u (fun q => seqValue t.params px ((p * t.m + i) * t.n + q)) b (markAt marks steps i p)) steps 0 (first, h))
  let last := runs.map (fun r => r.getLastD ([], []))
  seqResult t (seqOut t steps (runs.map (fun r => (r.drop 1).map Prod.snd)))
    (last.map (fun r => if lstm then r.1 ++ r.2.map (fun x => ({ a := x } : Acc)) else r.1))
    ((chunksOf 128 (t.m + 1) runs).mapIdx (fun q l => rowTileSlice c t u q (fun i p => markAt marks steps (128 * q + i) p) l)) [] 0

/-- RECURRENT. -/
def execRecurrent (id : Nat) (s : State) : Res := ok (runReady id 0x04 (runStage recurrentOut) s)

/-! ## SCAN (R298 to R302) -/

def scanDescChecks (t : Stage) : List (Bool × Nat) :=
  [(decide (t.wfmt = 0) && decide (t.afmt = 0) && decide (t.gsize = 0) && !t.accIn, 16), (decide (t.m ≤ 4096), 24), (t.k == 32, 28),
   (decide (t.n ≤ 65536), 32), (t.tensor == 0xFFFF, 38)]
def scanSlotChecks (t : Stage) (needIn needOut : Bool) : List (Bool × Nat) :=
  seqSlotChecks t ((if needIn then [0] else []) ++ (if needOut then [4] else []) ++ [8]) [1, 2, 3, 5, 6, 7, 13, 14, 15]

/-- A position after phase 1: A, S and whether it is forced. -/
structure ScanPos where
  a : Flt
  s : Acc
  forced : Bool

/-- Phase 1 of a tile: carry-in 0. -/
def phase1 (comp : Bool) : ScanPos → List (Flt × Flt × Bool) → List ScanPos
  | _, [] => []
  | x, (a, b, mark) :: l =>
    let y : ScanPos := { a := if mark || x.forced then zeroF else mul32 a x.a, s := stateStep comp mark x.s a b, forced := x.forced || mark }
    y :: phase1 comp y l

/-- A × carry + S with both remainders: what a chunk carries out. -/
def carryOut (comp : Bool) (carry : Acc) (x : ScanPos) : Acc :=
  if x.forced then x.s
  else if comp then compSet (addF (mulF x.a (accValue carry)) (accValue x.s))
  else { a := fma32 x.a carry.a x.s.a }

/-- Phase 3 of a position. -/
def phase3 (carry : Acc) (x : ScanPos) : Flt :=
  if x.forced then x.s.a else round32 (addF (mulF x.a (accValue carry)) (accValue x.s))

/-- Phase 1 of the chunks of one element. -/
def scanTiles (comp : Bool) (terms : List (Flt × Flt × Bool)) : List (List ScanPos) :=
  (chunksOf 128 (terms.length + 1) terms).map (phase1 comp { a := oneF, s := { a := zeroF }, forced := false })

/-- Phase 2 over the chunks of one element: the carry out of each (R300). -/
def scanCarries (comp : Bool) : Acc → List (List ScanPos) → List Acc
  | _, [] => []
  | carry, ps :: l =>
    let next := match ps.getLast? with | none => carry | some x => carryOut comp carry x
    next :: scanCarries comp next l

/-- Phase 3 over the chunks of one element, each with the carry into it. -/
def scanValues (comp : Bool) (carry : Acc) (l : List (List ScanPos)) : List Flt :=
  (l.zip (carry :: scanCarries comp carry l)).flatMap (fun x => x.1.map (phase3 x.2))

/-- The decay of R298. In mode 2 the product by log2(e), a constant in FP32, is rounded to FP32 before exp2 (DESIGN CHOICE, log entry 77). -/
def scanDecay (mode i : Nat) (z : Flt) : Flt :=
  match mode with
  | 0 => z
  | 1 => sigmoid z
  | _ => exp2At i (mul32 (minF z zeroF) log2e)

/-- What a tile holds in the array behind phase 1, and in phase 3: S with its remainder in lane 0 and A in lane 1, by position and element (R300). -/
def scanArray (els : List (List ScanPos)) : ArrayEnd :=
  { lanes := (els.mapIdx (fun d ps => (ps.mapIdx (fun p x =>
      [(4 * cellAt p d, ({ acc := toBits32 x.s.a } : Lane)), (4 * cellAt p d + 1, { acc := toBits32 x.a })])).flatten)).flatten
    rems := (els.mapIdx (fun d ps => ps.mapIdx (fun p x => (cellAt p d, ofSigned 16 x.s.rem)))).flatten }

/-- A tile of SCAN: phase 1 by element of its column block, and the carries out of it. -/
abbrev ScanTile := List (List ScanPos) × List Acc

/-- The tiles of the elements of one stream: by column block, then by chunk. -/
def scanTilesOf (chunks : Nat) (els : List (List (List ScanPos) × List Acc)) : List ScanTile :=
  (chunksOf 128 (els.length + 1) els).flatMap (fun block => (List.range chunks).map (fun k =>
    (block.map (fun x => x.1.getD k []), block.map (fun x => x.2.getD k { a := zeroF }))))

/-- The slices of SCAN: phase 1 of every tile, then phase 3 of every tile. The carry out of a chunk is held in staging space from the end of its
phase 1 on (R304; DESIGN CHOICE, log entry 77). -/
def scanWork (tiles : List ScanTile) : List Work :=
  numbered (tiles.map (fun x => ({ array := [[scanArray x.1]], keeps := x.2.map accWord, usesEdge := true } : Work)) ++
    tiles.map (fun x => ({ array := [[scanArray x.1]], usesEdge := true } : Work)))

/-- What SCAN computes. The product of s and its output gate is rounded to FP32 before the output conversion (R298; DESIGN CHOICE, log entry 77). -/
def scanOut (s : State) (c : Cmd) (t : Stage) (input : Option Bytes) : Except Fail OpOut := do
  let steps := seqSteps t.params
  let len := steps * t.m * t.n * seqElem t.params
  let b ← match input with
    | some x => .ok x
    | none => fetchSlot s c t 0 len
  let a ← fetchSlot s c t 8 len
  let g ← if t.slot 9 = 0 then .ok [] else fetchSlot s c t 9 len
  let marks ← if t.slot 10 = 0 then .ok [] else fetchSlot s c t 10 (8 * t.m * ceilDiv steps 64)
  let st ← stateIn s c t t.n
  let el (x : Bytes) (p i d : Nat) : Flt := seqValue t.params x ((p * t.m + i) * t.n + d)
  let ps := (List.range t.m).map (fun i => (List.range t.n).map (fun d => scanTiles t.comp ((List.range steps).map (fun p =>
    (scanDecay (seqKind t.params) (s.free + (p * t.m + i) * t.n + d) (el a p i d), el b p i d, markAt marks steps i p)))))
  let carries := st.mapIdx (fun i l => l.mapIdx (fun d c0 => scanCarries t.comp c0 ((ps.getD i []).getD d [])))
  let runs := st.mapIdx (fun i l => l.mapIdx (fun d c0 =>
    ((scanValues t.comp c0 ((ps.getD i []).getD d [])).mapIdx (fun p y => if t.slot 9 = 0 then y else mul32 y (silu (el g p i d))),
      (((carries.getD i []).getD d []).getLast?).getD c0)))
  let ys := runs.map (fun r => (List.range steps).map (fun p => r.map (fun x => x.1.getD p zeroF)))
  seqResult t (seqOut t steps ys) (runs.map (fun r => r.map Prod.snd))
    (scanWork ((ps.zip carries).flatMap (fun x => scanTilesOf (ceilDiv steps 128) (x.1.zip x.2)))) [t.m * ceilDiv t.n 128 * ceilDiv steps 128] (steps * t.m * t.n)

/-- SCAN. -/
def execScan (id : Nat) (s : State) : Res := ok (runReady id 0x05 (runStage scanOut) s)

end Sys2Proof.Machine
end

