-- ==== Sys2Proof/Machine/Image.lean ====
section
/-! DEFINITION. Machine/Image.lean: CONV, POOL and REGROUP (09_image_operators R313 to R336). -/

namespace Sys2Proof.Machine
open Sys2Proof

/-! ## Geometry (R313 to R317) -/

/-- An output dimension (R314); 0 where the window does not fit. -/
def outDim (h pad d k stride : Nat) : Nat := if h + pad < d * (k - 1) + 1 then 0 else (h + pad - d * (k - 1) - 1) / stride + 1

def imgCount (p : Bytes) : Nat := leAt p 0 2
def imgH (p : Bytes) : Nat := leAt p 2 2
def imgW (p : Bytes) : Nat := leAt p 4 2
def imgC (p : Bytes) : Nat := leAt p 6 2
def winH (p : Bytes) : Nat := byteAt p 8
def winW (p : Bytes) : Nat := byteAt p 9
def strideY (p : Bytes) : Nat := byteAt p 10
def strideX (p : Bytes) : Nat := byteAt p 11

def within (lo hi v : Nat) : Bool := decide (lo ≤ v) && decide (v ≤ hi)
/-- `r` of a regrouping: 0 for none. -/
def regroupOk (r : Nat) : Bool := r == 0 || r == 2 || r == 4 || r == 8
def one' (r : Nat) : Nat := max 1 r

/-! ## CONV (R315 to R323) -/

def dilY (p : Bytes) : Nat := byteAt p 12
def dilX (p : Bytes) : Nat := byteAt p 13
def padT (p : Bytes) : Nat := byteAt p 14
def padB (p : Bytes) : Nat := byteAt p 15
def padL (p : Bytes) : Nat := byteAt p 16
def padR (p : Bytes) : Nat := byteAt p 17
def convGroups (p : Bytes) : Nat := leAt p 18 2
def inR (p : Bytes) : Nat := one' (byteAt p 20)
def outR (p : Bytes) : Nat := one' (byteAt p 21)

/-- Effective input height, width and channels (R316). -/
def effH (p : Bytes) : Nat := imgH p / inR p
def effW (p : Bytes) : Nat := imgW p / inR p
def effC (p : Bytes) : Nat := inR p * inR p * imgC p
def convHo (p : Bytes) : Nat := outDim (effH p) (padT p + padB p) (dilY p) (winH p) (strideY p)
def convWo (p : Bytes) : Nat := outDim (effW p) (padL p + padR p) (dilX p) (winW p) (strideX p)
def convGi (p : Bytes) : Nat := effC p / convGroups p
def convKg (p : Bytes) : Nat := 32 * ceilDiv (winH p * winW p * convGi p) 32

def diagonal (p : Bytes) : Bool := decide (1 < convGroups p) && convGi p == 1

/-- Checks of the parameter block, then of the shape it gives. -/
def convParamChecks (t : Stage) : List (Bool × Nat) :=
  let p := t.params
  let span := min (127 * strideX p + (winW p - 1) * dilX p + 1) (effW p)
  let at' := t.atParam
  [(within 1 4096 (imgCount p), at' 0), (within 1 16384 (imgH p), at' 2), (within 1 16384 (imgW p), at' 4), (decide (1 ≤ imgC p), at' 6),
   (within 1 11 (winH p), at' 8), (within 1 11 (winW p), at' 9), (within 1 8 (strideY p), at' 10), (within 1 8 (strideX p), at' 11),
   (within 1 8 (dilY p), at' 12), (within 1 8 (dilX p), at' 13),
   (decide (padT p ≤ dilY p * (winH p - 1)), at' 14), (decide (padB p ≤ dilY p * (winH p - 1)), at' 15),
   (decide (padL p ≤ dilX p * (winW p - 1)), at' 16), (decide (padR p ≤ dilX p * (winW p - 1)), at' 17),
   (decide (1 ≤ convGroups p), at' 18), (regroupOk (byteAt p 20), at' 20), (regroupOk (byteAt p 21), at' 21), (zeroAt p 22 10, at' 22),
   (imgH p % inR p == 0, at' 2), (imgW p % inR p == 0, at' 4),
   (decide (1 ≤ convHo p), at' 2), (decide (1 ≤ convWo p), at' 4),
   (effC p % convGroups p == 0 && t.n % convGroups p == 0, at' 18),
   (convGroups p == 1 || decide (t.n / convGroups p ≤ 128), at' 18),
   (t.n % (outR p * outR p) == 0, at' 21),
   (diagonal p || decide (span * effC p * actBytes t.afmt ≤ 0x80000), at' 6),
   (t.m == imgCount p * convHo p * convWo p, t.atDesc 24), (t.k == convKg p, t.atDesc 28),
   (!t.comp && (!diagonal p || decide (t.afmt < 2)), t.atDesc 16)]

/-- Slots of CONV (R319). -/
def convSlotChecks (t : Stage) (needIn needOut : Bool) : List (Bool × Nat) :=
  slotChecks t needIn needOut ++ (List.range 7).map (fun i => (decide (t.slot (9 + i) = 0), t.atSlot (9 + i)))

/-- An input element at an effective position, none where padding lies. -/
def convInput (t : Stage) (x : Bytes) (img : Nat) (y xx : Int) (ch : Nat) : Option Nat :=
  let p := t.params
  let e := actBytes t.afmt
  if y < 0 ∨ (effH p : Int) ≤ y ∨ xx < 0 ∨ (effW p : Int) ≤ xx then none else
  let r := inR p
  let block := ch / imgC p
  let sy := r * y.toNat + block / r
  let sx := r * xx.toNat + block % r
  some (leAt x ((((img * imgH p + sy) * imgW p + sx) * imgC p + ch % imgC p) * e) e)

/-- The gathered activation row of an output pixel and a group, `Kg` elements: none at padding (R320, R321, R324). -/
def convRow (t : Stage) (x : Bytes) (img yo xo g : Nat) : List (Option Nat) :=
  let p := t.params
  let gi := convGi p
  let row := (List.range (winH p * winW p * gi)).map (fun i =>
    let tap := i / gi
    convInput t x img ((yo * strideY p : Nat) - (padT p : Int) + (tap / winW p * dilY p : Nat))
      ((xo * strideX p : Nat) - (padL p : Int) + (tap % winW p * dilX p : Nat)) (g * gi + i % gi))
  row ++ List.replicate (t.k - row.length) none

/-- The rescale intervals of a gathered row. -/
def convIntervals (t : Stage) (sc : Flt) (zp : Nat) (row : List (Option Nat)) : List Interval :=
  if 3 ≤ t.afmt then convertBlocks false 32 (row.map (fun v => match v with | none => zeroF | some v => actValue t.afmt v))
  else (chunksOf t.group (row.length + 1) row).mapIdx (fun g l =>
    { first := g * t.group, ints := l.map (fun v => match v with | none => 0 | some v => actInt t.afmt v zp), scale := sc, zero := zp })

/-- Regroup channel-to-space: pixels of `h × w`, each a list of channels (R317). -/
def channelToSpace {α : Type} (r images h w : Nat) (d : α) (px : List (List α)) : List (List α) :=
  let n := (px.headD []).length / (r * r)
  (List.range (images * (r * h) * (r * w))).map (fun i =>
    let x := i % (r * w)
    let y := i / (r * w) % (r * h)
    let src := px.getD ((i / (r * w * (r * h)) * h + y / r) * w + x / r) []
    (List.range n).map (fun c => src.getD ((y % r * r + x % r) * n + c) d))

/-- Pixels and channels of each tile of a CONV, by channel panel (R323). -/
def convGrid (t : Stage) : List (List Nat) × List (List Nat) :=
  let p := t.params
  let width := 128 * lanesOf t.wfmt
  let go := t.n / convGroups p
  let cols := if convGroups p = 1 then width else if diagonal p then 128 else width / max 1 go * go
  let rows := if diagonal p then (List.range (imgCount p * convHo p)).flatMap (fun r =>
      (chunksOf 128 (convWo p + 1) (List.range (convWo p))).map (fun l => l.map (fun x => r * convWo p + x)))
    else chunksOf 128 (t.m + 1) (List.range t.m)
  (rows, chunksOf (max 1 cols) (t.n + 1) (List.range t.n))

/-- The slices of a CONV, each one whole output tile (R327; 10_scheduling_sharing R349); `acc` is the accumulator of a pixel and a
channel, `lane` its lane at the drain. -/
def convWork (c : Cmd) (t : Stage) (weights : Nat) (acc : Nat → Nat → Acc) (lane : Nat → Nat → Lane × Int) : List Work :=
  let g := convGrid t
  (g.2.mapIdx (fun q js => g.1.map (fun is =>
    ({ panel := q, bytes := ceilDiv weights (max 1 g.2.length), needs := stageNeeds c t (js.headD 0) js.length
       ends := [is.flatMap (fun i => js.map (fun j => accWord (acc i j)))], array := [[tileArray false lane is js]] } : Work)))).flatten

/-- What CONV computes: each output tile is one slice, so its reduction is not split (R327; DEDUCED, log entry 5). -/
def convOut (s : State) (c : Cmd) (t : Stage) (input : Option Bytes) : Except Fail OpOut := do
  let p := t.params
  let a ← weightsOf' s c t
  let x ← match input with
    | some b => .ok b
    | none => fetchSlot s c t 0 (imgCount p * imgH p * imgW p * imgC p * actBytes t.afmt)
  let sc ← if t.afmt ≤ 2 then fetchSlot s c t 1 2 else .ok []
  let zp ← if t.afmt = 1 then fetchSlot s c t 2 1 else .ok []
  let acc ← if t.accIn then fetchSlot s c t 3 (4 * t.m * t.n) else .ok []
  let bias ← if t.slot 8 = 0 then .ok [] else fetchSlot s c t 8 (4 * t.n)
  let go := t.n / convGroups p
  let start (i j : Nat) : Flt :=
    let a0 := if t.accIn then ofBits32 (leAt acc (4 * (i * t.n + j)) 4) else zeroF
    if t.slot 8 = 0 then a0 else add32 a0 (ofBits32 (leAt bias (4 * j) 4))
  let rows := (List.range t.m).map (fun i => (List.range (convGroups p)).map (fun g =>
    convIntervals t (ofBf16 (leAt sc 0 2)) (byteAt zp 0) (convRow t x (i / (convHo p * convWo p)) (i / convWo p % convHo p) (i % convWo p) g)))
  let row (i j : Nat) : List Interval := (rows.getD i []).getD (j / go) []
  let value (i j : Nat) : Acc := runIntervals false a j { a := start i j } (row i j)
  let lane (i j : Nat) : Lane × Int := (match (row i j).getLast? with | none => {} | some v => laneAfter a j v (value i j), 0)
  let px := (List.range t.m).map (fun i => (List.range t.n).map (fun j => (value i j).a))
  let out := if outR p = 1 then px else channelToSpace (outR p) (imgCount p) (convHo p) (convWo p) zeroF px
  .ok { out := out.flatMap (drain t), work := convWork c t (a.w.length + a.sc.length + a.zp.length) value lane }

/-- CONV. -/
def execConv (id : Nat) (s : State) : Res := ok (runReady id 0x06 (runStage convOut) s)

/-! ## POOL (R329 to R332) -/

def poolDescChecks (t : Stage) : List (Bool × Nat) :=
  [(decide (t.wfmt = 0) && decide (t.gsize = 0) && !t.comp && !t.accIn && decide (t.afmt ≠ 2), 16), (t.k == 32, 28), (t.tensor == 0xFFFF, 38)]

def poolPad (p : Bytes) (i : Nat) : Nat := byteAt p (12 + i)
def poolHo (p : Bytes) : Nat := outDim (imgH p) (poolPad p 0 + poolPad p 1) 1 (winH p) (strideY p)
def poolWo (p : Bytes) : Nat := outDim (imgW p) (poolPad p 2 + poolPad p 3) 1 (winW p) (strideX p)

def poolParamChecks (t : Stage) : List (Bool × Nat) :=
  let p := t.params
  let at' := t.atParam
  [(within 1 4096 (imgCount p), at' 0), (within 1 16384 (imgH p), at' 2), (within 1 16384 (imgW p), at' 4),
   (decide (1 ≤ imgC p) && imgC p == t.n, at' 6), (within 1 8 (winH p), at' 8), (within 1 8 (winW p), at' 9),
   (within 1 8 (strideY p), at' 10), (within 1 8 (strideX p), at' 11),
   (decide (poolPad p 0 < winH p), at' 12), (decide (poolPad p 1 < winH p), at' 13),
   (decide (poolPad p 2 < winW p), at' 14), (decide (poolPad p 3 < winW p), at' 15),
   (decide (byteAt p 16 < 3), at' 16), (zeroAt p 17 15, at' 17),
   (decide (1 ≤ poolHo p), at' 2), (decide (1 ≤ poolWo p), at' 4), (t.m == imgCount p * poolHo p * poolWo p, t.atDesc 24)]

def poolSlotChecks (t : Stage) (needIn needOut : Bool) : List (Bool × Nat) :=
  let need := (if needIn then [0] else []) ++ (if t.afmt < 2 then [1] else []) ++ (if t.afmt = 1 then [2] else []) ++ (if needOut then [4] else [])
  seqSlotChecks t need [3, 5, 6, 7, 8, 9, 10, 11, 12, 13, 14, 15]

/-- The larger of two values, +0 above −0. -/
def maxPool (a b : Flt) : Flt :=
  if isNan a || isNan b then .nan else if ltF a b then b else if ltF b a then a else if isNeg a then b else a

/-- The pooled value of a window's values in order (R330). -/
def poolValue (mode window : Nat) (vs : List Flt) : Flt :=
  match vs with
  | [] => zeroF
  | v :: l =>
    if mode = 0 then l.foldl maxPool v
    else div32 (l.foldl add32 v) (ofInt (if mode = 1 then vs.length else window : Nat) 0)

/-- What POOL computes. -/
def poolOut (s : State) (c : Cmd) (t : Stage) (input : Option Bytes) : Except Fail OpOut := do
  let p := t.params
  let e := actBytes t.afmt
  let x ← match input with
    | some b => .ok b
    | none => fetchSlot s c t 0 (imgCount p * imgH p * imgW p * t.n * e)
  let sc ← if t.afmt < 2 then fetchSlot s c t 1 2 else .ok []
  let zp ← if t.afmt = 1 then fetchSlot s c t 2 1 else .ok []
  let value (v : Nat) : Flt := if t.afmt < 2 then round32 (mulF (ofInt (actInt t.afmt v (byteAt zp 0)) 0) (ofBf16 (leAt sc 0 2))) else actValue t.afmt v
  let px := (List.range t.m).map (fun i =>
    let img := i / (poolHo p * poolWo p)
    let y0 : Int := (i / poolWo p % poolHo p * strideY p : Nat) - (poolPad p 0 : Int)
    let x0 : Int := (i % poolWo p * strideX p : Nat) - (poolPad p 2 : Int)
    let at' : List (Int × Int) := ((List.range (winH p)).flatMap (fun (dy : Nat) => (List.range (winW p)).map (fun (dx : Nat) => (y0 + (dy : Int), x0 + (dx : Int))))).filter
      (fun (q : Int × Int) => decide (0 ≤ q.1) && decide (q.1 < imgH p) && decide (0 ≤ q.2) && decide (q.2 < imgW p))
    (List.range t.n).map (fun ch => poolValue (byteAt p 16) (winH p * winW p)
      (at'.map (fun q => value (leAt x ((((img * imgH p + q.1.toNat) * imgW p + q.2.toNat) * t.n + ch) * e) e)))))
  .ok { out := px.flatMap (drain t), work := (plainWork (ceilDiv t.m 128 * ceilDiv t.n 128)).map (fun w => { w with edge := true }) }

/-- POOL. -/
def execPool (id : Nat) (s : State) : Res := ok (runReady id 0x07 (runStage poolOut) s)

/-! ## REGROUP (R334 to R336) -/

def regroupDescChecks (t : Stage) : List (Bool × Nat) :=
  [(t.mode == t.afmt * 8, 16), (t.outScale == 0, 20), (t.k == 32, 28), (t.tensor == 0xFFFF, 38)]

def regR (p : Bytes) : Nat := byteAt p 8
def regDir (p : Bytes) : Nat := byteAt p 9
/-- Output pixels and channels. -/
def regroupPixels (p : Bytes) : Nat :=
  if regDir p = 0 then imgCount p * (imgH p / regR p) * (imgW p / regR p) else imgCount p * (imgH p * regR p) * (imgW p * regR p)
def regroupChannels (p : Bytes) : Nat := if regDir p = 0 then imgC p * regR p * regR p else imgC p / (regR p * regR p)

def regroupParamChecks (t : Stage) : List (Bool × Nat) :=
  let p := t.params
  let at' := t.atParam
  [(within 1 4096 (imgCount p), at' 0), (within 1 16384 (imgH p), at' 2), (within 1 16384 (imgW p), at' 4), (decide (1 ≤ imgC p), at' 6),
   (regroupOk (regR p) && regR p != 0, at' 8), (decide (regDir p < 2), at' 9),
   (decide (byteAt p 10 < 2) && (byteAt p 10 == 0 || regDir p == 0), at' 10), (zeroAt p 11 5, at' 11),
   (regDir p == 1 || imgH p % regR p == 0, at' 2), (regDir p == 1 || imgW p % regR p == 0, at' 4),
   (regDir p == 0 || imgC p % (regR p * regR p) == 0, at' 6),
   (t.m == regroupPixels p, t.atDesc 24), (t.n == regroupChannels p, t.atDesc 32)]

def regroupSlotChecks (t : Stage) (needIn needOut : Bool) : List (Bool × Nat) :=
  seqSlotChecks t ((if needIn then [0] else []) ++ (if needOut then [4] else [])) [1, 2, 3, 5, 6, 7, 8, 9, 10, 11, 12, 13, 14, 15]

/-- Output pixels that one slice of REGROUP moves: its bytes read and written take a fret DMA, at 25.6 GB/s, no longer than the slice length (R336;
10_scheduling_sharing R349; DEDUCED, log entry 60). -/
def regroupRun (s : State) (t : Stage) : Nat := max 1 (25600 * s.bow.sliceUs / (2 * max 1 (t.n * actBytes t.afmt)))

/-- What REGROUP moves: elements are copied bit for bit (R335). -/
def regroupOut (s : State) (c : Cmd) (t : Stage) (input : Option Bytes) : Except Fail OpOut := do
  let p := t.params
  let e := actBytes t.afmt
  let h := imgH p
  let w := imgW p
  let ch := imgC p
  let r := regR p
  let x ← match input with
    | some b => .ok b
    | none => fetchSlot s c t 0 (imgCount p * h * w * ch * e)
  let el (i y xx k : Nat) : Bytes :=
    slice x ((if byteAt p 10 = 1 then ((i * ch + k) * h + y) * w + xx else ((i * h + y) * w + xx) * ch + k) * e) e
  let px : List (List Bytes) :=
    if regDir p = 0 then
      (List.range t.m).map (fun j =>
        let img := j / (h / r * (w / r))
        let y := j / (w / r) % (h / r)
        (List.range t.n).map (fun k => el img (r * y + k / ch / r) (r * (j % (w / r)) + k / ch % r) (k % ch)))
    else channelToSpace r (imgCount p) h w [] ((List.range (imgCount p * h * w)).map (fun j =>
      (List.range ch).map (el (j / (h * w)) (j / w % h) (j % w))))
  .ok { out := px.flatMap List.flatten, work := plainWork (ceilDiv t.m (regroupRun s t)) }

/-- REGROUP. -/
def execRegroup (id : Nat) (s : State) : Res := ok (runReady id 0x08 (runStage regroupOut) s)

end Sys2Proof.Machine
end

