-- ==== Sys2Proof/Machine/Fused.lean ====
section
/-! DEFINITION. Machine/Fused.lean: the checks of every operator at acceptance, and FUSED_GROUP
(05_command_rings R197; 06_streaming_and_fusion R235 to R242; 09_image_operators R337). -/

namespace Sys2Proof.Machine
open Sys2Proof

/-! ## Operators by opcode -/

/-- What an operator computes. -/
def opOut (t : Stage) : State → Cmd → Stage → Option Bytes → Except Fail OpOut :=
  match t.op with
  | 1 => matmulOut
  | 2 => attentionOut
  | 3 => attentionBwdOut
  | 4 => recurrentOut
  | 5 => scanOut
  | 6 => convOut
  | 7 => poolOut
  | _ => regroupOut

/-- The smallest offset of a check that does not hold. -/
def lowestBad (l : List (Bool × Nat)) : Option Nat :=
  match (l.filter (fun p => !p.1)).map Prod.snd with
  | [] => none
  | x :: xs => some (xs.foldl min x)

/-- The checks of an operator's descriptor: the first field in order that fails. -/
def opDescFault (t : Stage) : Option Nat :=
  (lowestBad (bodyChecks t ++ (match t.op with
    | 2 => attnDescChecks t
    | 3 => attnDescChecks t
    | 4 => recurrentDescChecks t
    | 5 => scanDescChecks t
    | 6 => [(!t.comp, 16)]
    | 7 => poolDescChecks t
    | 8 => regroupDescChecks t
    | _ => []))).map t.atDesc

/-- The checks of its parameter block, and of the shape that the block gives. -/
def opParamFault (t : Stage) : Option Nat :=
  firstBad (match t.op with
    | 2 => attnParamChecks t
    | 3 => attnParamChecks t
    | 4 => seqParamChecks t 2
    | 5 => seqParamChecks t 3
    | 6 => convParamChecks t
    | 7 => poolParamChecks t
    | 8 => regroupParamChecks t
    | _ => [])

/-- The checks of its operand table: `first`, it takes its input from slot 0; `last`, it needs slot 4. -/
def opSlotFault (t : Stage) (first last : Bool) : Option Nat :=
  firstBad (match t.op with
    | 1 => matmulChecks t first last
    | 2 => needSlots t ((if first then [0] else []) ++ (if last then [4] else []) ++ [10])
    | 3 => needSlots t ((if first then [0] else []) ++ (if last then [4] else []) ++ [8, 9, 10, 11, 12, 13, 14, 15])
    | 4 => recurrentSlotChecks t first last
    | 5 => scanSlotChecks t first last
    | 6 => convSlotChecks t first last
    | 7 => poolSlotChecks t first last
    | _ => regroupSlotChecks t first last)

/-! ## Stage lists (R235, R241, R337) -/

/-- A CONV that receives its input by credits. -/
def pointwise (prev t : Stage) : Bool :=
  t.op == 6 && winH t.params == 1 && winW t.params == 1 && strideY t.params == 1 && strideX t.params == 1 &&
  padT t.params + padB t.params + padL t.params + padR t.params == 0 && convGroups t.params == 1 && byteAt t.params 20 == 0 &&
  (prev.op != 6 || byteAt prev.params 21 == 0)

/-- An image stage that receives its input through memory. -/
def imageStage (prev t : Stage) : Bool := t.op == 7 || (t.op == 6 && !pointwise prev t)

def stagePixels (t : Stage) : Nat := if t.op = 6 then t.m * (outR t.params * outR t.params) else t.m
def stageChannels (t : Stage) : Nat := if t.op = 6 then t.n / (outR t.params * outR t.params) else t.n

/-- The `afmt` that takes an `ofmt`. -/
def matchingAfmt (ofmt : Nat) : Nat := if ofmt = 1 then 5 else if ofmt = 2 then 3 else 4

/-- The relations between a stage and the one before. -/
def pairChecks (i : Nat) (prev t : Stage) : List (Bool × Nat) :=
  [(t.slot 0 == 0 || t.slot 0 == prev.slot 4, locator 3 i 40), (prev.ofmt != 0, locator 3 (i - 1) 16),
   (t.afmt == matchingAfmt prev.ofmt, locator 3 i 16)] ++
  (if imageStage prev t then
    [(imgCount t.params * effH t.params * effW t.params == stagePixels prev, locator 3 i 24), (effC t.params == stageChannels prev, locator 3 i 28)]
   else [(t.m == prev.m, locator 3 i 24), ((t.op != 1 && t.op != 6) || t.k == prev.n, locator 3 i 28)])

/-- Every pair of a list. -/
def pairsFault : Nat → List Stage → Option Nat
  | i, a :: b :: l => (firstBad (pairChecks i a b)).or (pairsFault (i + 1) (b :: l))
  | _, _ => none

/-- A stage list holds no REGROUP: its kinds are checked before what its stages name is read (09_image_operators R337). -/
def regroupFault (ts : List Stage) : Option Nat := firstBad (ts.mapIdx (fun i t => (t.op != 8, locator 3 i 0)))

/-- The checks of a stage list as a whole; `memory`: every stage boundary hands over through memory. -/
def groupFault (memory : Bool) (ts : List Stage) : Option Nat :=
  (pairsFault 1 ts).or
    (firstBad ((ts.mapIdx (fun i t => (t.slot 4 != 0 || (!memory && i + 1 != ts.length), locator 3 i 40)))))

/-! ## Running a group (R236 to R242) -/

/-- Bytes of the input that a stage reads as its activations. -/
def inputBytes (t : Stage) : Nat :=
  match t.op with
  | 1 => t.m * t.k * actBytes t.afmt
  | 2 => t.m * t.n * actBytes t.afmt
  | 3 => t.m * t.n * 2
  | 4 => seqSteps t.params * t.m * t.n * seqElem t.params
  | 5 => seqSteps t.params * t.m * t.n * seqElem t.params
  | _ => imgCount t.params * imgH t.params * imgW t.params * imgC t.params * actBytes t.afmt

/-- A stage takes its input through memory (R238, R241, R337). -/
def throughMemory (s : State) (c : Cmd) (prev t : Stage) : Bool :=
  c.trace || c.safety || decide (0x80000 < 128 * t.k * actBytes t.afmt) || decide (6 < s.bow.hotBanks) || imageStage prev t

/-- A group's command as one of its stages sees it: with the stage's header, and the version of its model. -/
def stageCmd (c : Cmd) (t : Stage) (version : Nat) : Cmd := { c with desc := t.desc, bound := { c.bound with version := version } }

/-- What a group has computed so far. -/
structure GroupAcc where
  segs : List Seg := []
  kv : List Nat := []
  /-- The stages run, with what each computed. -/
  outs : List (Stage × OpOut) := []
  /-- Bytes of intermediates held in the device-reserved region. -/
  held : Nat := 0

/-- Run the stages in order: `prev` is the stage before with its output. What a stage expects beyond the output of the stage
before is undefined: free bytes (DESIGN CHOICE, log entry 4). -/
def groupRun (c : Cmd) : List Stage → Option (Stage × Bytes) → GroupAcc → State → Except Fail (GroupAcc × State)
  | [], _, acc, s => .ok (acc, s)
  | t :: l, prev, acc, s => do
    let k := stageCmd c t (c.aux.getD (t.index.getD 0) 0)
    let held := match prev with
      | some p => if throughMemory s c p.1 t then acc.held + p.2.length else acc.held
      | none => acc.held
    if 0x4000000 < held then .error (bad (locator 3 (t.index.getD 0 - 1) 40)) else do
    let lack := match prev with | some p => inputBytes t - p.2.length | none => 0
    let input := prev.map (fun p => p.2 ++ drawBytes lack s)
    let s1 := drawn lack s
    let o ← opOut t s1 k t input
    let segs ← stageOut s1 k t o
    groupRun c l (some (t, o.out))
      { segs := acc.segs ++ segs ++ o.cache, kv := acc.kv ++ o.kv, outs := acc.outs ++ [(t, o)], held := held }
      (drawn o.draws (bindStage k t s1))

/-- The stages of a group in sections: within one they hand over by credits, between two through memory (R238, R241). -/
def sections (s : State) (c : Cmd) : List (Stage × OpOut) → List (List (Stage × OpOut))
  | [] => []
  | [x] => [[x]]
  | x :: y :: l => match sections s c (y :: l) with
    | [] => [[x]]
    | sec :: rest => if throughMemory s c x.1 y.1 then [x] :: sec :: rest else (x :: sec) :: rest

/-- The slices of a stage that belong to row block `b` of `blocks`: every `blocks`-th, from slice `b` (DESIGN CHOICE, log entry 12). -/
def blockSlices (blocks b : Nat) (l : List Work) : List Work :=
  (l.zipIdx.filter (fun x => x.2 % max 1 blocks == b)).map Prod.fst

/-- A stage in row block `b` of `blocks` (R236): its tiles there, their array time, what it hands over, and what its last tiles leave in its
frets' arrays and work areas. -/
def stagePlan (blocks b : Nat) (x : Stage × OpOut) : StagePlan :=
  let l := blockSlices blocks b x.2.work
  let tiles := max 1 (ceilDiv x.2.work.length (max 1 blocks))
  let size := ceilDiv x.2.out.length (max 1 blocks)
  { tiles := tiles, cost := tiles * (x.1.k * x.1.rate + 256), must := if x.1.op = 4 then rowTileFrets x.1 else 0
    data := slice x.2.out (b * size) size
    array := l.reverse.flatMap (fun w => w.array.getLastD [])
    area := (l.map (fun w => w.area.getLastD [])).flatten }

/-- A row block through every stage of a section: its weights, the tensors that it consumes, and its stages (R236, R239). -/
def blockWork (l : List (Stage × OpOut)) (blocks b : Nat) : Work :=
  let plan := l.map (stagePlan blocks b)
  let ws := l.flatMap (fun x => blockSlices blocks b x.2.work)
  { plan := plan, frets := (plan.map (fun p => max 1 p.must)).foldl max 1, upTo := min 12 (sumBy (fun p => p.tiles) plan)
    bytes := sumBy (fun w => w.bytes) ws, needs := (ws.flatMap (fun w => w.needs)).eraseDups, whole := true
    usesEdge := ws.any (fun w => w.usesEdge || w.edge) }

/-- The slices of a section, with its own barriers: a stage alone has its own slices; several make row blocks (R239). -/
def sectionWork : List (Stage × OpOut) → List Work × List Nat
  | [] => ([], [])
  | [x] => (x.2.work, x.2.barriers)
  | x :: l =>
    let blocks := ceilDiv x.1.m 128
    ((List.range blocks).map (blockWork (x :: l) blocks), [])

/-- Sections one after another, a barrier between each and the next; `q` panels and `n` slices come before. -/
def joinSections : Nat → Nat → List (List Work × List Nat) → List Work × List Nat
  | _, _, [] => ([], [])
  | q, n, x :: l =>
    let panels := match x.1.getLast? with | none => 0 | some w => w.panel + 1
    let r := joinSections (q + panels) (n + x.1.length) l
    (x.1.map (fun w => { w with panel := w.panel + q }) ++ r.1, (if n = 0 then [] else [n]) ++ x.2.map (· + n) ++ r.2)

/-- The slices of a group, and its barriers. -/
def groupWork (s : State) (c : Cmd) (outs : List (Stage × OpOut)) : List Work × List Nat :=
  joinSections 0 0 ((sections s c outs).map sectionWork)

/-- The intermediates that a group holds in the device-reserved region: the output of each section but the last. -/
def groupInter (s : State) (c : Cmd) (outs : List (Stage × OpOut)) : List Bytes :=
  (sections s c outs).dropLast.filterMap (fun l => l.getLast?.map (fun x => x.2.out))

def runFusedGroup (c : Cmd) (s : State) : State :=
  match groupRun c (groupStages c) none {} s with
  | .error e => failCmd c.id e s
  | .ok (a, s1) =>
    let w := groupWork s c a.outs
    dispatch (settleStream (startWork c a.segs 0 w.1
      (modCmd c.id (fun c => { c with aux := a.kv, barriers := w.2, inter := groupInter s c a.outs }) s1)))

/-- FUSED_GROUP. -/
def execFusedGroup (id : Nat) (s : State) : Res := ok (runReady id 0x33 (runOrdered runFusedGroup) s)

end Sys2Proof.Machine
end

