-- ==== Sys2Proof/Machine/Accept.lean ====
section
/-! DEFINITION. Machine/Accept.lean: the acceptance of a descriptor: its fetch, its validation and what it binds
(05_command_rings R168, R172, R176 to R178, R186 to R197, R207; 00_scope R12, R13). -/

namespace Sys2Proof.Machine
open Sys2Proof

/-! ## Classes (R168) -/

/-- Ring classes that an opcode belongs to: 0 Matrix, 1 Stream, 2 General, 3 Vision, 4 Audio, 5 Safety, 6 Admin; none for
an opcode that the table does not list. -/
def opcodeClasses (op : Nat) : List Nat :=
  if op = 3 then [0]
  else if (1 ≤ op ∧ op ≤ 8) ∨ op = 0x33 then [0, 5]
  else if op = 0x10 then [2]
  else if op = 0x18 ∨ op = 0x50 ∨ op = 0x51 then [3]
  else if (0x20 ≤ op ∧ op ≤ 0x23) ∨ (0x40 ≤ op ∧ op ≤ 0x45) then [1]
  else if op = 0x30 ∨ op = 0x31 ∨ op = 0x32 ∨ op = 0x34 then [0, 1, 2, 3, 4, 5, 6]
  else if 0x52 ≤ op ∧ op ≤ 0x54 then [4]
  else if 0x60 ≤ op ∧ op ≤ 0x67 then [6]
  else if 0x70 ≤ op ∧ op ≤ 0x72 then [5]
  else []

/-- Lengths that the block of a parameter-block opcode may have (R192). -/
def paramLengths (op : Nat) : List Nat :=
  match op with
  | 0x10 => [104]
  | 0x18 => [448]
  | 0x40 => [32]
  | 0x42 => [8]
  | 0x43 => [24]
  | 0x44 => [32]
  | 0x45 => [16]
  | 0x50 => [64]
  | 0x51 => [8]
  | 0x52 => [320]
  | 0x53 => [64]
  | 0x54 => [32]
  | 0x60 => (List.range 65).map (fun n => 528 + 16 * n)
  | 0x67 => [104]
  | 0x70 => [192, 8]
  | 0x71 => [16]
  | 0x72 => [0]
  | _ => []

/-! ## Descriptor fields (R186, R187, R189, R192 to R196) -/

/-- An operator's descriptor names a tensor of its model. -/
def namesTensor (d : Bytes) : Bool := [1, 4, 6].contains (dOpcode d) && leAt d 38 2 != 0xFFFF

/-- The opcode needs a model, or a session (R187). -/
def needsModel (d : Bytes) : Bool := namesTensor d || [0x20, 0x23, 0x40, 0x60, 0x62, 0x63].contains (dOpcode d)
def needsSession (op : Nat) : Bool := decide (0x40 ≤ op) && decide (op ≤ 0x44)

def headerChecks (d : Bytes) : List (Bool × Nat) :=
  [(decide (dFlags d < 8), 1), (decide (byteAt d 2 < 128), 2), (byteAt d 3 == 0, 3), (!needsModel d || dModel d != 0, 8),
   (decide (dSession d < 4096) || (dSession d == 0xFFFF && !needsSession (dOpcode d)), 10), (zeroAt d 12 4, 12)]

/-- The listed ring IDs of a BARRIER. -/
def barrierRings (d : Bytes) : List Nat := (List.range (byteAt d 32)).map (fun i => leAt d (16 + 2 * i) 2)

def barrierChecks (s : State) (f : Nat) (d : Bytes) : List (Bool × Nat) :=
  (List.range 8).map (fun i => (if i < byteAt d 32 then inRange s f (leAt d (16 + 2 * i) 2) else leAt d (16 + 2 * i) 2 == 0, 16 + 2 * i)) ++
    [(within 1 8 (byteAt d 32), 32), (zeroAt d 33 31, 33)]

/-- The body of an inline, block-transfer, parameter-block or empty descriptor. -/
def inlineChecks (s : State) (f : Nat) (d : Bytes) : List (Bool × Nat) :=
  let q (o : Nat) : Nat := leAt d o 8
  let op := dOpcode d
  match op with
  | 0x20 => [(decide (leAt d 16 2 ≤ leAt d 18 2) && (match imageInForce s (dModel d) with
      | none => true
      | some m => decide (leAt d 18 2 < (infoOf m).layers)), 18), (within 1 4 (byteAt d 20), 20), (decide (byteAt d 21 < 32), 21), (zeroAt d 24 40, 24)]
  | 0x21 => [(within 1 (2 ^ 32) (q 32), 32), (zeroAt d 40 24, 40)]
  | 0x22 => [(q 16 % 8 == 0, 16), (q 24 % 8 == 0 && within 8 (2 ^ 32) (q 24), 24), (zeroAt d 40 24, 40)]
  | 0x23 => [(q 16 % 8 == 0, 16), (within 1 1024 (leAt d 24 2), 24), (zeroAt d 26 38, 26)]
  | 0x30 => barrierChecks s f d
  | 0x31 => [(q 16 % 8 == 0, 16), (zeroAt d 32 32, 32)]
  | 0x32 => [(decide (leAt d 16 4 ≤ 1000000), 16), (within 1 1000000 (leAt d 20 4), 20), (decide (leAt d 24 2 ≤ 1500), 24),
      (decide (byteAt d 26 < 16), 26), (zeroAt d 27 37, 27)]
  | 0x33 => [(q 16 % 64 == 0, 16), (within 2 16 (byteAt d 24), 24), (zeroAt d 25 39, 25)]
  | 0x61 => [(q 16 % 64 == 0, 16), (q 24 % 64 == 0, 24), (leAt d 32 4 % 64 == 0 && within 64 65536 (leAt d 32 4), 32), (zeroAt d 42 22, 42)]
  | 0x65 => [(q 16 % 64 == 0, 16), (q 24 % 64 == 0, 24), (leAt d 32 4 % 64 == 0 && within 64 65536 (leAt d 32 4), 32),
      (leAt d 40 2 == 0, 40), (zeroAt d 42 22, 42)]
  | _ => if (paramLengths op).isEmpty then [(zeroAt d 16 48, 16)] else [((paramLengths op).contains (leAt d 24 4), 24), (zeroAt d 28 36, 28)]

/-! ## Blocks (R188 step 3) -/

/-- The first field of a parameter block that breaks its table. -/
def blockFault (s : State) (f op : Nat) (b : Bytes) : Option Nat :=
  let at' (o : Option Nat) : Option Nat := o.map (locator 2 0)
  match op with
  | 0x10 => at' (gcoreFault b)
  | 0x18 => at' (visionFault false b)
  | 0x40 => at' (sessionOpenFault b)
  | 0x42 => at' (sessionTruncateFault b)
  | 0x43 => at' (prefixAttachFault b)
  | 0x44 => at' (prefixPublishFault b)
  | 0x45 => at' (prefixDropFault b)
  | 0x50 => at' (cameraBindFault s f b)
  | 0x51 => at' (cameraUnbindFault b)
  | 0x52 => at' (droneConfigFault b)
  | 0x60 => at' (installFieldFault b)
  | 0x53 => at' (wakePlanFault b)
  | 0x54 => at' (replayFault b)
  | 0x67 => domainSetFault b
  | 0x70 => at' (safetyConfigFault s f b)
  | 0x71 => at' (goldenSetFault b)
  | _ => none

/-- The block's own length agrees with `param_len`: an INSTALL_BEGIN by its extents, a SAFETY_CONFIG by its `op`. -/
def lengthAgrees (op : Nat) (b : Bytes) : Bool :=
  if op = 0x60 then b.length == 528 + 16 * byteAt b 9
  else if op = 0x70 then b.length == (if byteAt b 0 = 1 then 192 else 8)
  else true

/-- A failure where some locator is named. -/
def orBad (o : Option Nat) : Except Fail Unit := match o with | none => .ok () | some l => .error (bad l)

/-- Read what a parameter-block opcode needs. -/
def acceptBlock (s : State) (c : Cmd) : Except Fail Cmd := do
  let b ← vaRead s c.func c.domain (leAt c.desc 16 8) (leAt c.desc 24 4) (locator 0 0 16)
  if !lengthAgrees c.opcode b then .error (bad (locator 0 0 24)) else do
  orBad (blockFault s c.func c.opcode b)
  .ok { c with params := b }

/-! ## Operators and groups -/

def slotsOf (b : Bytes) : List Nat := (List.range 16).map (fun i => leAt b (8 * i) 8)

/-- An operator's parameter block and operand table; a failed read names the descriptor's field. -/
def readStage (s : State) (c : Cmd) (t : Stage) : Except Fail Stage := do
  let p ← if t.paramLen = 0 then .ok [] else vaRead s c.func c.domain t.paramAddr t.paramLen (t.atDesc 48)
  let b ← vaRead s c.func c.domain t.operands 128 (t.atDesc 40)
  .ok { t with params := p, table := slotsOf b }

/-- Read and check one operator. -/
def acceptStage (s : State) (c : Cmd) (t : Stage) (first last : Bool) : Except Fail Stage := do
  orBad (opDescFault t)
  let u ← readStage s c t
  orBad (opParamFault u)
  orBad (opSlotFault u first last)
  .ok u

def acceptOperator (s : State) (c : Cmd) : Except Fail Cmd := do
  let t ← acceptStage s c (stageOf c) true true
  .ok (withUses { c with params := t.params, table := t.table } (usesOf s c t))

/-- A stage's header: its layout version, its opcode, its reserved fields, its session (R186, R197). -/
def stageHeader (safety : Bool) (t : Stage) : Except Fail Unit :=
  if dVer t.desc ≠ 1 then .error { status := stVersion, result := 2 }
  else if !(1 ≤ t.op && t.op ≤ 8 && (opcodeClasses t.op).contains (if safety then 5 else 0)) then .error (bad (t.atDesc 0))
  else orBad ((firstBad [(decide (byteAt t.desc 2 < 128), 2), (byteAt t.desc 3 == 0, 3), (!namesTensor t.desc || dModel t.desc != 0, 8),
      (decide (dSession t.desc < 4096) || dSession t.desc == 0xFFFF, 10), (zeroAt t.desc 12 4, 12)]).map t.atDesc)

/-- Read and check the stages of a group in order; which of them need slot 4 is a check of the list (R235, R241). -/
def acceptStages (s : State) (c : Cmd) : List Stage → Except Fail (List Stage)
  | [] => .ok []
  | t :: l => do
    stageHeader c.safety t
    let u ← acceptStage s c t (t.index.getD 0 == 0) false
    let r ← acceptStages s c l
    .ok (u :: r)

/-- The installed version of a handle, 0 for none. -/
def versionOf (s : State) (handle : Nat) : Nat := match imageInForce s handle with | none => 0 | some m => m.version

/-- The stage list of a group is read at its acceptance, fenced or not, as parameter blocks and operand tables are (R192, R205; DESIGN CHOICE, log
entry 78). -/
def acceptGroup (s : State) (c : Cmd) : Except Fail Cmd := do
  let n := byteAt c.desc 24
  let b ← vaRead s c.func c.domain (leAt c.desc 16 8) (64 * n) (locator 0 0 16)
  let raw : List Stage := (List.range n).map (fun i => { desc := slice b (64 * i) 64, table := [], params := [], index := some i })
  let memory := c.trace || c.safety
  orBad (regroupFault raw)
  let ts ← acceptStages s c raw
  orBad (groupFault memory ts)
  .ok (withUses { c with
    stages := ts.map (fun t => t.desc), stageTables := ts.map (fun t => t.table), stageParams := ts.map (fun t => t.params),
    aux := ts.map (fun t => versionOf s (dModel t.desc)) } (ts.flatMap (usesOf s c)))

/-! ## The model (R188 step 4, R191) -/

/-- The use of a safety image that 15_functional_safety R495 permits. -/
def safetyUse (s : State) (c : Cmd) : Bool := c.safety || (c.opcode == 0x23 && safetyHost s == some c.func)

/-- A handle names an installed model that the function may use. -/
def modelOk (s : State) (c : Cmd) (handle : Nat) : Bool :=
  match imageInForce s handle with
  | none => false
  | some m => mayUse s m c.func (safetyUse s c)

/-- Opcodes whose handle names an install or a release. -/
def handleOnly (op : Nat) : Bool := decide (0x60 ≤ op) && decide (op ≤ 0x64)

/-- Handles that a command names: its own, and those of its stages. -/
def handlesOf (c : Cmd) : List Nat := (c.model :: c.stages.map dModel).filter (fun h => h != 0)

/-- Handles whose versions and placements a command binds: those it names, and the two models of a CONFIGURE (R211). -/
def boundHandles (c : Cmd) : List Nat :=
  (handlesOf c ++ (if c.opcode = 0x70 ∧ byteAt c.params 0 = 1 then [cfModelA c.params, cfModelB c.params] else [])).eraseDups

/-- The handle of a MODEL_RELEASE names an installed image that the function may release: the first two rows of 02_memory_tiers R88, taken with
step 4 (DEDUCED, log entry 78). -/
def releaseOk (s : State) (c : Cmd) : Bool :=
  match imageInForce s c.model with
  | none => false
  | some m => c.model != 0 && m.port == portOf c.func && safetyPortOk s (infoOf m).kind (portOf c.func)

/-- The tensors that a command's stages name match their descriptors. -/
def tensorsMatch (s : State) (c : Cmd) : List Stage → Except Fail Unit
  | [] => .ok ()
  | t :: l =>
    if !namesTensor t.desc then tensorsMatch s c l else
    match namedTensor s (stageCmd c t (versionOf s (dModel t.desc))) t with
    | .error e => .error e
    | .ok _ => tensorsMatch s c l

/-! ## Validation in the order of R188 -/

/-- A SESSION_CLOSE accepted behind a SESSION_OPEN that has not committed marks the session closing too (07_attention_kv R255). -/
def closePending (s : State) (c : Cmd) : Bool :=
  match (s.hif.cmds.filter (fun k => k.func == c.func && k.session == c.session && (k.opcode == 0x40 || k.opcode == 0x41) &&
      (match k.phase with | .failed _ _ => false | _ => true))).getLast? with
  | none => false
  | some k => k.opcode == 0x41 && c.opcode != 0x40

/-- The session of the header is not usable: closing, bound to a version that was released, or, for a SESSION_CLOSE, neither open nor being opened
(02_memory_tiers R87; 07_attention_kv R255). -/
def sessionShut (s : State) (c : Cmd) : Bool :=
  closePending s c || (match sessionOf s c.func c.session with
  | none => c.opcode == 0x41 && !openPending s c
  | some x => x.closing || (x.released && c.opcode != 0x41))

/-- The checks of a descriptor, in the order of R188. That order does not place the check of the session (07_attention_kv R255): it stands between
the fields of the descriptor and the reads of its block and its tables (DESIGN CHOICE, log entry 78). -/
def validate (s : State) (cls : Nat) (c : Cmd) : Except Fail Cmd :=
  let op := c.opcode
  if dVer c.desc ≠ 1 then .error { status := stVersion, result := 2 }
  else if !(opcodeClasses op).contains cls then .error (bad (locator 0 0 0))
  else if s.fwu.recovery && op != 0x65 && op != 0x66 then .error { status := stInternal, result := 0x5 * 2 ^ 28 + 9 }
  else do
    let oper := decide (1 ≤ op ∧ op ≤ 8)
    orBad ((lowestBad (headerChecks c.desc ++ (if oper then [] else inlineChecks s c.func c.desc))).map (locator 0 0))
    if sessionShut s c then .error noSession else do
    let c1 ← if oper then acceptOperator s c
      else if op = 0x33 then acceptGroup s c
      else if (paramLengths op).isEmpty then .ok c
      else acceptBlock s c
    if (!handleOnly op && !(handlesOf c1).all (modelOk s c1)) || (op == 0x64 && !releaseOk s c1) then .error (fwDenied (locator 0 0 8))
    else if op = 0x50 && (confOf s c.func).on then .error (fwDenied 0)
    else do
      tensorsMatch s c1 (if oper then [stageOf c1] else groupStages c1)
      .ok c1

/-! ## What an accepted command waits for (R207; 07_attention_kv R254, R255, R265) -/

def waitsFor (s : State) (c : Cmd) : List Nat :=
  ((s.hif.cmds.filter (fun k => ((c.fence || c.opcode == 0x31) && k.ring == c.ring) || (k.func == c.func && sessionOrder c k))).map
    (fun k => k.id))

/-- The commands that a BARRIER waits for: those accepted on the rings it lists. -/
def barrierWaits (s : State) (c : Cmd) : List Nat :=
  if c.opcode ≠ 0x30 then c.aux else
  (s.hif.cmds.filter (fun k => (barrierRings c.desc).contains k.ring)).map (fun k => k.id)

/-! ## DESCRIPTOR_ACCEPT (R176 to R178, R188) -/

/-- The ring has a descriptor to accept, and its completion ring an entry to reserve. -/
def mayAccept (s : State) (r f : Nat) : Bool :=
  let g := ringOf s r
  let q := ringOf s g.cqId
  g.typ == 0 && decide (g.state = .active) && g.index != g.hostIndex && canMaster s f && decide (g.outstanding + 1 < ringSize g) &&
  decide (q.state = .active) && decide (q.reserved < freeEntries q) && (!s.fwu.recovery || g.cls == 6)

/-- The bytes of the next descriptor: those at its slot, or what a sealed entry opens to (16_security R518). -/
def fetchDescriptor (s : State) (r f : Nat) : Option Bytes :=
  let g := ringOf s r
  let k := confOf s f
  if !k.on then some (readBytes s (hostOf f) (g.base + 64 * g.index) 64) else
  let e := readBytes s (hostOf f) (g.base + 128 * g.index) 128
  (Config.gcmOpen k.keyRingIn (leBytes 2 r ++ zeros 2 ++ leBytes 8 g.sealN) (leBytes 2 r ++ leBytes 4 g.index) (slice e 0 64) (slice e 64 16)).map
    (padTo 64)

/-- Write the head shadow once every 16 acceptances and when the tail is reached; a confidential function has none. -/
def headShadow (r f : Nat) (s : State) : State :=
  let g := ringOf s r
  if (confOf s f).on then s
  else if g.index = g.hostIndex ∨ 16 ≤ g.sinceShadow then
    modRing r (fun g => { g with sinceShadow := 0 }) (writeBytes (hostOf f) g.shadow (leBytes 8 g.index) s)
  else s

/-- Put a command into the device: its ring and its completion ring count it. -/
def enterCmd (r f : Nat) (c : Cmd) (s : State) : State :=
  let s1 : State := { s with hif := { s.hif with cmds := s.hif.cmds ++ [c], nextId := c.id + 1 } }
  let s2 := modRing r (fun g => { g with
    index := nextIndex g g.index, outstanding := g.outstanding + 1, sinceShadow := g.sinceShadow + 1,
    sealN := if (confOf s f).on then g.sealN + 1 else g.sealN }) s1
  headShadow r f (modRing c.cq (fun g => { g with reserved := g.reserved + 1 }) s2)

/-- The command of a fetched descriptor before its validation. -/
def rawCmd (s : State) (r f : Nat) (d : Bytes) : Cmd :=
  let g := ringOf s r
  { id := s.hif.nextId, ring := r, func := f, cq := g.cqId, safety := g.cls == 5, trace := g.trace, desc := d,
    bound := { fills := (s.atn.sessions.filter (fun x => x.func == f)).map (fun x => (x.sid, x.fills)) }
    prio := min (dPrio d) (quotaOf s f).maxPrio, accepted := s.now }

/-- Accept a descriptor: a command that fails its validation has no effect and waits for nothing. -/
def acceptCmd (r f : Nat) (d : Bytes) (s : State) : State :=
  let raw := rawCmd s r f d
  match validate s (ringOf s r).cls raw with
  | .error e => recordFail f r e (enterCmd r f { raw with phase := .failed e.status e.result } s)
  | .ok c =>
    let w := waitsFor s c
    let c1 : Cmd := { c with
      waits := w, aux := barrierWaits s c, phase := if w.isEmpty then .ready else .held,
      bound := { c.bound with
        version := versionOf s c.model
        places := (boundHandles c).map (fun h => placedNow s f h (versionOf s h)) } }
    let s1 := markAccepted c1 (enterCmd r f c1 s)
    let s2 := if c.opcode = 0x41 then modSession f c.session (fun x => { x with closing := true }) s1 else s1
    dispatch (settlePower (some (2, f)) (openReplays s2))

/-- DESCRIPTOR_ACCEPT. -/
def execDescriptorAccept (ring : Nat) (s : State) : Res :=
  ok (match ringOwner s ring with
    | none => s
    | some f =>
      if !mayAccept s ring f then s else
      match fetchDescriptor s ring f with
      | none => ringError ring 2 (modConf f (fun k => { k with authFail := true }) s)
      | some d => acceptCmd ring f d s)

/-- DESCRIPTOR_FETCH_ERROR (R184). -/
def execDescriptorFetchError (ring : Nat) (s : State) : Res :=
  ok (if (ringOf s ring).typ = 0 then requestFailed ring s else s)

/-- FENCED_COMMAND_START (R207): everything it waits for has completed. A hint starts then (06_streaming_and_fusion R243). -/
def execFencedCommandStart (id : Nat) (s : State) : Res :=
  ok (match cmdOf s id with
    | none => s
    | some c =>
      if c.phase = .held ∧ c.waits.all (fun w => (cmdOf s w).isNone) = true then
        openReplays (modCmd id (fun c => { c with phase := .ready, accepted := if c.opcode = 0x32 then s.now else c.accepted }) s)
      else s)

end Sys2Proof.Machine
end

