-- ==== Sys2Proof/Machine/Rings.lean ====
section
/-! DEFINITION. Machine/Rings.lean: doorbells, the ring state machine, interrupts and events that wait, negotiation and ring
ranges, and the control commands BARRIER, FENCE_SIGNAL and NOP (05_command_rings R170 to R185, R203, R207 to R214, R610,
R611), with their rows. -/

namespace Sys2Proof.Machine
open Sys2Proof

/-! ## Doorbells (R174, R175, R184) -/

/-- A doorbell write of a ring that no bind and no verdict ring holds: an index of 2^n or more is a ring error. -/
def ringDoorbell (r i : Nat) (s : State) : State :=
  let s1 := noteDoorbell r i s
  if ringSize (ringOf s r) ≤ i then ringError r 1 s1 else modRing r (fun g => { g with hostIndex := i }) s1

/-- The doorbell of a ring that is in use, of a submission ring or of another. -/
def doorbell (submission : Bool) (func offset width value : Nat) (s : State) : State :=
  match doorbellOf s func offset width value with
  | none => s
  | some (r, i) =>
    if (ringOf s r).state = .disabled then noteDoorbell r i s
    else if decide ((ringOf s r).typ = 0) = submission then ringDoorbell r i s
    else s

/-- SUBMISSION_DOORBELL: the tail. -/
def execSubmissionDoorbell (func offset width value : Nat) (s : State) : Res := ok (doorbell true func offset width value s)

/-- HEAD_DOORBELL: the head of a completion or an event ring. -/
def execHeadDoorbell (func offset width value : Nat) (s : State) : Res := ok (doorbell false func offset width value s)

/-! ## Ring operations (R169, R182 to R185, R610, R611; 12_camera_pipeline R402; 16_security R519) -/

def setErr (r e : Nat) (s : State) : State := modRing r (fun g => { g with err := e }) s

/-- Bytes of one entry of a ring. -/
def ringEntryBytes (s : State) (f typ : Nat) : Nat :=
  (if typ = 0 then 64 else 16) * (if (confOf s f).on then 2 else 1)

/-- The configuration of a DISABLED ring is valid. -/
def configOk (s : State) (f r : Nat) : Bool :=
  let g := ringOf s r
  g.typ != 3 && (g.sizeLog2 == 0 || decide (4 ≤ g.sizeLog2)) && decide (g.base + ringEntryBytes s f g.typ * ringSize g ≤ 2 ^ 64) &&
    (g.typ != 0 || (decide (g.cls ≤ 6) && g.cqId != r && inRange s f g.cqId && (ringOf s g.cqId).typ == 1)) &&
    (g.typ != 2 || !(ringsOf s f).any (fun q => q != r && (ringOf s q).typ == 2 && decide ((ringOf s q).state ≠ .disabled)))

/-- The function may run a submission ring of the class. -/
def classOk (s : State) (f cls : Nat) : Bool :=
  !(cls == 6 && !isPhys f) && !(cls == 5 && safetyHost s != some f) && !((cls == 5 || cls == 6) && (confOf s f).on)

/-- A ring becomes ACTIVE with its indices at 0 and phase 1. -/
def activate (r : Nat) (s : State) : State :=
  modRing r (fun g => { g with
    state := .active, index := 0, hostIndex := 0, phase := true, outstanding := 0, reserved := 0, sinceIrq := 0, sinceShadow := 0 }) s

def enableRing (f r : Nat) (s : State) : State :=
  let g := ringOf s r
  match g.state with
  | .stopped => activate r s
  | .disabled =>
    if (heldRings s).contains r || !configOk s f r then setErr r 4 s
    else if g.typ == 0 && !classOk s f g.cls then setErr r 5 s
    else if activeVersion s f = 0 then setErr r 4 s
    else activate r s
  | _ => setErr r 6 s

/-- What a ring that leaves ACTIVE waits for: a submission ring its commands, a completion ring its reserved entries. -/
def ringWaits (g : Ring) : Nat := if g.typ = 0 then g.outstanding else if g.typ = 1 then g.reserved else 0

/-- A ring goes to `st`, and to STOPPED at once when it waits for nothing. -/
def leaveActive (r : Nat) (st : RingState) (s : State) : State :=
  modRing r (fun g => { g with state := if ringWaits g = 0 then .stopped else st }) s

def drainRing (r : Nat) (s : State) : State :=
  if (ringOf s r).state = .active then leaveActive r .draining s else setErr r 6 s

/-- A command whose effect stands: it has begun to commit (R183). A DRONE_CONFIG, a WAKE_PLAN_SET, an activation, a STOP and a CLEAR have
their effect when they are done, a DOMAIN_SET as soon as it runs. -/
def Cmd.begun (c : Cmd) : Bool := match c.phase with
  | .done => [0x52, 0x53, 0x66, 0x67].contains c.opcode || (c.opcode == 0x70 && [3, 4].contains (byteAt c.params 0))
  | .running => c.opcode == 0x67
  | _ => false

/-- ABORT kills the commands of a submission ring that have not begun to commit: they leave their passes at once (R183;
06_streaming_and_fusion R231). -/
def abortRing (r : Nat) (s : State) : State :=
  let g := ringOf s r
  if g.state = .active ∨ g.state = .draining then
    let s1 := leaveActive r .aborting s
    if g.typ ≠ 0 then s1 else
    settleDispatch (((s.hif.cmds.filter (fun c => c.ring == r && c.alive && !c.begun)).map (fun c => c.id)).foldl
      (fun t id => leavePasses id (failCmd id { status := stAborted, result := 0 } t)) s1)
  else setErr r 6 s

def disableRing (r : Nat) (s : State) : State :=
  let g := ringOf s r
  if (g.state = .stopped ∨ g.state = .error) ∧ g.outstanding = 0 ∧ (g.typ ≠ 1 ∨ (boundRings s r).isEmpty = true) then
    modRing r (fun g => { g with state := .disabled }) s
  else setErr r 6 s

/-- An operation written to HIF_RING_CTRL acts on the ring that HIF_RING_SEL names; a ring that a bind or the verdict ring
holds ignores it. -/
def ringOp (func : Nat) (held : Bool) (f : Nat → State → State) (s : State) : Res :=
  unit func 16 (ok (
    let r := (hifFunc s func).sel
    if hifServed s func && inRange s func r && (held || !(heldRings s).contains r) then f r s else s))

/-- RING_ENABLE. -/
def execRingEnable (func : Nat) (s : State) : Res := ringOp func true (enableRing func) s
/-- RING_DRAIN. -/
def execRingDrain (func : Nat) (s : State) : Res := ringOp func false drainRing s
/-- RING_ABORT. -/
def execRingAbort (func : Nat) (s : State) : Res := ringOp func false abortRing s
/-- RING_DISABLE. -/
def execRingDisable (func : Nat) (s : State) : Res := ringOp func false disableRing s

/-! ## Interrupts, lost records and failed writes (R181, R184, R203; 12_camera_pipeline R402; 15_functional_safety R481) -/

/-- INTERRUPT_COALESCE_TIMEOUT: `coal_us` have passed since the first entry that is counted. -/
def execInterruptCoalesceTimeout (ring : Nat) (s : State) : Res :=
  ok (match ringOwner s ring with
    | none => s
    | some f =>
      let g := ringOf s ring
      if g.irqEn && decide (0 < g.sinceIrq) then raiseVector f g.vector (modRing ring (fun g => { g with sinceIrq := 0 }) s) else s)

/-- EVENT_LOST_RECORD. -/
def execEventLostRecord (func : Nat) (s : State) : Res := unit func 16 (ok (flushLost func s))

/-- RECORD_WRITE_ERROR: of a bind's record, of a verdict, or of a completion, an event record or a head shadow. -/
def execRecordWriteError (ring : Nat) (s : State) : Res :=
  ok (match ringOwner s ring with
    | none => s
    | some f =>
      match s.cam.binds.find? (fun b => cbRing b.block == ring) with
      | some b => bindWriteError b (logAer (portOf f) 2 s)
      | none =>
        if safConfigured s && cfRing s.saf.config == ring then latch 7 (setErr ring 3 (logAer (portOf f) 2 s))
        else ringError ring 3 (logAer (portOf f) 2 s))

/-! ## Negotiation and ranges (R170, R214) -/

/-- HIF_VERSION_WRITE: a write before the block is served is held. -/
def execHifVersionWrite (func hostMax : Nat) (s : State) : Res :=
  unit func 16 (ok (
    if funcExists s func && (portSt s (portOf func)).cfgReady && !anyRingOn s func then
      modHifFunc func (fun h => { h with hostMax := hostMax % 256 }) s
    else s))

/-- Two ranges share no ring ID. -/
def rangesApart (a n b m : Nat) : Bool := n == 0 || m == 0 || decide (a + n ≤ b) || decide (b + m ≤ a)

/-- A range for function `n` of port `p`: it lies in the port's IDs, apart from the port's other functions. An empty range leaves them when its
base lies before them or behind their end (DESIGN CHOICE, log entry 78). -/
def rangeOk (s : State) (p n base count : Nat) : Bool :=
  decide (count ≤ 8192) && decide (8192 * p ≤ base) && decide (base + count ≤ 8192 * (p + 1)) &&
    (List.range 8).all (fun k => k == n || rangesApart base count (hifFunc s (8 * p + k)).base (hifFunc s (8 * p + k)).count)

/-- HIF_FUNC_RINGS_WRITE: HIF_RING_SEL stays inside the range (HIF_RING_SEL). -/
def execHifFuncRingsWrite (func n value : Nat) (s : State) : Res :=
  unit func 16 (ok (
    let p := portOf func
    let g := 8 * p + n
    let base := bf value 15 0
    let count := bf value 31 16
    if hifServed s func && isPhys func && decide (n < 8) && rangeOk s p n base count && !anyRingOn s g then
      modHifFunc g (fun h => { h with
        base := base, count := count, sel := if base ≤ h.sel ∧ h.sel < base + count then h.sel else base }) s
    else s))

/-! ## Control commands (R207 to R209) -/

/-- BARRIER: every command that it names has completed. -/
def runBarrier (c : Cmd) (s : State) : State :=
  if c.aux.all (fun w => (cmdOf s w).isNone) then stageDone c.id [] 0 s else s

def execBarrier (id : Nat) (s : State) : Res := ok (runReady id 0x30 runBarrier s)

/-- FENCE_SIGNAL writes `value` to `addr`. -/
def runFenceSignal (c : Cmd) (s : State) : State :=
  match vaStage s c.func c.domain (leAt c.desc 16 8) (slice c.desc 24 8) (locator 0 0 16) with
  | .error e => failCmd c.id e s
  | .ok segs => stageDone c.id segs 0 s

def execFenceSignal (id : Nat) (s : State) : Res := ok (runReady id 0x31 runFenceSignal s)

/-- NOP. -/
def runNop (c : Cmd) (s : State) : State := stageDone c.id [] 0 s

def execNop (id : Nat) (s : State) : Res := ok (runReady id 0x34 runNop s)

end Sys2Proof.Machine
end

