-- ==== Sys2Proof/Machine/Complete.lean ====
section
/-! DEFINITION. Machine/Complete.lean: COMMAND_COMPLETE: the commit of a command and the writing of its completion
(05_command_rings R180, R198 to R206; 07_attention_kv R265; 15_functional_safety R488; 16_security R519, R520). -/

namespace Sys2Proof.Machine
open Sys2Proof

/-! ## When a command may commit -/

/-- An earlier command of the function reads a session. -/
def earlierReader (s : State) (c : Cmd) (sid : Nat) : Bool :=
  s.hif.cmds.any (fun k => decide (k.id < c.id) && k.func == c.func && k.reads sid)

/-- A commit that overwrites positions waits for every earlier command that reads them (07_attention_kv R265). -/
def readersDone (s : State) (c : Cmd) : List Nat → Bool
  | sid :: layer :: pos :: len :: l =>
    (!overwrites c.func [sid, layer, pos, len] s || !earlierReader s c sid) && readersDone s c l
  | _ => true

/-- A PREFIX_ATTACH overwrites positions of a layer whose fill is above 0: its pages stay for the earlier commands that read them (07_attention_kv
R265, R278). -/
def attachOver (s : State) (c : Cmd) : Bool :=
  match sessionOf s c.func c.session with
  | none => false
  | some x => x.fills.any (fun v => decide (0 < v))

/-- A command that is done may commit. -/
def mayCommit (s : State) (c : Cmd) : Bool :=
  if c.opcode = 0x02 ∨ c.opcode = 0x33 then readersDone s c c.aux
  else if c.opcode = 0x43 then !attachOver s c || !earlierReader s c c.session
  else if c.opcode = 0x70 then c.aux.all (fun r => (cmdOf s r).isNone)
  else true

/-! ## The commit -/

/-- What a commit changes beside the memory it writes. -/
def commitState (c : Cmd) (s : State) : Except Fail State :=
  match c.opcode with
  | 0x02 => commitKv c s
  | 0x33 => commitKv c s
  | 0x23 => .ok (commitModelPlace c s)
  | 0x32 => .ok (commitPowerHint c s)
  | 0x40 => commitSessionOpen c s
  | 0x41 => .ok (commitSessionClose c s)
  | 0x42 => .ok (commitSessionTruncate c s)
  | 0x43 => commitPrefixAttach c s
  | 0x44 => .ok (commitPrefixPublish c s)
  | 0x45 => .ok (commitPrefixDrop c s)
  | 0x50 => commitCameraBind c s
  | 0x51 => commitCameraUnbind c s
  | 0x60 => commitInstallBegin c s
  | 0x61 => commitInstallData c s
  | 0x62 => .ok (commitInstallCommit c s)
  | 0x63 => .ok (commitInstallCancel c s)
  | 0x64 => commitModelRelease c s
  | 0x65 => commitFwWrite c s
  | 0x70 => if byteAt c.params 0 ≠ 1 then .ok s
    else if safIdle s then .ok (commitSafetyConfigure c s) else .error wrongState
  | 0x71 => if safIdle s then commitGoldenSet c s else .error wrongState
  | 0x72 => .ok (commitSelftest s)
  | _ => .ok s

/-- Staged writes that the commit makes: a function that may issue no request writes no host memory (18_host_ports R561). -/
def segsToWrite (s : State) (c : Cmd) : List Seg :=
  c.staged.filter (fun g => !isKvSeg g && (decide (g.space = .dev) || canMaster s c.func))

/-- A unit that a partial write must merge into fails its tag. -/
def tagFailed : Fail := { status := stFirewall, result := 0, authFail := true }

/-- Commit: the state it changes, then the memory it writes. -/
def commit (c : Cmd) (s : State) : Except Fail State :=
  let l := segsToWrite s c
  if !segsOpen s l then .error tagFailed else
  match commitState c s with
  | .error e => .error e
  | .ok s1 => .ok (commitSegs l s1)

/-! ## A fault during the commit (R206) -/

/-- The same pieces with free bytes. -/
def freeSegs (l : List Seg) (s : State) : List Seg :=
  l.mapIdx (fun i g => { g with data := (List.range g.data.length).map (fun k => Config.freeByte (s.free + i * 2 ^ 32 + k)) })

/-- The content of the destinations is undefined: they hold free bytes. -/
def spoil (c : Cmd) (s : State) : State :=
  let l := freeSegs c.staged s
  let s1 := commitSegs (l.filter (fun g => !isKvSeg g && segsOpen s [g] && (decide (g.space = .dev) || canMaster s c.func))) s
  let s2 := (l.filter isKvSeg).foldl (fun t g => writeAperture c.func g.addr g.data t) s1
  let free : Bytes := (List.range (xferLength c)).map (fun k => Config.freeByte (s.free + l.length * 2 ^ 32 + k))
  drawn (2 ^ 32 * (l.length + 1)) (
    if c.opcode = 0x65 then modSlot (inactive s2) (fun x => { x with cells := cellsWrite (xferOffset c) free x.cells }) s2
    else if c.opcode = 0x61 then modInstall (xferId c) (fun i => bufferBlock i (xferOffset c) free) s2
    else s2)

/-! ## COMMAND_COMPLETE -/

/-- A command that was held for the order of its sessions is ready when nothing it waits for is left. -/
def releaseHeld (s : State) : State :=
  { s with hif := { s.hif with cmds := s.hif.cmds.map (fun c =>
      if c.phase = .held ∧ c.fence = false ∧ c.opcode ≠ 0x31 ∧ c.waits.all (fun w => (cmdOf s w).isNone) = true
      then { c with phase := .ready } else c) } }

/-- The device counter of a data key has reached 2^48 units: the function leaves confidential mode (16_security R520). -/
def keySpent (f : Nat) (s : State) : State :=
  if (confOf s f).on && decide (2 ^ 48 ≤ (confOf s f).units) then leaveConf f (modConf f (fun k => { k with authFail := true }) s) else s

/-- Write the completion and settle what waited for the command. -/
def retireCmd (c : Cmd) (status result : Nat) (s : State) : State := settleAll none (openReplays (releaseHeld (complete c status result s)))

/-- End a command that does not commit. -/
def finishFailed (c : Cmd) (status result : Nat) (s : State) : State := retireCmd c status result (undo c s)

/-- The result that a command stands at. -/
def resultOf (s : State) (c : Cmd) : Nat := match cmdOf s c.id with
  | none => c.result
  | some k => k.result

/-- A command's commit is struck by a fault: the content of its destinations is undefined (R206). -/
def struckCommit (c : Cmd) (s : State) : State :=
  finishFailed c stInternal (2 ^ 31 + drawNat 31 s) (keySpent c.func (spoil c (drawn 1 s)))

/-- End a command by a fault: before it commits its slices are killed (01_architecture R41); one whose effect stands already is struck in its
commit (R206). -/
def struckBy (c : Cmd) (status result : Nat) (s : State) : State :=
  if c.begun then struckCommit c s else finishFailed c status result (failCmd c.id { status := status, result := result } s)

/-- Complete a command that is done and may commit. -/
def finishDone (c : Cmd) (commitFault : Bool) (s : State) : State :=
  if commitFault then struckCommit c s else match commit c s with
    | .error e => finishFailed c e.status e.result (recordFail c.func c.ring e s)
    | .ok s1 => retireCmd c stOk (resultOf s1 c) (letGo c (keySpent c.func s1))

/-- COMMAND_COMPLETE. -/
def execCommandComplete (id : Nat) (fault : EndFault) (s : State) : Res :=
  ok (match cmdOf s id with
    | none => s
    | some c => match c.phase, fault with
      | .failed st r, _ => finishFailed c st r s
      | .held, _ => s
      | _, .ddr loc => struckBy c stDdrUnc loc { s with stream := { s.stream with ddrUncorrected := satAdd 16 s.stream.ddrUncorrected 1 } }
      | _, .internal => struckBy c stInternal (drawNat 28 s) (drawn 1 s)
      | .done, e => if mayCommit s c then finishDone c (e == .commit) s else s
      | _, _ => s)

end Sys2Proof.Machine
end

