-- ==== Sys2Proof/Machine/Registers.lean ====
section
/-! DEFINITION. Machine/Registers.lean: REGISTER_WRITE: writes of register fields that have no row of their own, under the
access codes, the range rule and the locks (00_scope R13 to R17, R609; 20_register_map R587 to R594; 18_host_ports R553,
R554, R558, R559, R565, R570). A field whose write is a row of its own is left to that row (DEDUCED, log entry 19). -/

namespace Sys2Proof.Machine
open Sys2Proof

/-! ## An access (18_host_ports R553; 20_register_map R592) -/

/-- A BAR0 access of 4 or 8 bytes, naturally aligned: the 8-byte place it lies in, the half it reaches, its value. -/
structure Access where
  reg : Nat
  wide : Bool
  high : Bool
  value : Nat
  deriving DecidableEq, Repr

def accessOf (offset width value : Nat) : Option Access :=
  if width = 8 ∧ offset % 8 = 0 then some { reg := offset, wide := true, high := false, value := value % 2 ^ 64 }
  else if width = 4 ∧ offset % 4 = 0 then
    some { reg := offset / 8 * 8, wide := false, high := offset % 8 == 4, value := value % 2 ^ 32 }
  else none

/-- Write a 32-bit register, which lies in the low half of its place. -/
def write32 (a : Access) (f : Nat → State → State) (s : State) : State := if a.high then s else f (a.value % 2 ^ 32) s
/-- Write a 64-bit register whose writable fields read `cur`: a 4-byte write changes the half that it addresses. -/
def write64 (a : Access) (cur : Nat) (f : Nat → State → State) (s : State) : State :=
  f (if a.wide then a.value else if a.high then cur % 2 ^ 32 + a.value * 2 ^ 32 else cur / 2 ^ 32 * 2 ^ 32 + a.value) s
/-- Write a 64-bit register with a WO or a W1C field: only an 8-byte write takes effect. -/
def writeWhole (a : Access) (f : Nat → State → State) (s : State) : State := if a.wide then f a.value s else s

/-- A field's new value: the one written when it lies in its range, else the old one (R13). -/
def ranged (lo hi old new : Nat) : Nat := if lo ≤ new ∧ new ≤ hi then new else old

/-! ## HIF_ (05_command_rings R185, R212 to R214; 18_host_ports R554, R558, R570) -/

/-- The configuration of a ring may be written: it is DISABLED, and neither a bind nor the verdict ring holds it. -/
def ringOpen (s : State) (f : Nat) : Bool :=
  let r := (hifFunc s f).sel
  inRange s f r && decide ((ringOf s r).state = .disabled) && !(heldRings s).contains r

def ringCfgWord (g : Ring) : Nat := g.cqId * 2 ^ 16 + b2n g.trace * 2 ^ 12 + g.cls * 2 ^ 8 + g.sizeLog2 * 2 ^ 4 + g.typ

/-- The registers of the ring window. -/
def ringWindowWrite (f : Nat) (a : Access) (s : State) : State :=
  let r := (hifFunc s f).sel
  let g := ringOf s r
  match a.reg with
  | 0x200 => write32 a (fun v s => if inRange s f (bf v 15 0) then modHifFunc f (fun h => { h with sel := bf v 15 0 }) s else s) s
  | 0x208 => if ringOpen s f then write64 a g.base (fun v => modRing r (fun g => { g with base := v / 4096 * 4096 })) s else s
  | 0x210 => if ringOpen s f then write64 a (ringCfgWord g) (fun v => modRing r (fun g => { g with
      cqId := ranged 0 16383 g.cqId (bf v 31 16), trace := bit v 12, cls := ranged 0 6 g.cls (bf v 11 8)
      sizeLog2 := if bf v 7 4 = 0 then 0 else ranged 4 15 g.sizeLog2 (bf v 7 4), typ := ranged 0 2 g.typ (bf v 1 0) })) s else s
  | 0x218 => if ringOpen s f then write64 a g.shadow (fun v => modRing r (fun g => { g with shadow := v / 8 * 8 })) s else s
  | 0x220 => if ringOpen s f then write32 a (fun v s =>
      if bf v 10 0 < vectorCount f then modRing r (fun g => { g with
        coalUs := bf v 31 24, coalCount := bf v 23 16, irqEn := bit v 11, vector := bf v 10 0, sinceIrq := 0 }) s
      else s) s else s
  | 0x230 => if inRange s f r && !(heldRings s).contains r then
      writeWhole a (fun v => modRing r (fun g => if bf v 11 8 = 0 then g else { g with err := 0 })) s else s
  | _ => s

/-- The port registers, served before step 4 of R564. -/
def portRegWrite (f : Nat) (a : Access) (s : State) : State :=
  let p := portOf f
  match a.reg with
  | 0x300 => write64 a ((funcCfg s f).winBase + b2n (funcCfg s f).winEnable) (fun v s =>
      let base := 2 ^ 20 * bf v 47 20
      if base % 2 ^ (funcCfg s f).bar4Log2 = 0 then modFuncCfg f (fun c => { c with winBase := base, winEnable := bit v 0 }) s else s) s
  | 0x410 => if isPhys f then write32 a (fun v => modPort p (fun x => { x with ptmInterval := ranged 1 1000 x.ptmInterval (bf v 15 0) })) s
      else s
  | 0x430 => if isPhys f then write32 a (fun v => modPort p (fun x => { x with
        wakeSeen := x.wakeSeen && !bit v 0, pmeSent := x.pmeSent && !bit v 1 })) s
      else s
  | _ => s

def hifWrite (f : Nat) (a : Access) (s : State) : State :=
  if 0x300 ≤ a.reg then (if funcExists s f && (portSt s (portOf f)).cfgReady then portRegWrite f a s else s)
  else if hifServed s f then ringWindowWrite f a s else s

/-! ## BOW_ (10_scheduling_sharing R338, R339, R343, R363) -/

def quotaWord (q : Quota) : Nat :=
  q.ddrMib * 2 ^ 46 + q.hotMib * 2 ^ 32 + q.sessions * 2 ^ 19 + q.maxPrio * 2 ^ 16 + q.weight * 2 ^ 8 + q.minFrets

/-- BOW_QUOTA_n: below the present usage, or beyond the port's share, the register is unchanged. -/
def quotaWrite (g v : Nat) (s : State) : State :=
  let q := quotaOf s g
  let n : Quota := {
    ddrMib := ranged 0 130048 q.ddrMib (bf v 63 46), hotMib := ranged 0 96 q.hotMib (bf v 38 32),
    sessions := ranged 0 4096 q.sessions (bf v 31 19), maxPrio := bf v 18 16, weight := bf v 15 8,
    minFrets := ranged 0 48 q.minFrets (bf v 5 0) }
  let s1 : State := { s with bow := { s.bow with quotas := setAt g n s.bow.quotas } }
  if ddrUsedMib s g ≤ n.ddrMib ∧ hotUsedMib s g ≤ n.hotMib ∧ sessionsOf s g ≤ n.sessions ∧ quotasFit s1 s.bow.k (portOf g) = true then s1
  else s

def bowWrite (f : Nat) (a : Access) (s : State) : State :=
  let o := a.reg % 0x10000
  if !isPhys f then s
  else if o = 0x08 then write32 a (fun v s => { s with bow := { s.bow with sliceUs := ranged 50 2000 s.bow.sliceUs (bf v 15 0) } }) s
  else if o = 0x10 then write32 a (fun v s => { s with bow := { s.bow with graceUs := bf v 15 8, levels := bf v 7 0 } }) s
  else if 0x200 ≤ o ∧ o < 0x280 ∧ o % 0x10 = 0 then
    let g := f + (o - 0x200) / 0x10
    write64 a (quotaWord (quotaOf s g)) (quotaWrite g) s
  else s

/-! ## MMU_ and ATN_ (07_attention_kv R285, R286; 10_scheduling_sharing R339, R344) -/

/-- A function has no ring in use and no session open. -/
def funcQuiet (s : State) (g : Nat) : Bool := !anyRingOn s g && sessionsOf s g == 0

/-- The KV pool of a function fits: below the device-reserved region, in its port's range, within its quota. -/
def poolFits (s : State) (g : Nat) : Bool :=
  let m := mmuOf s g
  m.poolPages == 0 || (decide (65536 * (m.poolBase + m.poolPages) ≤ ddrReserved) &&
    inPortRange s.bow.k (portOf g) (65536 * m.poolBase) (poolBytes s g) && decide (ddrUsedMib s g ≤ (quotaOf s g).ddrMib))

/-- A write of a pool register that the function's state and the pool's limits admit. -/
def poolWrite (g : Nat) (h : Mmu → Mmu) (s : State) : State :=
  let s1 := modMmu g h s
  if funcQuiet s g && poolFits s1 g then s1 else s

def mmuWrite (f : Nat) (a : Access) (s : State) : State :=
  let o := a.reg % 0x10000
  let w := if isPhys f then o / 0x100 else (o - 0x8000) / 0x100
  match mmuTarget f w with
  | none => s
  | some g =>
    let m := mmuOf s g
    match o % 0x100 with
    | 0x00 => write64 a (4096 * m.root + b2n m.enable) (fun v s =>
        if funcQuiet s g then modMmu g (fun m => { m with root := bf v 63 12, enable := bit v 0 }) s else s) s
    | 0x20 => write32 a (fun v => modMmu g (fun m => { m with faultValid := m.faultValid && !bit v 0 })) s
    | 0x28 => if isPhys f then write64 a (65536 * m.poolBase) (fun v =>
        poolWrite g (fun m => { m with poolBase := ranged 0 (ddrReserved / 65536 - 1) m.poolBase (bf v 47 16) })) s else s
    | 0x30 => if isPhys f then write32 a (fun v =>
        poolWrite g (fun m => { m with poolPages := ranged 0 2031616 m.poolPages (bf v 20 0) })) s else s
    | _ => s

def atnWrite (f : Nat) (a : Access) (s : State) : State :=
  let o := a.reg % 0x10000
  if isPhys f && decide (0x100 ≤ o) && decide (o < 0x140) then
    let g := f + (o - 0x100) / 8
    if sessionsOf s g = 0 then write32 a (fun v s => { s with atn := { s.atn with groups := setAt g (bf v 2 0) s.atn.groups } }) s else s
  else s

/-! ## WST_ and DDR_ (02_memory_tiers R90, R91; 10_scheduling_sharing R344) -/

def wstWrite (f : Nat) (a : Access) (s : State) : State :=
  if !isPhys f then s else
  match a.reg % 0x10000 with
  | 0x40 => write32 a (fun v s => { s with wst := { s.wst with
      pslcLimitK := ranged 100 600 s.wst.pslcLimitK (bf v 31 16), tlcLimitK := ranged 10 60 s.wst.tlcLimitK (bf v 15 0) } }) s
  | 0x48 => write32 a (fun v s => { s with wst := { s.wst with
      intervalH := ranged 24 720 s.wst.intervalH (bf v 31 16), berRefresh := ranged 16 96 s.wst.berRefresh (bf v 15 8),
      patrolEnable := bit v 0 } }) s
  | 0x50 => write32 a (fun v s => setBudget { s with wst := { s.wst with pgmDies := ranged 1 64 s.wst.pgmDies (bf v 7 0) } }) s
  | 0x68 => write32 a (fun v s => { s with wst := { s.wst with events := clearBits s.wst.events (bf v 6 0) } }) s
  | 0x140 => write32 a (fun v s => { s with wstMore := { s.wstMore with bstateSel := setAt (portOf f) (bf v 16 0) s.wstMore.bstateSel } }) s
  | _ => s

/-- The migration cache fits its owner's port and quota. -/
def cacheFits (s : State) : Bool :=
  let g := s.stream.mig
  g.size == 0 || (inPortRange s.bow.k (portOf g.owner) g.base (0x200000 * g.size) &&
    decide (ddrUsedMib s g.owner ≤ (quotaOf s g.owner).ddrMib))

/-- A write of a cache register while the engine is disabled: slots that still drain are zeroed and dropped. -/
def cacheWrite (h : Mig → Mig) (s : State) : State :=
  let s1 : State := { s with stream := { s.stream with mig := h s.stream.mig } }
  if s.stream.mig.enable || !cacheFits s1 then s else
  let s2 := s.stream.mig.slots.foldl (fun t p => zeroDev (s.stream.mig.base + 0x200000 * p.1) 0x200000 t) s1
  { s2 with stream := { s2.stream with mig := { s2.stream.mig with slots := [] } } }

def ddrWrite (f : Nat) (a : Access) (s : State) : State :=
  if !isPhys f || s.ident.variant != 2 then s else
  match a.reg % 0x10000 with
  | 0x108 => write64 a s.stream.mig.base (fun v => cacheWrite (fun g => { g with
      base := ranged 0 (ddrReserved - 1) g.base (0x200000 * bf v 47 21), owner := f })) s
  | 0x110 => write32 a (fun v => cacheWrite (fun g => { g with size := ranged 0 65024 g.size (bf v 15 0) })) s
  | _ => s

/-! ## CAM_ and DRN_ (12_camera_pipeline R395, R396, R420; 11_listening_wake R380, R393) -/

def camPortWord (x : CamPort) : Nat :=
  x.feTimeout * 2 ^ 32 + x.rate * 2 ^ 19 + b2n x.deskew * 2 ^ 16 + x.pnSwap * 2 ^ 12 + x.laneMap * 2 ^ 4 + x.lanes * 4 + b2n x.enable

/-- CAM_PORT_CFG_n: a disabled receiver is idle and has no deskew. -/
def camCfgOf (v : Nat) (x : CamPort) : CamPort :=
  { x with
    feTimeout := ranged 1 1000 x.feTimeout (bf v 47 32), rate := ranged 80 4500 x.rate (bf v 31 19), deskew := bit v 16
    pnSwap := bf v 15 12, laneMap := bf v 11 4, lanes := ranged 0 2 x.lanes (bf v 3 2), enable := bit v 0
    deskewDone := x.deskewDone && bit v 0, hsActive := x.hsActive && bit v 0, lanesOk := if bit v 0 then x.lanesOk else 0 }

def camWrite (f : Nat) (a : Access) (s : State) : State :=
  let o := a.reg % 0x10000
  let n := (o - 0x100) / 0x40
  if !isPhys f then s
  else if o = 0x08 then write32 a (fun v s => if s.cam.lock then s else { s with cam := { s.cam with
      lock := bit v 16, inlineEn := bit v 12, inlineFunc := bf v 11 8, portOwner := bf v 7 0 } }) s
  else if 0x100 ≤ o ∧ o < 0x300 ∧ o % 0x40 = 0 then
    if bit s.cam.portOwner n == (portOf f == 1) && !s.cam.binds.any (fun b => cbPort b.block == n) then
      write64 a (camPortWord (camPort s n)) (fun v => modCamPort n (camCfgOf v)) s
    else s
  else if 0x100 ≤ o ∧ o < 0x300 ∧ o % 0x40 = 8 then
    write32 a (fun v => modCamPort n (fun x => { x with status := clearBits x.status (bf v 5 0) })) s
  else s

def drnWrite (f : Nat) (a : Access) (s : State) : State :=
  if !isPhys f then s else
  match a.reg % 0x10000 with
  | 0x08 => write32 a (fun v s => if s.drone.ownerLock then s else { s with drone := { s.drone with
      replayFuncs := bf v 31 16, ownerLock := bit v 8, ownerPort := bf v 0 0 } }) s
  | 0x60 => write32 a (fun v s => { s with drone := { s.drone with clip := clearBits s.drone.clip (bf v 31 16) } }) s
  | 0x68 => write32 a (fun v s => { s with drone := { s.drone with events := clearBits s.drone.events (bf v 7 0) } }) s
  | _ => s

/-! ## PEG_ and CAPO_ (13_power_domains; 14_capo_thermal_supply R446; 20_register_map R593) -/

def pegWrite (f : Nat) (a : Access) (s : State) : State :=
  if !isPhys f then s else
  match a.reg % 0x10000 with
  | 0x28 => write32 a (fun v s => { s with pwr := { s.pwr with idleMs := ranged 1 60000 s.pwr.idleMs (bf v 15 0) } }) s
  | 0x38 => write32 a (fun v s => { s with pwr := { s.pwr with events := clearBits s.pwr.events (bf v 3 0) } }) s
  | 0x208 => writeWhole a (fun v s => { s with clk := { s.clk with fault := clearBits s.clk.fault (bf v 24 0) } }) s
  | _ => s

/-- CAPO_CAP: the limit and its lock first, then the cap; a cap above the limit leaves the register unchanged. The hints in
force are clipped to the new cap (06_streaming_and_fusion R244). -/
def capWrite (v : Nat) (s : State) : State :=
  let c := s.capo
  let limit := if c.capLock then c.capLimit else ranged 150 1500 c.capLimit (bf v 26 16)
  if limit < bf v 10 0 then s
  else settleHints { s with capo := { c with
    capLimit := limit, capLock := c.capLock || bit v 31, cap := ranged 150 1500 c.cap (bf v 10 0) } }

/-- Two levels of one register, the second above the first. -/
def levelPair (lo1 hi1 lo2 hi2 a b v1 v2 : Nat) : Nat × Nat :=
  let x := ranged lo1 hi1 a v1
  let y := if lo2 ≤ v2 ∧ v2 ≤ hi2 ∧ x < v2 then v2 else b
  if x < y then (x, y) else (a, y)

def capoWrite (f : Nat) (a : Access) (s : State) : State :=
  if !isPhys f then s else
  match a.reg % 0x10000 with
  | 0x08 => write32 a capWrite s
  | 0x20 => write32 a (fun v s => { s with capo := { s.capo with rampDw := ranged 1 255 s.capo.rampDw (bf v 7 0) } }) s
  | 0x28 => write32 a (fun v s => { s with capo := { s.capo with
      stormCount := ranged 2 63 s.capo.stormCount (bf v 13 8), pgmFloor := ranged 0 64 s.capo.pgmFloor (bf v 7 0) } }) s
  | 0x30 => write32 a (fun v s =>
      let l := levelPair 20 100 40 150 s.capo.droop1 s.capo.droop2 (bf v 15 8) (bf v 23 16)
      { s with capo := { s.capo with droop1 := l.1, droop2 := l.2 } }) s
  | 0x60 => write32 a (fun v s =>
      let l := levelPair 90 120 95 124 s.capo.tjWarn s.capo.tjThrottle (bf v 7 0) (bf v 15 8)
      { s with capo := { s.capo with tjWarn := l.1, tjThrottle := l.2 } }) s
  | 0x68 => write32 a (fun v s => { s with capo := { s.capo with
      tempSel := modAt (portOf f) (fun x => ranged 0 62 x (bf v 6 0)) s.capo.tempSel } }) s
  | 0x80 => write32 a (fun v s => { s with capo := { s.capo with
      supplySel := modAt (portOf f) (fun x => ranged 0 17 x (bf v 4 0)) s.capo.supplySel } }) s
  | 0x88 => writeWhole a (fun v s => if bf v 31 16 = 0 then s else { s with capoMore := { s.capoMore with
      rails := modAt (s.capo.supplySel.getD (portOf f) 0) (fun r => { r with minMv := 0xFFFF }) s.capoMore.rails } }) s
  | 0xA0 => write32 a (fun v s => { s with capoMore := { s.capoMore with events := clearBits s.capoMore.events (bf v 5 0) } }) s
  | _ => s

/-! ## SAF_ (15_functional_safety R494, R496) -/

def regionWord (r : Region) : Nat :=
  b2n r.lock * 2 ^ 63 + b2n r.enable * 2 ^ 62 + r.wrMask * 2 ^ 32 + r.rdMask

def modRegion (n : Nat) (g : Region → Region) (s : State) : State :=
  { s with safMore := { s.safMore with regions := smMod {} n g s.safMore.regions } }

/-- SAF_FW_RANGE: `first` is not above the `last` that the write leaves. -/
def regionRange (v : Nat) (r : Region) : Region :=
  if r.lock then r else { r with last := bf v 52 32, first := if bf v 20 0 ≤ bf v 52 32 then bf v 20 0 else r.first }
/-- SAF_FW_PERM: its lock holds the range and the permissions. -/
def regionPerm (v : Nat) (r : Region) : Region :=
  if r.lock then r else { r with lock := bit v 63, enable := bit v 62, wrMask := bf v 53 32, rdMask := bf v 21 0 }

def safWrite (f : Nat) (a : Access) (s : State) : State :=
  let n := s.safMore.fwSel.getD (portOf f) 0
  let r : Region := smGet {} s.safMore.regions n
  if !isPhys f then s else
  match a.reg % 0x10000 with
  | 0x08 => write32 a (fun v s => if s.saf.lock then s else { s with saf := { s.saf with
      lock := bit v 16, enable := bit v 8, safetyFunc := ranged 0 15 s.saf.safetyFunc (bf v 7 0) } }) s
  | 0x28 => write32 a (fun v s => { s with safMore := { s.safMore with events := clearBits s.safMore.events (bf v 7 0) } }) s
  | 0x38 => write32 a (fun v s => if s.saf.regfwLock then s else { s with saf := { s.saf with
      regfwLock := bit v 16, regfw := bf v 12 0 } }) s
  | 0x100 => write32 a (fun v s => { s with safMore := { s.safMore with fwSel := setAt (portOf f) (bf v 7 0) s.safMore.fwSel } }) s
  | 0x108 => write64 a (r.last * 2 ^ 32 + r.first) (fun v => modRegion n (regionRange v)) s
  | 0x110 => write64 a (regionWord r) (fun v => modRegion n (regionPerm v)) s
  | 0x118 => writeWhole a (fun v s => { s with safMore := { s.safMore with deniedValid := s.safMore.deniedValid && !bit v 48 } }) s
  | 0x200 => write32 a (fun v s => { s with safMore := { s.safMore with diagSel := setAt (portOf f) (bf v 1 0) s.safMore.diagSel } }) s
  | _ => s

/-! ## SEC_, FWU_ and RST_ (16_security R509, R512; 17_firmware_reset) -/

/-- Two ranges of addresses share no byte; an empty one shares none. -/
def bytesApart (a n b m : Nat) : Bool := n == 0 || m == 0 || decide (a + n ≤ b) || decide (b + m ≤ a)

/-- A port's copy area fits: in the port's range, apart from every KV pool and from the migration cache (R509). -/
def copyAreaFits (s : State) (p : Nat) : Bool :=
  let base := s.sec.wcopyBase.getD p 0
  let len := 0x200000 * s.sec.wcopySize.getD p 0
  len == 0 || (inPortRange s.bow.k p base len && bytesApart base len s.stream.mig.base (0x200000 * s.stream.mig.size) &&
    (List.range 16).all (fun g => bytesApart base len (65536 * (mmuOf s g).poolBase) (poolBytes s g)))

/-- A write of a copy-area register while the area holds no copy. -/
def copyAreaWrite (p : Nat) (h : Sec → Sec) (s : State) : State :=
  let s1 : State := { s with sec := h s.sec }
  if s.stream.copies.any (fun w => portOf w.func == p) || !copyAreaFits s1 p then s else s1

def secWrite (f : Nat) (a : Access) (s : State) : State :=
  let o := a.reg % 0x10000
  let p := portOf f
  if !isPhys f then s
  else if o = 0x20 then write64 a (s.sec.wcopyBase.getD p 0) (fun v => copyAreaWrite p (fun x => { x with
      wcopyBase := setAt p (0x200000 * bf v 47 21) x.wcopyBase })) s
  else if o = 0x28 then write32 a (fun v => copyAreaWrite p (fun x => { x with
      wcopySize := modAt p (fun n => ranged 0 65024 n (bf v 15 0)) x.wcopySize })) s
  else if 0x40 ≤ o ∧ o < 0x80 then
    writeWhole a (fun v => modConf (f + (o - 0x40) / 8) (fun c => { c with authFail := c.authFail && !bit v 2 })) s
  else if o = 0x100 then write32 a (fun v s => { s with sec := { s.sec with dbgScope := dbgScopeOf s (bf v 9 8) } }) s
  else if 0x200 ≤ o ∧ o < 0x600 then
    writeWhole a (fun v s => if v = 0 then s else { s with sec := { s.sec with dbgResp := smSet 0 ((o - 0x200) / 8) v s.sec.dbgResp } }) s
  else if o = 0x800 then write32 a (fun v s => { s with sec := { s.sec with events := clearBits s.sec.events (bf v 4 0) } }) s
  else s

def fwuWrite (f : Nat) (a : Access) (s : State) : State :=
  if !isPhys f then s else
  match a.reg % 0x10000 with
  | 0x08 => writeWhole a (fun v s => { s with fwu := { s.fwu with ctrlLen := ranged 2 16384 s.fwu.ctrlLen (bf v 46 32) } }) s
  | 0x30 => write32 a (fun v s => if s.fwu.lock then s else { s with fwu := { s.fwu with lock := bit v 16, ports := bf v 1 0 } }) s
  | 0x40 => write32 a (fun v s => { s with fwu := { s.fwu with installSel := setAt (portOf f) (bf v 15 0) s.fwu.installSel } }) s
  | 0x50 => write32 a (fun v s => { s with fwu := { s.fwu with events := clearBits s.fwu.events (bf v 4 0) } }) s
  | _ => s

def rstWrite (f : Nat) (a : Access) (s : State) : State :=
  if !isPhys f then s else
  match a.reg % 0x10000 with
  | 0x10 => write32 a (fun v s => if s.rst.lock then s else { s with rst := { s.rst with lock := bit v 16, warmPorts := bf v 1 0 } }) s
  | 0x18 => write32 a (fun v s => { s with rst := { s.rst with refused := s.rst.refused && !bit v 30 } }) s
  | _ => s

/-! ## The MSI-X table (18_host_ports R553, R559; 20_register_map R587) -/

/-- Put 32 bits at a half of a 64-bit value. -/
def putHalf (high : Bool) (v old : Nat) : Nat := if high then old % 2 ^ 32 + v * 2 ^ 32 else old / 2 ^ 32 * 2 ^ 32 + v

/-- An entry of 16 bytes: message address, message data, vector control with its mask in bit 0. -/
def msixWrite (f v part : Nat) (a : Access) (s : State) : State :=
  if vectorCount f ≤ v then s
  else if part = 0 then modVector f v (fun w => { w with addr := if a.wide then a.value else putHalf a.high a.value w.addr }) s
  else if a.wide then setMask f v (bit a.value 32) (modVector f v (fun w => { w with data := a.value % 2 ^ 32 }) s)
  else if a.high then setMask f v (bit a.value 0) s
  else modVector f v (fun w => { w with data := a.value }) s

/-! ## REGISTER_WRITE -/

/-- The register blocks behind HIF_, BOW_ 0 to RST_ 12. -/
def blockWrite (f block : Nat) (a : Access) (s : State) : State :=
  match block with
  | 0 => bowWrite f a s
  | 1 => mmuWrite f a s
  | 2 => wstWrite f a s
  | 3 => ddrWrite f a s
  | 4 => atnWrite f a s
  | 5 => camWrite f a s
  | 6 => drnWrite f a s
  | 7 => pegWrite f a s
  | 8 => capoWrite f a s
  | 9 => safWrite f a s
  | 10 => secWrite f a s
  | 11 => fwuWrite f a s
  | 12 => rstWrite f a s
  | _ => s

/-- A write to the BAR0 of a physical function (20_register_map R587). -/
def physWrite (f : Nat) (a : Access) (s : State) : State :=
  if a.reg < 0x10000 then hifWrite f a s
  else if a.reg < 0xE0000 then
    let b := a.reg / 0x10000 - 1
    if regServed s f b && !regGuarded s f b then blockWrite f b a s else s
  else if 0x200000 ≤ a.reg ∧ a.reg < 0x208000 then
    if hifServed s f then msixWrite f ((a.reg - 0x200000) / 16) (a.reg / 8 % 2) a s else s
  else s

/-- A write to the BAR0 of a virtual function (18_host_ports R553). -/
def virtWrite (f : Nat) (a : Access) (s : State) : State :=
  if a.reg < 0x8000 then hifWrite f a s
  else if a.reg < 0x8100 then (if regServed s f 1 then mmuWrite f a s else s)
  else if 0xC000 ≤ a.reg ∧ a.reg < 0xD000 then
    if hifServed s f then msixWrite f ((a.reg - 0xC000) / 16) (a.reg / 8 % 2) a s else s
  else s

/-- REGISTER_WRITE: any other access than 4 or 8 aligned bytes writes nothing. -/
def execRegisterWrite (func offset width value : Nat) (s : State) : Res :=
  unit func 16 (ok (match accessOf offset width value with
    | none => s
    | some a => if isPhys func then physWrite func a s else virtWrite func a s))

end Sys2Proof.Machine
end

