-- ==== Sys2Proof/Machine/Dispatch.lean ====
section
/-! DEFINITION. Machine/Dispatch.lean: the meaning of each command and event, one arm per constructor. -/

namespace Sys2Proof.Machine
open Sys2Proof

/-- A command's effect on everything but the queue. -/
def exec (i : Instr) (s : State) : Host.Outcome State Fault Refusal :=
  match i with
  | .matmul id => Sys2Proof.Machine.execMatmul id s
  | .attention id => Sys2Proof.Machine.execAttention id s
  | .attentionBwd id => Sys2Proof.Machine.execAttentionBwd id s
  | .recurrent id => Sys2Proof.Machine.execRecurrent id s
  | .scan id => Sys2Proof.Machine.execScan id s
  | .conv id => Sys2Proof.Machine.execConv id s
  | .pool id => Sys2Proof.Machine.execPool id s
  | .regroup id => Sys2Proof.Machine.execRegroup id s
  | .gcoreRun id => Sys2Proof.Machine.execGcoreRun id s
  | .visionPass id => Sys2Proof.Machine.execVisionPass id s
  | .streamModel id => Sys2Proof.Machine.execStreamModel id s
  | .copy id => Sys2Proof.Machine.execCopy id s
  | .fill id => Sys2Proof.Machine.execFill id s
  | .modelPlace id => Sys2Proof.Machine.execModelPlace id s
  | .barrier id => Sys2Proof.Machine.execBarrier id s
  | .fenceSignal id => Sys2Proof.Machine.execFenceSignal id s
  | .powerHint id => Sys2Proof.Machine.execPowerHint id s
  | .fusedGroup id => Sys2Proof.Machine.execFusedGroup id s
  | .nop id => Sys2Proof.Machine.execNop id s
  | .sessionOpen id => Sys2Proof.Machine.execSessionOpen id s
  | .sessionClose id => Sys2Proof.Machine.execSessionClose id s
  | .sessionTruncate id => Sys2Proof.Machine.execSessionTruncate id s
  | .prefixAttach id => Sys2Proof.Machine.execPrefixAttach id s
  | .prefixPublish id => Sys2Proof.Machine.execPrefixPublish id s
  | .prefixDrop id => Sys2Proof.Machine.execPrefixDrop id s
  | .cameraBind id => Sys2Proof.Machine.execCameraBind id s
  | .cameraUnbind id => Sys2Proof.Machine.execCameraUnbind id s
  | .droneConfig id => Sys2Proof.Machine.execDroneConfig id s
  | .wakePlanSet id => Sys2Proof.Machine.execWakePlanSet id s
  | .prerollReplay id => Sys2Proof.Machine.execPrerollReplay id s
  | .installBegin id => Sys2Proof.Machine.execInstallBegin id s
  | .installData id => Sys2Proof.Machine.execInstallData id s
  | .installCommit id => Sys2Proof.Machine.execInstallCommit id s
  | .installCancel id => Sys2Proof.Machine.execInstallCancel id s
  | .modelRelease id => Sys2Proof.Machine.execModelRelease id s
  | .fwWrite id => Sys2Proof.Machine.execFwWrite id s
  | .fwActivate id => Sys2Proof.Machine.execFwActivate id s
  | .domainSet id => Sys2Proof.Machine.execDomainSet id s
  | .safetyConfigure id => Sys2Proof.Machine.execSafetyConfigure id s
  | .safetyRun id => Sys2Proof.Machine.execSafetyRun id s
  | .safetyStop id => Sys2Proof.Machine.execSafetyStop id s
  | .safetyClear id => Sys2Proof.Machine.execSafetyClear id s
  | .safetyGoldenSet id => Sys2Proof.Machine.execSafetyGoldenSet id s
  | .safetySelftest id run => Sys2Proof.Machine.execSafetySelftest id run s
  | .submissionDoorbell func offset width value => Sys2Proof.Machine.execSubmissionDoorbell func offset width value s
  | .headDoorbell func offset width value => Sys2Proof.Machine.execHeadDoorbell func offset width value s
  | .descriptorAccept ring => Sys2Proof.Machine.execDescriptorAccept ring s
  | .descriptorFetchError ring => Sys2Proof.Machine.execDescriptorFetchError ring s
  | .recordWriteError ring => Sys2Proof.Machine.execRecordWriteError ring s
  | .fencedCommandStart id => Sys2Proof.Machine.execFencedCommandStart id s
  | .commandComplete id fault => Sys2Proof.Machine.execCommandComplete id fault s
  | .interruptCoalesceTimeout ring => Sys2Proof.Machine.execInterruptCoalesceTimeout ring s
  | .eventLostRecord func => Sys2Proof.Machine.execEventLostRecord func s
  | .ringEnable func => Sys2Proof.Machine.execRingEnable func s
  | .ringDrain func => Sys2Proof.Machine.execRingDrain func s
  | .ringAbort func => Sys2Proof.Machine.execRingAbort func s
  | .ringDisable func => Sys2Proof.Machine.execRingDisable func s
  | .hifVersionWrite func hostMax => Sys2Proof.Machine.execHifVersionWrite func hostMax s
  | .hifFuncRingsWrite func n value => Sys2Proof.Machine.execHifFuncRingsWrite func n value s
  | .registerWrite func offset width value => Sys2Proof.Machine.execRegisterWrite func offset width value s
  | .sliceComplete fret cycles => Sys2Proof.Machine.execSliceComplete fret cycles s
  | .preemptGraceExpiry id => Sys2Proof.Machine.execPreemptGraceExpiry id s
  | .sliceWatchdogExpiry fret => Sys2Proof.Machine.execSliceWatchdogExpiry fret s
  | .fretFault fret kind => Sys2Proof.Machine.execFretFault fret kind s
  | .sramCorrectedWriteback unit offset word => Sys2Proof.Machine.execSramCorrectedWriteback unit offset word s
  | .stringBufferDoubleError string offset => Sys2Proof.Machine.execStringBufferDoubleError string offset s
  | .windowRefetchDone string offset => Sys2Proof.Machine.execWindowRefetchDone string offset s
  | .passStart pass => Sys2Proof.Machine.execPassStart pass s
  | .unitFetchIssue pass => Sys2Proof.Machine.execUnitFetchIssue pass s
  | .unitPartArrive pass unit fromStore => Sys2Proof.Machine.execUnitPartArrive pass unit fromStore s
  | .lateBudgetExpiry pass unit => Sys2Proof.Machine.execLateBudgetExpiry pass unit s
  | .weightStoreReadDone at_ outcome use => Sys2Proof.Machine.execWeightStoreReadDone at_ outcome use s
  | .chunkDecodeDone pass unit string base chunk rebuilt => Sys2Proof.Machine.execChunkDecodeDone pass unit string base chunk rebuilt s
  | .ddrCopyRereadDone addr data => Sys2Proof.Machine.execDdrCopyRereadDone addr data s
  | .migrationEpochExpiry => Sys2Proof.Machine.execMigrationEpochExpiry s
  | .migrationPromote region => Sys2Proof.Machine.execMigrationPromote region s
  | .migrationCopyDone slot => Sys2Proof.Machine.execMigrationCopyDone slot s
  | .migrationSlotReuse slot => Sys2Proof.Machine.execMigrationSlotReuse slot s
  | .refreshLimitReached block => Sys2Proof.Machine.execRefreshLimitReached block s
  | .relocationRaise block => Sys2Proof.Machine.execRelocationRaise block s
  | .disturbOverrun block => Sys2Proof.Machine.execDisturbOverrun block s
  | .relocationCopyDone block => Sys2Proof.Machine.execRelocationCopyDone block s
  | .journalRecordDurable => Sys2Proof.Machine.execJournalRecordDurable s
  | .programDone block ok => Sys2Proof.Machine.execProgramDone block ok s
  | .erasePendingErase block => Sys2Proof.Machine.execErasePendingErase block s
  | .blockEraseDone block ok => Sys2Proof.Machine.execBlockEraseDone block ok s
  | .patrolDue block ber => Sys2Proof.Machine.execPatrolDue block ber s
  | .journalCheckpointTrigger => Sys2Proof.Machine.execJournalCheckpointTrigger s
  | .bstateDeltaTimer => Sys2Proof.Machine.execBstateDeltaTimer s
  | .ageClockMinute => Sys2Proof.Machine.execAgeClockMinute s
  | .dieFailed die => Sys2Proof.Machine.execDieFailed die s
  | .startPatrol func => Sys2Proof.Machine.execStartPatrol func s
  | .startCompaction func => Sys2Proof.Machine.execStartCompaction func s
  | .startScrub func => Sys2Proof.Machine.execStartScrub func s
  | .zhDmaq t rd rs1 => Sys2Proof.Machine.execZhDmaq t rd rs1 s
  | .zhDmaw t rd rs1 => Sys2Proof.Machine.execZhDmaw t rd rs1 s
  | .zhInfo t rd rs1 => Sys2Proof.Machine.execZhInfo t rd rs1 s
  | .zhExit t rs1 => Sys2Proof.Machine.execZhExit t rs1 s
  | .fretDmaDone fret ticket => Sys2Proof.Machine.execFretDmaDone fret ticket s
  | .gcoreBudgetExpiry id => Sys2Proof.Machine.execGcoreBudgetExpiry id s
  | .powerHintPrepare hint => Sys2Proof.Machine.execPowerHintPrepare hint s
  | .powerHintPhaseStart hint => Sys2Proof.Machine.execPowerHintPhaseStart hint s
  | .powerHintRestore hint => Sys2Proof.Machine.execPowerHintRestore hint s
  | .bowPortSplitWrite func value => Sys2Proof.Machine.execBowPortSplitWrite func value s
  | .bowHotsetCtrlWrite func value => Sys2Proof.Machine.execBowHotsetCtrlWrite func value s
  | .hotsetResize => Sys2Proof.Machine.execHotsetResize s
  | .bowHotPinWrite func n value => Sys2Proof.Machine.execBowHotPinWrite func n value s
  | .hotSwitchDone entry => Sys2Proof.Machine.execHotSwitchDone entry s
  | .detectorFrame heard ownVoiceLevel => Sys2Proof.Machine.execDetectorFrame heard ownVoiceLevel s
  | .detectorCandidateQuiet => Sys2Proof.Machine.execDetectorCandidateQuiet s
  | .detectorCandidateTimeout => Sys2Proof.Machine.execDetectorCandidateTimeout s
  | .detectorHoldoffExpiry => Sys2Proof.Machine.execDetectorHoldoffExpiry s
  | .prerollBlockBoundary samples => Sys2Proof.Machine.execPrerollBlockBoundary samples s
  | .droneConfigTakeEffect => Sys2Proof.Machine.execDroneConfigTakeEffect s
  | .vibSample samples => Sys2Proof.Machine.execVibSample samples s
  | .levelSample level => Sys2Proof.Machine.execLevelSample level s
  | .cameraMotionSample means => Sys2Proof.Machine.execCameraMotionSample means s
  | .camSampleTimeout => Sys2Proof.Machine.execCamSampleTimeout s
  | .vibFault => Sys2Proof.Machine.execVibFault s
  | .pdmFault mic => Sys2Proof.Machine.execPdmFault mic s
  | .drnPlanKick func value => Sys2Proof.Machine.execDrnPlanKick func value s
  | .drnPlanAck func value => Sys2Proof.Machine.execDrnPlanAck func value s
  | .planHoldExpiry plan => Sys2Proof.Machine.execPlanHoldExpiry plan s
  | .verifierScore plan score => Sys2Proof.Machine.execVerifierScore plan score s
  | .preloadStart plan => Sys2Proof.Machine.execPreloadStart plan s
  | .csiFrameStart port vc frameNo => Sys2Proof.Machine.execCsiFrameStart port vc frameNo s
  | .csiLinePacket port line => Sys2Proof.Machine.execCsiLinePacket port line s
  | .csiFrameEnd port vc frameNo => Sys2Proof.Machine.execCsiFrameEnd port vc frameNo s
  | .frameEndTimeout bind => Sys2Proof.Machine.execFrameEndTimeout bind s
  | .frameRingDoorbell func offset width value => Sys2Proof.Machine.execFrameRingDoorbell func offset width value s
  | .pipelineLineBoundary => Sys2Proof.Machine.execPipelineLineBoundary s
  | .memoryPassStart => Sys2Proof.Machine.execMemoryPassStart s
  | .inlineOutputsComplete => Sys2Proof.Machine.execInlineOutputsComplete s
  | .safetyJobEnd job vector => Sys2Proof.Machine.execSafetyJobEnd job vector s
  | .frameDeadlineExpiry => Sys2Proof.Machine.execFrameDeadlineExpiry s
  | .absentFrameTimeout => Sys2Proof.Machine.execAbsentFrameTimeout s
  | .verdictRingDoorbell func offset width value => Sys2Proof.Machine.execVerdictRingDoorbell func offset width value s
  | .lockstepMismatch pair => Sys2Proof.Machine.execLockstepMismatch pair s
  | .islandSramDoubleError addr => Sys2Proof.Machine.execIslandSramDoubleError addr s
  | .keasterParityError => Sys2Proof.Machine.execKeasterParityError s
  | .partitionFormed => Sys2Proof.Machine.execPartitionFormed s
  | .capoTick strings outsideMw => Sys2Proof.Machine.execCapoTick strings outsideMw s
  | .pgmBudgetTick => Sys2Proof.Machine.execPgmBudgetTick s
  | .droopCrossing string detector level => Sys2Proof.Machine.execDroopCrossing string detector level s
  | .droopRecovery string => Sys2Proof.Machine.execDroopRecovery string s
  | .droopStuck string detector => Sys2Proof.Machine.execDroopStuck string detector s
  | .droopSelfCheck failed => Sys2Proof.Machine.execDroopSelfCheck failed s
  | .tempSample sensor deciC => Sys2Proof.Machine.execTempSample sensor deciC s
  | .thermalCapStep => Sys2Proof.Machine.execThermalCapStep s
  | .thermalLevelExit level => Sys2Proof.Machine.execThermalLevelExit level s
  | .supplyWarningCrossing rail mv => Sys2Proof.Machine.execSupplyWarningCrossing rail mv s
  | .supplyRecovered rail mv minMv belowUs => Sys2Proof.Machine.execSupplyRecovered rail mv minMv belowUs s
  | .dipHoldoffExpiry => Sys2Proof.Machine.execDipHoldoffExpiry s
  | .stormCapEnd => Sys2Proof.Machine.execStormCapEnd s
  | .supplyResetCrossing rail mv => Sys2Proof.Machine.execSupplyResetCrossing rail mv s
  | .powerGood rail => Sys2Proof.Machine.execPowerGood rail s
  | .powerGoodTimeout rail => Sys2Proof.Machine.execPowerGoodTimeout rail s
  | .clockLock domain => Sys2Proof.Machine.execClockLock domain s
  | .memoryPhaseDone domain found => Sys2Proof.Machine.execMemoryPhaseDone domain found s
  | .logicPhaseDone domain saveCrcOk => Sys2Proof.Machine.execLogicPhaseDone domain saveCrcOk s
  | .domainPowerDownStart domain => Sys2Proof.Machine.execDomainPowerDownStart domain s
  | .powerDownDone domain => Sys2Proof.Machine.execPowerDownDone domain s
  | .autoIdleExpiry domain => Sys2Proof.Machine.execAutoIdleExpiry domain s
  | .ddrTrainInvalidate func => Sys2Proof.Machine.execDdrTrainInvalidate func s
  | .clockMonitorWindow off => Sys2Proof.Machine.execClockMonitorWindow off s
  | .aonRtcMonitorWindow aonOff rtcOff => Sys2Proof.Machine.execAonRtcMonitorWindow aonOff rtcOff s
  | .pllLossOfLock pll => Sys2Proof.Machine.execPllLossOfLock pll s
  | .debugRequest func value => Sys2Proof.Machine.execDebugRequest func value s
  | .debugSubmit func => Sys2Proof.Machine.execDebugSubmit func s
  | .debugCheckDone => Sys2Proof.Machine.execDebugCheckDone s
  | .debugResponseTimeout => Sys2Proof.Machine.execDebugResponseTimeout s
  | .jtagExtest => Sys2Proof.Machine.execJtagExtest s
  | .getCertificate func slot => Sys2Proof.Machine.execGetCertificate func slot s
  | .challenge func slot nonce => Sys2Proof.Machine.execChallenge func slot nonce s
  | .getMeasurements func index => Sys2Proof.Machine.execGetMeasurements func index s
  | .keyExchange func slot exchange => Sys2Proof.Machine.execKeyExchange func slot exchange s
  | .endSession func session => Sys2Proof.Machine.execEndSession func session s
  | .confSet func session request => Sys2Proof.Machine.execConfSet func session request s
  | .confExit func session => Sys2Proof.Machine.execConfExit func session s
  | .fwuOpen func value => Sys2Proof.Machine.execFwuOpen func value s
  | .fwuAbort func => Sys2Proof.Machine.execFwuAbort func s
  | .fwuRaiseSec func => Sys2Proof.Machine.execFwuRaiseSec func s
  | .slotEraseDone => Sys2Proof.Machine.execSlotEraseDone s
  | .handoverBootCheckDone failed => Sys2Proof.Machine.execHandoverBootCheckDone failed s
  | .handoverFirmwareReady => Sys2Proof.Machine.execHandoverFirmwareReady s
  | .handoverTakeover snapshotCrcOk => Sys2Proof.Machine.execHandoverTakeover snapshotCrcOk s
  | .handoverTimeout => Sys2Proof.Machine.execHandoverTimeout s
  | .installGranuleDurable xfer granule => Sys2Proof.Machine.execInstallGranuleDurable xfer granule s
  | .suppliesValid => Sys2Proof.Machine.execSuppliesValid s
  | .resetNAssert => Sys2Proof.Machine.execResetNAssert s
  | .rstCtrlWarm func value => Sys2Proof.Machine.execRstCtrlWarm func value s
  | .pegWatchdogExpiry => Sys2Proof.Machine.execPegWatchdogExpiry s
  | .perstNAssert port => Sys2Proof.Machine.execPerstNAssert port s
  | .perstNRelease port => Sys2Proof.Machine.execPerstNRelease port s
  | .hotReset port => Sys2Proof.Machine.execHotReset port s
  | .functionLevelReset func => Sys2Proof.Machine.execFunctionLevelReset func s
  | .vfEnableChange port enable numVfs => Sys2Proof.Machine.execVfEnableChange port enable numVfs s
  | .rstEngineStart func value => Sys2Proof.Machine.execRstEngineStart func value s
  | .engineResetDone passed => Sys2Proof.Machine.execEngineResetDone passed s
  | .startFretTestDone failed => Sys2Proof.Machine.execStartFretTestDone failed s
  | .linkUp port speed width => Sys2Proof.Machine.execLinkUp port speed width s
  | .linkRecovery port => Sys2Proof.Machine.execLinkRecovery port s
  | .pcieCorrectableError port => Sys2Proof.Machine.execPcieCorrectableError port s
  | .unsupportedRequest port => Sys2Proof.Machine.execUnsupportedRequest port s
  | .poisonedWrite func bar offset => Sys2Proof.Machine.execPoisonedWrite func bar offset s
  | .completionError target code => Sys2Proof.Machine.execCompletionError target code s
  | .pcieFatalError port => Sys2Proof.Machine.execPcieFatalError port s
  | .busMasterDisable func => Sys2Proof.Machine.execBusMasterDisable func s
  | .d3hotEntry func => Sys2Proof.Machine.execD3hotEntry func s
  | .aspmL1Request port => Sys2Proof.Machine.execAspmL1Request port s
  | .msixUnmask func vector => Sys2Proof.Machine.execMsixUnmask func vector s
  | .ptmDialogue port hostNs => Sys2Proof.Machine.execPtmDialogue port hostNs s
  | .hifPtmStampRead func => Sys2Proof.Machine.execHifPtmStampRead func s
  | .bar4WindowRead func offset len => Sys2Proof.Machine.execBar4WindowRead func offset len s
  | .bar4WindowWrite func offset data => Sys2Proof.Machine.execBar4WindowWrite func offset data s
  | .mmuInvalPage func window va => Sys2Proof.Machine.execMmuInvalPage func window va s
  | .mmuInvalAll func window => Sys2Proof.Machine.execMmuInvalAll func window s
  | .mmuInvalDone target => Sys2Proof.Machine.execMmuInvalDone target s
  | .atnKeyWrite func g key => Sys2Proof.Machine.execAtnKeyWrite func g key s
  | .gcoreInstruction fret core issue => Sys2Proof.Machine.execGcoreInstruction fret core issue s
  | .ddrMigCtrlWrite func value => Sys2Proof.Machine.execDdrMigCtrlWrite func value s
  | .ddr5PatrolScrubDue => Sys2Proof.Machine.execDdr5PatrolScrubDue s
  | .powerSwitchReady domain => Sys2Proof.Machine.execPowerSwitchReady domain s
  | .suspendDieReady die => Sys2Proof.Machine.execSuspendDieReady die s
  | .csiDeskew port => Sys2Proof.Machine.execCsiDeskew port s
  | .sotError port lane => Sys2Proof.Machine.execSotError port lane s
  | .configurationRequest func write => Sys2Proof.Machine.execConfigurationRequest func write s
  | .linkL1Exit port => Sys2Proof.Machine.execLinkL1Exit port s
  | .avsCurrentCheck measuredMw => Sys2Proof.Machine.execAvsCurrentCheck measuredMw s
  | .negotiateAlgorithms func => Sys2Proof.Machine.execNegotiateAlgorithms func s
  | .keyUpdate func session => Sys2Proof.Machine.execKeyUpdate func session s
  | .heartbeat func session => Sys2Proof.Machine.execHeartbeat func session s
  | .sessionLoss func session => Sys2Proof.Machine.execSessionLoss func session s

end Sys2Proof.Machine
end

