-- ==== Sys2Proof/Machine/Idle.lean ====
section
/-! DEFINITION. Machine/Idle.lean: what a tick of the block's clock does while no command waits (19_clocks_startup R575;
13_power_domains R425). -/

namespace Sys2Proof.Machine
open Sys2Proof

/-- The management firmware has reprogrammed the BRIDGE firewalls once MGMT is ON (DESIGN CHOICE, log entry 21). -/
def reprogramFirewalls (s : State) : State :=
  if domOn s 0 && decide (3 ≤ s.clk.stage) then { s with pwr := { s.pwr with firewallShut := false } } else s

/-- With no command waiting, device time advances by one tick, and what runs by the clock moves with it: the fret DMAs and the
hand-overs between frets, the waits of the tiers, and the patrol scrub (DESIGN CHOICE, log entries 20, 71). -/
def idle (s : State) : State := reprogramFirewalls (scrubTick (feedTick (tick s)))

end Sys2Proof.Machine
end

