-- ==== Sys2Proof/WellFormed.lean ====
section
/-! DEFINITION. WellFormed.lean: the commands and events that the part can be given: every unit number names a unit that the
part has, every access has a width that a bus carries (00_scope R10 to R12; 18_host_ports R553). -/

namespace Sys2Proof

/-- Access widths in bytes that a BAR takes. -/
def widthOk (width : Nat) : Bool := [1, 2, 4, 8].contains width
/-- Lanes of a trained link. -/
def lanesOk (width : Nat) : Bool := [1, 2, 4].contains width
/-- A thread of a general core. -/
def ThreadId.ok (t : ThreadId) : Bool := decide (t.fret < 48) && decide (t.core < 2) && decide (t.thread < 8)

/-- A word of a fret SRAM or of a string buffer. -/
def EccUnit.ok (u : EccUnit) (offset : Nat) : Bool :=
  match u with
  | .fret n => decide (n < 48) && decide (offset < 0x400000)
  | .string n => decide (n < 4) && decide (offset < 0x1000000)
/-- MSI-X vectors of a function. -/
def vectorsAt (func : Nat) : Nat := if func == 0 || func == 8 then 2048 else 256

/-- A command can reach the part. -/
def wellFormed (i : Instr) : Bool :=
  match i with
  | .matmul _ => true
  | .attention _ => true
  | .attentionBwd _ => true
  | .recurrent _ => true
  | .scan _ => true
  | .conv _ => true
  | .pool _ => true
  | .regroup _ => true
  | .gcoreRun _ => true
  | .visionPass _ => true
  | .streamModel _ => true
  | .copy _ => true
  | .fill _ => true
  | .modelPlace _ => true
  | .barrier _ => true
  | .fenceSignal _ => true
  | .powerHint _ => true
  | .fusedGroup _ => true
  | .nop _ => true
  | .sessionOpen _ => true
  | .sessionClose _ => true
  | .sessionTruncate _ => true
  | .prefixAttach _ => true
  | .prefixPublish _ => true
  | .prefixDrop _ => true
  | .cameraBind _ => true
  | .cameraUnbind _ => true
  | .droneConfig _ => true
  | .wakePlanSet _ => true
  | .prerollReplay _ => true
  | .installBegin _ => true
  | .installData _ => true
  | .installCommit _ => true
  | .installCancel _ => true
  | .modelRelease _ => true
  | .fwWrite _ => true
  | .fwActivate _ => true
  | .domainSet _ => true
  | .safetyConfigure _ => true
  | .safetyRun _ => true
  | .safetyStop _ => true
  | .safetyClear _ => true
  | .safetyGoldenSet _ => true
  | .safetySelftest _ _ => true
  | .submissionDoorbell func _ width value => decide (func < 16) && widthOk width && decide (value < 2 ^ 64)
  | .headDoorbell func _ width value => decide (func < 16) && widthOk width && decide (value < 2 ^ 64)
  | .descriptorAccept ring => decide (ring < 16384)
  | .descriptorFetchError ring => decide (ring < 16384)
  | .recordWriteError ring => decide (ring < 16384)
  | .fencedCommandStart _ => true
  | .commandComplete _ _ => true
  | .interruptCoalesceTimeout ring => decide (ring < 16384)
  | .eventLostRecord func => decide (func < 16)
  | .ringEnable func => decide (func < 16)
  | .ringDrain func => decide (func < 16)
  | .ringAbort func => decide (func < 16)
  | .ringDisable func => decide (func < 16)
  | .hifVersionWrite func hostMax => decide (func < 16) && decide (hostMax < 256)
  | .hifFuncRingsWrite func n value => decide (func < 16) && decide (n < 8) && decide (value < 2 ^ 64)
  | .registerWrite func offset width value => decide (func < 16) && decide (offset < 0x1000000) && widthOk width && decide (value < 2 ^ 64)
  | .sliceComplete p _ => decide (p.fret < 48)
  | .preemptGraceExpiry _ => true
  | .sliceWatchdogExpiry p => decide (p.fret < 48)
  | .fretFault fret _ => decide (fret < 48)
  | .sramCorrectedWriteback unit offset _ => unit.ok offset
  | .stringBufferDoubleError string offset => decide (string < 4) && decide (offset < 0x1000000)
  | .windowRefetchDone string offset => decide (string < 4) && decide (offset < 0x1000000)
  | .passStart _ => true
  | .unitFetchIssue _ => true
  | .unitPartArrive _ _ _ => true
  | .lateBudgetExpiry _ _ => true
  | .weightStoreReadDone p _ _ => decide (p.block < 0x20000) && decide (p.page < 384)
  | .chunkDecodeDone _ _ string _ _ _ => decide (string < 4)
  | .ddrCopyRereadDone _ _ => true
  | .migrationEpochExpiry => true
  | .migrationPromote _ => true
  | .migrationCopyDone _ => true
  | .migrationSlotReuse _ => true
  | .refreshLimitReached block => decide (block < 0x20000)
  | .relocationRaise block => decide (block < 0x20000)
  | .disturbOverrun block => decide (block < 0x20000)
  | .relocationCopyDone block => decide (block < 0x20000)
  | .journalRecordDurable => true
  | .programDone block _ => decide (block < 0x20000)
  | .erasePendingErase block => decide (block < 0x20000)
  | .blockEraseDone block _ => decide (block < 0x20000)
  | .patrolDue block _ => decide (block < 0x20000)
  | .journalCheckpointTrigger => true
  | .bstateDeltaTimer => true
  | .ageClockMinute => true
  | .dieFailed die => decide (die < 128)
  | .startPatrol func => decide (func < 16)
  | .startCompaction func => decide (func < 16)
  | .startScrub func => decide (func < 16)
  | .zhDmaq t rd rs1 => t.ok && decide (rd < 32) && decide (rs1 < 32)
  | .zhDmaw t rd rs1 => t.ok && decide (rd < 32) && decide (rs1 < 32)
  | .zhInfo t rd rs1 => t.ok && decide (rd < 32) && decide (rs1 < 32)
  | .zhExit t rs1 => t.ok && decide (rs1 < 32)
  | .fretDmaDone fret _ => decide (fret < 48)
  | .gcoreBudgetExpiry _ => true
  | .powerHintPrepare _ => true
  | .powerHintPhaseStart _ => true
  | .powerHintRestore _ => true
  | .bowPortSplitWrite func value => decide (func < 16) && decide (value < 2 ^ 64)
  | .bowHotsetCtrlWrite func value => decide (func < 16) && decide (value < 2 ^ 64)
  | .hotsetResize => true
  | .bowHotPinWrite func n value => decide (func < 16) && decide (n < 8) && decide (value < 2 ^ 64)
  | .hotSwitchDone _ => true
  | .detectorFrame _ _ => true
  | .detectorCandidateQuiet => true
  | .detectorCandidateTimeout => true
  | .detectorHoldoffExpiry => true
  | .prerollBlockBoundary _ => true
  | .droneConfigTakeEffect => true
  | .vibSample _ => true
  | .levelSample _ => true
  | .cameraMotionSample _ => true
  | .camSampleTimeout => true
  | .vibFault => true
  | .pdmFault mic => decide (mic < 16)
  | .drnPlanKick func value => decide (func < 16) && decide (value < 2 ^ 64)
  | .drnPlanAck func value => decide (func < 16) && decide (value < 2 ^ 64)
  | .planHoldExpiry plan => decide (plan < 8)
  | .verifierScore plan _ => decide (plan < 8)
  | .preloadStart plan => decide (plan < 8)
  | .csiFrameStart port vc frameNo => decide (port < 8) && decide (vc < 16) && decide (frameNo < 65536)
  | .csiLinePacket port _ => decide (port < 8)
  | .csiFrameEnd port vc frameNo => decide (port < 8) && decide (vc < 16) && decide (frameNo < 65536)
  | .frameEndTimeout bind => decide (bind < 32)
  | .frameRingDoorbell func _ width value => decide (func < 16) && widthOk width && decide (value < 2 ^ 64)
  | .pipelineLineBoundary => true
  | .memoryPassStart => true
  | .inlineOutputsComplete => true
  | .safetyJobEnd _ _ => true
  | .frameDeadlineExpiry => true
  | .absentFrameTimeout => true
  | .verdictRingDoorbell func _ width value => decide (func < 16) && widthOk width && decide (value < 2 ^ 64)
  | .lockstepMismatch pair => decide (pair < 2)
  | .islandSramDoubleError addr => decide (addr < 0x800000)
  | .keasterParityError => true
  | .partitionFormed => true
  | .capoTick _ _ => true
  | .pgmBudgetTick => true
  | .droopCrossing string detector _ => decide (string < 4) && decide (detector < 8)
  | .droopRecovery string => decide (string < 4)
  | .droopStuck string detector => decide (string < 4) && decide (detector < 8)
  | .droopSelfCheck _ => true
  | .tempSample sensor _ => decide (sensor < 63)
  | .thermalCapStep => true
  | .thermalLevelExit _ => true
  | .supplyWarningCrossing rail _ => decide (rail < 18)
  | .supplyRecovered rail _ _ _ => decide (rail < 18)
  | .dipHoldoffExpiry => true
  | .stormCapEnd => true
  | .supplyResetCrossing rail _ => decide (rail < 18)
  | .powerGood rail => decide (rail < 11)
  | .powerGoodTimeout rail => decide (rail < 11)
  | .clockLock domain => decide (domain < 13)
  | .memoryPhaseDone domain _ => decide (domain < 13)
  | .logicPhaseDone domain _ => decide (domain < 13)
  | .domainPowerDownStart domain => decide (domain < 13)
  | .powerDownDone domain => decide (domain < 13)
  | .autoIdleExpiry domain => decide (domain < 13)
  | .ddrTrainInvalidate func => decide (func < 16)
  | .clockMonitorWindow _ => true
  | .aonRtcMonitorWindow _ _ => true
  | .pllLossOfLock _ => true
  | .debugRequest func value => decide (func < 16) && decide (value < 2 ^ 64)
  | .debugSubmit func => decide (func < 16)
  | .debugCheckDone => true
  | .debugResponseTimeout => true
  | .jtagExtest => true
  | .getCertificate func _ => decide (func < 16)
  | .challenge func _ _ => decide (func < 16)
  | .getMeasurements func _ => decide (func < 16)
  | .keyExchange func _ _ => decide (func < 16)
  | .endSession func session => decide (func < 16) && decide (session < 65536)
  | .confSet func session _ => decide (func < 16) && decide (session < 65536)
  | .confExit func session => decide (func < 16) && decide (session < 65536)
  | .fwuOpen func value => decide (func < 16) && decide (value < 2 ^ 64)
  | .fwuAbort func => decide (func < 16)
  | .fwuRaiseSec func => decide (func < 16)
  | .slotEraseDone => true
  | .handoverBootCheckDone _ => true
  | .handoverFirmwareReady => true
  | .handoverTakeover _ => true
  | .handoverTimeout => true
  | .installGranuleDurable xfer _ => decide (xfer < 65536)
  | .suppliesValid => true
  | .resetNAssert => true
  | .rstCtrlWarm func value => decide (func < 16) && decide (value < 2 ^ 64)
  | .pegWatchdogExpiry => true
  | .perstNAssert port => decide (port < 2)
  | .perstNRelease port => decide (port < 2)
  | .hotReset port => decide (port < 2)
  | .functionLevelReset func => decide (func < 16)
  | .vfEnableChange port _ numVfs => decide (port < 2) && decide (numVfs < 65536)
  | .rstEngineStart func value => decide (func < 16) && decide (value < 2 ^ 64)
  | .engineResetDone _ => true
  | .startFretTestDone _ => true
  | .linkUp port speed width => decide (port < 2) && decide (speed < 6) && lanesOk width
  | .linkRecovery port => decide (port < 2)
  | .pcieCorrectableError port => decide (port < 2)
  | .unsupportedRequest port => decide (port < 2)
  | .poisonedWrite func bar _ => decide (func < 16) && decide (bar < 5)
  | .completionError _ _ => true
  | .pcieFatalError port => decide (port < 2)
  | .busMasterDisable func => decide (func < 16)
  | .d3hotEntry func => decide (func < 16)
  | .aspmL1Request port => decide (port < 2)
  | .msixUnmask func vector => decide (func < 16) && decide (vector < vectorsAt func)
  | .ptmDialogue port _ => decide (port < 2)
  | .hifPtmStampRead func => decide (func < 16)
  | .bar4WindowRead func _ _ => decide (func < 16)
  | .bar4WindowWrite func _ _ => decide (func < 16)
  | .mmuInvalPage func window va => decide (func < 16) && decide (window < 8) && decide (va < 2 ^ 48)
  | .mmuInvalAll func window => decide (func < 16) && decide (window < 8)
  | .mmuInvalDone target => decide (target < 16)
  | .atnKeyWrite func g key => decide (func < 16) && decide (g < 8) && decide (key < 2 ^ 64)
  | .gcoreInstruction fret core issue => decide (fret < 48) && decide (core < 2) && (match issue.op with | .custom w => decide (w < 2 ^ 32) && w % 128 == 0x0B | _ => true)
  | .ddrMigCtrlWrite func value => decide (func < 16) && decide (value < 2 ^ 64)
  | .ddr5PatrolScrubDue => true
  | .powerSwitchReady domain => decide (domain < 13)
  | .suspendDieReady die => decide (die < 128)
  | .csiDeskew port => decide (port < 8)
  | .sotError port lane => decide (port < 8) && decide (lane < 4)
  | .configurationRequest func _ => decide (func < 16)
  | .linkL1Exit port => decide (port < 2)
  | .avsCurrentCheck _ => true
  | .negotiateAlgorithms func => decide (func < 16)
  | .keyUpdate func session => decide (func < 16) && decide (session < 65536)
  | .heartbeat func session => decide (func < 16) && decide (session < 65536)
  | .sessionLoss func session => decide (func < 16) && decide (session < 65536)

end Sys2Proof
end

