-- ==== Sys2Proof/Safety.lean ====
section
/-! DEFINITION. Safety.lean: what the claims call a possible command, an answer, the canonical form of a state, and a state of
the part. -/

namespace Sys2Proof.Machine
open Sys2Proof

/-- A command that this part can be given: it is well formed, and a die that it names is one of the variant's dies
(03_weight_store WST_INFO). -/
def possible (i : Instr) (s : State) : Bool :=
  wellFormed i && (match i with
    | .dieFailed die => decide (die < dieCount s)
    | .suspendDieReady die => decide (die < dieCount s)
    | _ => true)

/-- The safety pins are low unless the stream runs (15_functional_safety R482). -/
def PinsRule (s : State) : Prop := s.saf.state ≠ .running → s.pins.safeHb = false ∧ s.pins.safeErrN = false

/-- The part's units are all there: 16 functions of 2 ports, 48 frets in 4 strings, 13 power domains, 8 camera ports,
18 monitored rails, 63 temperature sensors, and the registers that exist once for each of them (01_architecture R32 to
R41). A state in which one is missing is no state of the part. -/
structure Shaped (s : State) : Prop where
  functions : s.hif.funcs.length = 16
  mmus : s.mmu.length = 16
  groups : s.atn.groups.length = 16
  keys : s.atn.keys.length = 16
  hits : s.atn.hits.length = 2
  misses : s.atn.misses.length = 2
  evictions : s.atn.evictions.length = 2
  frets : s.bow.frets.length = 48
  strings : s.bow.strings.length = 4
  proposals : s.bow.prop.length = 2
  hotPins : s.bow.pins.length = 16
  quotas : s.bow.quotas.length = 16
  vport : s.bow.vport.length = 16
  vfunc : s.bow.vfunc.length = 128
  bstateSel : s.wstMore.bstateSel.length = 2
  conf : s.sec.conf.length = 16
  wcopyBase : s.sec.wcopyBase.length = 2
  wcopySize : s.sec.wcopySize.length = 2
  slots : s.fwu.slots.length = 2
  installSel : s.fwu.installSel.length = 2
  portCount : s.rst.portCount.length = 2
  flr : s.rst.flr.length = 2
  plans : s.drone.plans.length = 8
  preroll : s.drone.preroll.length = 4
  cameras : s.cam.ports.length = 8
  domains : s.pwr.domains.length = 13
  ports : s.port.ports.length = 2
  funcCfgs : s.port.funcs.length = 16
  capoStrings : s.capo.strings.length = 4
  tempSel : s.capo.tempSel.length = 2
  supplySel : s.capo.supplySel.length = 2
  sensors : s.capoMore.sensors.length = 63
  rails : s.capoMore.rails.length = 18
  fwSel : s.safMore.fwSel.length = 2
  diagSel : s.safMore.diagSel.length = 2

/-- The state of a step that goes on. -/
def nextOf (r : Res) : Option State := match r with
  | .next s => some s
  | _ => none

/-- Both safety pins are low (15_functional_safety SAF_PINS). -/
def pinsBothLow (s : State) : Bool := !s.pins.safeHb && !s.pins.safeErrN

/-- The memories of a state are in canonical form. -/
def State.wf (s : State) : Bool := s.mem.wf

/-- A command answers a next state, of which `P` holds. -/
def Answers (i : Instr) (s : State) (P : State → Prop) : Prop := ∃ t, exec i s = .next t ∧ P t

/-- Command `c` is accepted under the number `id` with opcode `op`, and nothing keeps its row from running it: it is
ready, its domains are ON and no firmware gap holds it (05_command_rings R207; 13_power_domains R432;
17_firmware_reset R530). -/
def ReadyAs (s : State) (id op : Nat) (c : Cmd) : Prop :=
  cmdOf s id = some c ∧ c.opcode = op ∧ c.phase = .ready ∧ domainsUp s c = true ∧ (fwGap s && gapWaits op) = false

/-- A register block of BAR0 takes the writes of a function: it is served, and no register firewall guards it
(15_functional_safety R496; 18_host_ports R565). -/
def Writable (s : State) (func block : Nat) : Prop :=
  func < 16 ∧ regServed s func block = true ∧ regGuarded s func block = false

/-- The ring operations of a function act on ring `r`: HIF_RING_SEL names it and it lies in the function's range
(05_command_rings HIF_RING_SEL, HIF_RING_CTRL). -/
def Selects (s : State) (func r : Nat) : Prop :=
  func < 16 ∧ hifServed s func = true ∧ (hifFunc s func).sel = r ∧ inRange s func r = true

/-- Nothing differs from `s` but the accepted commands, the bow, the stream engine, the general cores, device memory, the frets of
the safety stream's jobs and the free values drawn: what scheduling work may touch. -/
def BowOnly (s t : State) : Prop :=
  t = { s with mem := { s.mem with dev := t.mem.dev }, hif := { s.hif with cmds := t.hif.cmds }, bow := t.bow,
               stream := t.stream, gcore := t.gcore, saf := { s.saf with jobs := t.saf.jobs }, free := t.free }

/-- The row of an operator starts its work: when what it computes (`f`) and the places of its writes are had, the command
holds them staged and the bow gives its slices to the frets; when either fails, the command fails so. In the first case
nothing but scheduling state changes: no destination is written before the completion (05_command_rings R204). -/
def OperatorRuns (row : Nat → Instr) (op : Nat) (f : State → Cmd → Stage → Option Bytes → Except Fail OpOut) : Prop :=
  (∀ (s : State) (id : Nat) (c : Cmd) (o : OpOut) (l : List Seg), ReadyAs s id op c →
    f s c (stageOf c) none = .ok o → stageOut s c (stageOf c) o = .ok l →
    Answers (row id) s (fun t => BowOnly s t ∧
      t = dispatch (settleStream (startWork c (l ++ o.cache) 0 o.work
        (modCmd c.id (fun c => { c with aux := o.kv, barriers := o.barriers }) (drawn o.draws (bindStage c (stageOf c) s))))))) ∧
  (∀ (s : State) (id : Nat) (c : Cmd) (e : Fail), ReadyAs s id op c → f s c (stageOf c) none = .error e →
    exec (row id) s = .next (failCmd c.id e s))

/-- The same of ATTENTION: the sessions of its length table bind it now, and it stays ready while an earlier command comes first by their
order (07_attention_kv R265). -/
def OrderedRuns (row : Nat → Instr) (op : Nat) (f : State → Cmd → Stage → Option Bytes → Except Fail OpOut) : Prop :=
  ∀ (s : State) (id : Nat) (c : Cmd), ReadyAs s id op c →
    let k := withLens s c
    let u := modCmd c.id (fun _ => k) s
    (mustWait s k = true → exec (row id) s = .next u) ∧
    (mustWait s k = false →
      (∀ (o : OpOut) (l : List Seg), f u k (stageOf k) none = .ok o → stageOut u k (stageOf k) o = .ok l →
        Answers (row id) s (fun t => BowOnly s t ∧
          t = dispatch (settleStream (startWork k (l ++ o.cache) 0 o.work
            (modCmd k.id (fun c => { c with aux := o.kv, barriers := o.barriers }) (drawn o.draws (bindStage k (stageOf k) u))))))) ∧
      (∀ (e : Fail), f u k (stageOf k) none = .error e → exec (row id) s = .next (failCmd k.id e u)))

/-- The invariant that every step keeps: the memories are canonical, the safety pins follow R482, and every unit is there. -/
def Invariant (s : State) : Prop := s.wf = true ∧ PinsRule s ∧ Shaped s

end Sys2Proof.Machine
end

