-- ==== Sys2Proof/Certificates/Slice0/Obligations.lean ====
section
/-! DEFINITION. Certificates/Slice0/Obligations.lean: the statements about the model, family by family in the manual's order. -/

open Sys2Proof Sys2Proof.Machine

/-- With command c at the front of the queue and l behind it, a step answers exactly what exec answers for c on the state
whose queue is l. The queue is the model's own form of the commands and events that reach the block. -/
def Obligations.StepRunsTheFrontCommand : Prop :=
  ∀ (c : Instr) (l : List Instr) (s : State),
    step { s with pending := c :: l } = exec c { s with pending := l }

/-- On an empty queue a step answers a next state whose device time is one tick later: 15,625/384 ns, a period of the
always-on clock, or 11,718,750/384 ns, a period of the RTC clock, once the always-on clock has failed. The BRIDGE
firewalls open again when MGMT is ON and the firmware runs. Beside these nothing changes but what the clock moves: the
buffers, queues and credits of the frets with the fret SRAM they fill and the slices that commands hand to those
queues, the waits that DDR_STRIPE_WAIT counts, and the place of the scrub; and where no fret runs a slice, no unit of
a pass waits for a tier and no scrub runs, nothing but time and the firewalls. That the model has no other time, that
these run by the tick and that the firewalls open there are the model's choices (log entries 20, 21, 31 and 71). -/
def Obligations.EmptyQueueLetsOneTickPass : Prop :=
  ∀ s : State, s.pending = [] →
    ∃ t, step s = .next t ∧ t.now = s.now + (if s.clk.aonFailed then 11718750 else 15625) ∧
      t.pwr.firewallShut = (s.pwr.firewallShut && !(domOn s 0 && decide (3 ≤ s.clk.stage))) ∧
      t = { s with
        now := t.now
        mem := { s.mem with dev := t.mem.dev }
        hif := { s.hif with cmds := t.hif.cmds }
        bow := { s.bow with frets := t.bow.frets }
        stream := { s.stream with storeWaitUs := t.stream.storeWaitUs, storeSeen := t.stream.storeSeen,
                                  ddrWaitUs := t.stream.ddrWaitUs, ddrSeen := t.stream.ddrSeen }
        wst := { s.wst with running := t.wst.running }
        wstMore := { s.wstMore with scrubAt := t.wstMore.scrubAt }
        pwr := { s.pwr with firewallShut := t.pwr.firewallShut } } ∧
      ((∀ f ∈ s.bow.frets, f.slots = []) → (∀ p ∈ s.stream.passes, ∀ u ∈ p.units, ∀ b, waitsTier b u = false) →
        bit s.wst.running 4 = false →
        t = { s with now := t.now, pwr := { s.pwr with firewallShut := t.pwr.firewallShut } })

/-- In State.reset the memories are in canonical form, the safety pins are low with the stream not RUNNING, every unit of
the part is there, and no command waits. -/
def Obligations.ResetMeetsTheInvariant : Prop :=
  Invariant State.reset ∧ State.reset.pending = []

/-- From every state that meets the invariant, reached from reset or not, and with any command at the front of the queue,
a step that goes on leaves a state that meets it: the three memories stay in canonical form, both safety pins are low
whenever the stream is not RUNNING (15_functional_safety R482), and no fret, string, domain, port or register of the
part's fixed lists is lost. -/
def Obligations.StepKeepsTheInvariant : Prop :=
  ∀ s t : State, Invariant s → step s = .next t → Invariant t

/-- For every state and every command that is well formed (every unit it names is one the part has, and a die one of the
variant's dies), exec answers a next state: no command with in-range unit numbers faults or is refused, whatever data
it carries. -/
def Obligations.PossibleCommandsAnswer : Prop :=
  ∀ (i : Instr) (s : State), possible i s = true → ∃ t, exec i s = .next t

/-- Whatever command runs and whatever state it leads to, the queue of waiting commands is the same after exec as before
it. -/
def Obligations.CommandsLeaveTheQueue : Prop :=
  ∀ (i : Instr) (s t : State), exec i s = .next t → t.pending = s.pending

/-- Device time counts from the last power-on reset. No command or event advances it (time passes between them), and none
sets it to anything but 0. -/
def Obligations.DeviceTimeRunsUntilPowerOnReset : Prop :=
  ∀ (i : Instr) (s t : State), exec i s = .next t → t.now = s.now ∨ t.now = 0

/-- Every step that goes on keeps the variant, the stepping and the serial number, and min_sec_ver after it is at least
min_sec_ver before it. -/
def Obligations.IdentityAndSecurityVersionNeverGoBack : Prop :=
  ∀ s t : State, step s = .next t →
    t.ident.variant = s.ident.variant ∧ t.ident.stepping = s.ident.stepping ∧ t.ident.serial = s.ident.serial ∧
    s.fwu.minSecVer ≤ t.fwu.minSecVer

/-- In every state with canonical memories, after bytes are written to a memory at an address, that memory reads those
bytes there, reads every other address as before, the two other memories read as before, and the memories are
canonical again. -/
def Obligations.WrittenBytesReadBack : Prop :=
  ∀ (s : State) (sp : Space) (a : Nat) (bs : Bytes), s.wf = true →
    readBytes (writeBytes sp a bs s) sp a bs.length = bs ∧
    (∀ (sq : Space) (b : Nat), (sq ≠ sp ∨ b < a ∨ a + bs.length ≤ b) →
      readByte (writeBytes sp a bs s) sq b = readByte s sq b) ∧
    (writeBytes sp a bs s).wf = true

/-- In every state whose ring table is canonical (keys rising, no entry at its reset value), after ring r is changed the
ring reads its changed value, every other ring reads as before, and the table is canonical again. -/
def Obligations.RingTableReadsBack : Prop :=
  ∀ (s : State) (r : Nat) (g : Ring → Ring), smWf {} s.hif.rings = true →
    ringOf (modRing r g s) r = g (ringOf s r) ∧ (∀ q, q ≠ r → ringOf (modRing r g s) q = ringOf s q) ∧
    smWf {} (modRing r g s).hif.rings = true

/-- An aligned 8-byte doorbell write of a ring of the function, with an index below the ring's size, sets the ring's
doorbell value and its host index: the tail of a submission ring that is in use, the head of a completion or event
ring that is in use. The doorbell of a ring that a camera bind holds sets the bind's head, and that of the verdict
ring sets the verdict head. Nothing else changes. -/
def Obligations.DoorbellsMoveTheHostIndex : Prop :=
  (∀ (s : State) (f off v r i : Nat), doorbellOf s f off 8 v = some (r, i) → (ringOf s r).state ≠ .disabled →
    (ringOf s r).typ = 0 → i < ringSize (ringOf s r) →
    exec (.submissionDoorbell f off 8 v) s =
      .next (modRing r (fun g => { g with hostIndex := i }) (modRing r (fun g => { g with doorbell := i }) s))) ∧
  (∀ (s : State) (f off v r i : Nat), doorbellOf s f off 8 v = some (r, i) → (ringOf s r).state ≠ .disabled →
    (ringOf s r).typ ≠ 0 → i < ringSize (ringOf s r) →
    exec (.headDoorbell f off 8 v) s =
      .next (modRing r (fun g => { g with hostIndex := i }) (modRing r (fun g => { g with doorbell := i }) s))) ∧
  (∀ (s : State) (f off v r i : Nat) (b : Bind), doorbellOf s f off 8 v = some (r, i) →
    s.cam.binds.find? (fun b => b.func == f && cbRing b.block == r) = some b → i < 2 ^ cbLog2 b.block →
    exec (.frameRingDoorbell f off 8 v) s =
      .next (modBind b.id (fun x => { x with head := i }) (modRing r (fun g => { g with doorbell := i }) s))) ∧
  (∀ (s : State) (f off v i : Nat), doorbellOf s f off 8 v = some (cfRing s.saf.config, i) → safConfigured s = true →
    f = s.saf.safetyFunc → i < 2 ^ cfLog2 s.saf.config →
    exec (.verdictRingDoorbell f off 8 v) s =
      .next (modRing (cfRing s.saf.config) (fun g => { g with doorbell := i }) { s with saf := { s.saf with ringHead := i } }))

/-- With a ring selected: ENABLE of a DISABLED ring with a valid configuration, a permitted class and a version in use,
and ENABLE of a STOPPED ring, make it ACTIVE with its indices and counts 0 and its phase 1. DRAIN and ABORT of an
ACTIVE ring (ABORT of a DRAINING one too) make it DRAINING or ABORTING, or STOPPED at once when it waits for no
command; ABORT of a submission ring fails every command of the ring that has not begun to commit with ABORTED_BY_HOST,
and each leaves its passes at once. DISABLE of a STOPPED or ERROR ring with nothing outstanding, and for a completion
ring no submission ring bound that is not DISABLED, makes it DISABLED. Nothing else changes; of a submission ABORT the
equation says what does. -/
def Obligations.RingOperationsMoveTheRing : Prop :=
  (∀ (s : State) (f r : Nat), Selects s f r → (ringOf s r).state = .stopped ∨ ((ringOf s r).state = .disabled ∧
      r ∉ heldRings s ∧ configOk s f r = true ∧ ((ringOf s r).typ = 0 → classOk s f (ringOf s r).cls = true) ∧
      activeVersion s f ≠ 0) →
    exec (.ringEnable f) s = .next (modRing r (fun g => { g with
      state := .active, index := 0, hostIndex := 0, phase := true, outstanding := 0, reserved := 0, sinceIrq := 0,
      sinceShadow := 0 }) s)) ∧
  (∀ (s : State) (f r : Nat), Selects s f r → r ∉ heldRings s → (ringOf s r).state = .active →
    exec (.ringDrain f) s =
      .next (modRing r (fun g => { g with state := if ringWaits g = 0 then .stopped else .draining }) s)) ∧
  (∀ (s : State) (f r : Nat), Selects s f r → r ∉ heldRings s →
      (ringOf s r).state = .active ∨ (ringOf s r).state = .draining → (ringOf s r).typ ≠ 0 →
    exec (.ringAbort f) s =
      .next (modRing r (fun g => { g with state := if ringWaits g = 0 then .stopped else .aborting }) s)) ∧
  (∀ (s : State) (f r : Nat), Selects s f r → r ∉ heldRings s →
      (ringOf s r).state = .active ∨ (ringOf s r).state = .draining → (ringOf s r).typ = 0 →
    exec (.ringAbort f) s =
      .next (settleDispatch (((s.hif.cmds.filter (fun c => c.ring == r && c.alive && !c.begun)).map (fun c => c.id)).foldl
        (fun t id => leavePasses id (failCmd id { status := stAborted, result := 0 } t))
        (modRing r (fun g => { g with state := if ringWaits g = 0 then .stopped else .aborting }) s)))) ∧
  (∀ (s : State) (f r : Nat), Selects s f r → r ∉ heldRings s →
      (ringOf s r).state = .stopped ∨ (ringOf s r).state = .error → (ringOf s r).outstanding = 0 →
      ((ringOf s r).typ = 1 → boundRings s r = []) →
    exec (.ringDisable f) s = .next (modRing r (fun g => { g with state := .disabled }) s))

/-- With a ring selected that no bind or verdict ring holds: ENABLE of a ring neither DISABLED nor STOPPED, DRAIN of a
ring that is not ACTIVE, ABORT of a ring neither ACTIVE nor DRAINING, and DISABLE of a ring neither STOPPED nor ERROR,
or with commands outstanding, or a completion ring with a bound submission ring that is not DISABLED, leave everything
as it was but the ring's err, which reads BAD_OP (6). -/
def Obligations.RingOperationsOutOfStateSetBadOp : Prop :=
  ∀ (s : State) (f r : Nat), Selects s f r → r ∉ heldRings s →
    ((ringOf s r).state ≠ .disabled → (ringOf s r).state ≠ .stopped →
      exec (.ringEnable f) s = .next (modRing r (fun g => { g with err := 6 }) s)) ∧
    ((ringOf s r).state ≠ .active → exec (.ringDrain f) s = .next (modRing r (fun g => { g with err := 6 }) s)) ∧
    ((ringOf s r).state ≠ .active → (ringOf s r).state ≠ .draining →
      exec (.ringAbort f) s = .next (modRing r (fun g => { g with err := 6 }) s)) ∧
    (((ringOf s r).state ≠ .stopped ∧ (ringOf s r).state ≠ .error) ∨ (ringOf s r).outstanding ≠ 0 ∨
        ((ringOf s r).typ = 1 ∧ boundRings s r ≠ []) →
      exec (.ringDisable f) s = .next (modRing r (fun g => { g with err := 6 }) s))

/-- A write of HIF_FUNC_RINGS_n by a function of a port changes nothing when the range base to base + count - 1 that it
gives holds an ID outside the port's IDs (8,192 from 8,192 x port), or an ID of another function's range of the port,
or when any ring of function n of the port is not DISABLED. -/
def Obligations.RingRangeWriteRefused : Prop :=
  ∀ (s : State) (f n v : Nat), f < 16 →
    ((∃ r, bf v 15 0 ≤ r ∧ r < bf v 15 0 + bf v 31 16 ∧ (r < 8192 * portOf f ∨ 8192 * (portOf f + 1) ≤ r)) ∨
     (∃ k r, k < 8 ∧ k ≠ n ∧ bf v 15 0 ≤ r ∧ r < bf v 15 0 + bf v 31 16 ∧ inRange s (8 * portOf f + k) r = true) ∨
     anyRingOn s (8 * portOf f + n) = true) →
    exec (.hifFuncRingsWrite f n v) s = .next s

/-- With the port's configuration ready and every ring of the function DISABLED, a write of host_max stores it and nothing
else. A physical function's write of HIF_FUNC_RINGS_n whose range lies in its port apart from the other functions'
ranges, with no ring of function n in use, stores base and count, keeps HIF_RING_SEL inside the range, and changes
nothing else. While the block is served, active reads 1 for a host_max of 1 or more and 0 for 0, and while it is 0 an
ENABLE of a DISABLED ring that is otherwise valid leaves it DISABLED and sets its err to CONFIG (4). -/
def Obligations.NegotiationAndRingRanges : Prop :=
  (∀ (s : State) (f v : Nat), f < 16 → funcExists s f = true → (portSt s (portOf f)).cfgReady = true →
    anyRingOn s f = false → exec (.hifVersionWrite f v) s = .next (modHifFunc f (fun h => { h with hostMax := v % 256 }) s)) ∧
  (∀ (s : State) (f n v : Nat), f < 16 → hifServed s f = true → isPhys f = true → n < 8 →
    rangeOk s (portOf f) n (bf v 15 0) (bf v 31 16) = true → anyRingOn s (8 * portOf f + n) = false →
    exec (.hifFuncRingsWrite f n v) s = .next (modHifFunc (8 * portOf f + n) (fun h => { h with
      base := bf v 15 0, count := bf v 31 16,
      sel := if bf v 15 0 ≤ h.sel ∧ h.sel < bf v 15 0 + bf v 31 16 then h.sel else bf v 15 0 }) s)) ∧
  (∀ (s : State) (f : Nat), hifServed s f = true →
    activeVersion s f = if (hifFunc s f).hostMax = 0 then 0 else 1) ∧
  (∀ (s : State) (f r : Nat), Selects s f r → (ringOf s r).state = .disabled → r ∉ heldRings s → configOk s f r = true →
    ((ringOf s r).typ = 0 → classOk s f (ringOf s r).cls = true) → activeVersion s f = 0 →
    exec (.ringEnable f) s = .next (modRing r (fun g => { g with err := 4 }) s))

/-- On a ring of a function whose next descriptor may be accepted (ACTIVE, tail not reached, fewer than 2^n - 1
outstanding, an entry of its ACTIVE completion ring to reserve) and whose descriptor the function reads, a descriptor
that passes its validation enters the device: it is ready, or held while it waits for earlier commands by its fence or
its sessions, and it binds the installed version and the placement of each model handle it binds; the fetch index
advances, and the completion ring reserves an entry (enterCmd), the pass of its session counts the units that it jumps
over as consumed (markAccepted); a SESSION_CLOSE closes its session to later commands; a PREROLL_REPLAY that is ready
opens its replay; then the power domains and the bow act on it. One that fails its validation enters failed, with its
status and locator, waits for nothing, and what its failing access records is recorded. -/
def Obligations.DescriptorsAreAcceptedInOrder : Prop :=
  (∀ (s : State) (r f : Nat) (d : Bytes) (c : Cmd), ringOwner s r = some f → mayAccept s r f = true →
    fetchDescriptor s r f = some d → validate s (ringOf s r).cls (rawCmd s r f d) = .ok c →
    let k : Cmd := { c with
      waits := waitsFor s c, aux := barrierWaits s c, phase := if (waitsFor s c).isEmpty then .ready else .held,
      bound := { c.bound with
        version := versionOf s c.model
        places := (boundHandles c).map (fun h => placedNow s f h (versionOf s h)) } }
    let u := markAccepted k (enterCmd r f k s)
    exec (.descriptorAccept r) s = .next (dispatch (settlePower (some (2, f)) (openReplays
      (if c.opcode = 0x41 then modSession f c.session (fun x => { x with closing := true }) u else u))))) ∧
  (∀ (s : State) (r f : Nat) (d : Bytes) (e : Fail), ringOwner s r = some f → mayAccept s r f = true →
    fetchDescriptor s r f = some d → validate s (ringOf s r).cls (rawCmd s r f d) = .error e →
    exec (.descriptorAccept r) s =
      .next (recordFail f r e (enterCmd r f { rawCmd s r f d with phase := .failed e.status e.result } s)))

/-- A fetch of a descriptor that ends in a PCIe error puts its submission ring, when ACTIVE or DRAINING, in ERROR with err
FETCH (2) and sends RING_ERROR to the event rings of functions 0 and 8 after the error is logged in AER. A failed
write of a completion, event record or head shadow does so with err WRITE (3), for a completion ring with its
submission rings (ringError). A failed write of a bind's record acts on the bind (bindWriteError); one of a verdict
sets the ring's err to 3 and latches cause 7. When a ring with irq_en 1 has counted entries since its last interrupt,
the coalescing timeout zeroes the count and raises the ring's vector. When a function's event ring has space and
records were dropped, EVENT_LOST_RECORD clears the count and writes one EVENT_LOST record that carries it, counting it
for the ring's interrupt. -/
def Obligations.RingFailuresInterruptsAndLostRecords : Prop :=
  (∀ (s : State) (r f : Nat), (ringOf s r).typ = 0 → ringOwner s r = some f →
    ((ringOf s r).state = .active ∨ (ringOf s r).state = .draining) →
    exec (.descriptorFetchError r) s = .next (postBoth 0x0060 2 0 r
      (modRing r (fun g => { g with state := .error, err := 2 }) (logAer (portOf f) 2 s)))) ∧
  (∀ (s : State) (r f : Nat), ringOwner s r = some f → s.cam.binds.find? (fun b => cbRing b.block == r) = none →
    (safConfigured s = false ∨ cfRing s.saf.config ≠ r) →
    exec (.recordWriteError r) s = .next (ringError r 3 (logAer (portOf f) 2 s))) ∧
  (∀ (s : State) (r f : Nat) (b : Bind), ringOwner s r = some f → s.cam.binds.find? (fun b => cbRing b.block == r) = some b →
    exec (.recordWriteError r) s = .next (bindWriteError b (logAer (portOf f) 2 s))) ∧
  (∀ (s : State) (r f : Nat), ringOwner s r = some f → s.cam.binds.find? (fun b => cbRing b.block == r) = none →
    safConfigured s = true → cfRing s.saf.config = r →
    exec (.recordWriteError r) s = .next (latch 7 (modRing r (fun g => { g with err := 3 }) (logAer (portOf f) 2 s)))) ∧
  (∀ (s : State) (r f : Nat), ringOwner s r = some f → (ringOf s r).irqEn = true → 0 < (ringOf s r).sinceIrq →
    exec (.interruptCoalesceTimeout r) s =
      .next (raiseVector f (ringOf s r).vector (modRing r (fun g => { g with sinceIrq := 0 }) s))) ∧
  (∀ (s : State) (f r : Nat), f < 16 → eventRing s f = some r → 0 < (hifFunc s f).dropped →
    0 < freeEntries (ringOf s r) →
    exec (.eventLostRecord f) s = .next (countEntry f r false (writeEntry f r
      (eventRecord s 0x0061 0 ((hifFunc s f).dropped) 0xFFFF) (modHifFunc f (fun h => { h with dropped := 0 }) s))))

/-- A ready NOP or POWER_HINT is done with nothing staged and result 0. A ready BARRIER is done when every command that it
waits for has completed, and until then nothing changes. A ready FENCE_SIGNAL whose address translates stages the 8
bytes of value there. A command that a fence held becomes ready when every command it waits for has completed; a power
hint counts its times from then, and a PREROLL_REPLAY opens its replay. Nothing else changes in any of them. -/
def Obligations.ControlCommandsFinish : Prop :=
  (∀ (s : State) (id : Nat) (c : Cmd), ReadyAs s id 0x34 c → exec (.nop id) s = .next (stageDone c.id [] 0 s)) ∧
  (∀ (s : State) (id : Nat) (c : Cmd), ReadyAs s id 0x32 c → exec (.powerHint id) s = .next (stageDone c.id [] 0 s)) ∧
  (∀ (s : State) (id : Nat) (c : Cmd), ReadyAs s id 0x30 c → exec (.barrier id) s =
    .next (if ∀ w ∈ c.aux, cmdOf s w = none then stageDone c.id [] 0 s else s)) ∧
  (∀ (s : State) (id : Nat) (c : Cmd) (l : List Seg), ReadyAs s id 0x31 c →
    vaStage s c.func c.domain (leAt c.desc 16 8) (slice c.desc 24 8) (locator 0 0 16) = .ok l →
    exec (.fenceSignal id) s = .next (stageDone c.id l 0 s)) ∧
  (∀ (s : State) (id : Nat) (c : Cmd), cmdOf s id = some c → c.phase = .held → (∀ w ∈ c.waits, cmdOf s w = none) →
    exec (.fencedCommandStart id) s = .next (openReplays (modCmd id (fun c => { c with
      phase := .ready, accepted := if c.opcode = 0x32 then s.now else c.accepted }) s)))

/-- A ready COPY whose source and destination do not overlap and translate stages the bytes that the source holds at the
destination's places; a ready FILL whose destination translates stages its pattern over len / 8 eights. Each is then
done, with the bytes copied or filled (at most 2^32 - 1) as its result, and no destination byte is written before its
completion: nothing but the command changes. -/
def Obligations.CopyAndFillStageTheirBytes : Prop :=
  (∀ (s : State) (id : Nat) (c : Cmd) (bs : Bytes) (l : List Seg), ReadyAs s id 0x21 c →
    overlap (leAt c.desc 16 8) (leAt c.desc 32 8) (leAt c.desc 24 8) (leAt c.desc 32 8) = false →
    vaRead s c.func c.domain (leAt c.desc 16 8) (leAt c.desc 32 8) (locator 0 0 16) = .ok bs →
    vaStage s c.func c.domain (leAt c.desc 24 8) bs (locator 0 0 24) = .ok l →
    exec (.copy id) s = .next (stageDone c.id l (min (leAt c.desc 32 8) 0xFFFFFFFF) s)) ∧
  (∀ (s : State) (id : Nat) (c : Cmd) (l : List Seg), ReadyAs s id 0x22 c →
    vaStage s c.func c.domain (leAt c.desc 16 8)
      ((List.range (leAt c.desc 24 8 / 8)).flatMap (fun _ => slice c.desc 32 8)) (locator 0 0 16) = .ok l →
    exec (.fill id) s = .next (stageDone c.id l (min (leAt c.desc 24 8) 0xFFFFFFFF) s))

/-- A command that is done and may commit, with no fault, commits: its change of state is made and its staged bytes are
written, then its completion with status OK and its result is written and it retires. A command that failed is undone
instead, and its completion carries its status and result. A done command whose commit faults completes with INTERNAL
and bit 31 of result set; its destinations hold free bytes. A command that is ready, running or done, and whose effect
does not stand yet, completes without its effect when uncorrectable DDR5 data strikes it, with DDR_UNCORRECTABLE and
the locator of the address, counted in ddr_unc, or when a bridge or controller fault does, with INTERNAL, cause 0 and
free bits; one whose effect stands already (Cmd.begun) is struck in its commit, as above. -/
def Obligations.CompletionCommitsThenRetires : Prop :=
  (∀ (s t : State) (id : Nat) (c : Cmd), cmdOf s id = some c → c.phase = .done → mayCommit s c = true → commit c s = .ok t →
    exec (.commandComplete id .none) s =
      .next (retireCmd c stOk (resultOf t c) (letGo c (keySpent c.func t)))) ∧
  (∀ (s : State) (id st r : Nat) (c : Cmd) (b : EndFault), cmdOf s id = some c → c.phase = .failed st r →
    exec (.commandComplete id b) s = .next (retireCmd c st r (undo c s))) ∧
  (∀ (s : State) (id : Nat) (c : Cmd), cmdOf s id = some c → c.phase = .done → mayCommit s c = true →
    exec (.commandComplete id .commit) s =
      .next (retireCmd c stInternal (2 ^ 31 + drawNat 31 s) (undo c (keySpent c.func (spoil c (drawn 1 s)))))) ∧
  (∀ (s : State) (id loc : Nat) (c : Cmd), cmdOf s id = some c → c.alive = true → c.phase ≠ .held → c.begun = false →
    exec (.commandComplete id (.ddr loc)) s = .next (retireCmd c 0x12 loc (undo c (failCmd c.id { status := 0x12, result := loc }
      { s with stream := { s.stream with ddrUncorrected := min (s.stream.ddrUncorrected + 1) 0xFFFF } })))) ∧
  (∀ (s : State) (id : Nat) (c : Cmd), cmdOf s id = some c → c.alive = true → c.phase ≠ .held → c.begun = false →
    exec (.commandComplete id .internal) s = .next (retireCmd c 0x7F (drawNat 28 s) (undo c
      (failCmd c.id { status := 0x7F, result := drawNat 28 s } (drawn 1 s))))) ∧
  (∀ (s : State) (id : Nat) (c : Cmd), cmdOf s id = some c → c.begun = true →
    exec (.commandComplete id .internal) s = .next (retireCmd c stInternal (2 ^ 31 + drawNat 31 (drawn 1 s))
      (undo c (keySpent c.func (spoil c (drawn 1 (drawn 1 s)))))))

/-- For each of MATMUL, ATTENTION, ATTENTION_BWD, RECURRENT, SCAN, CONV, POOL and REGROUP: the row of a ready command of
its opcode whose computation and destinations succeed answers the state in which the command's weights are bound, its
results (and KV writes) are staged, its slices are counted and the bow has given them to the free frets; host memory,
every register, every session, every other unit stays as it was (BowOnly). When the computation fails, the command
fails with that status and locator. An ATTENTION reads the sessions of its length table first, and stays ready while
an earlier command comes first by their order. -/
def Obligations.OperatorsStartTheirWork : Prop :=
  OperatorRuns .matmul 1 matmulOut ∧ OrderedRuns .attention 2 attentionOut ∧ OperatorRuns .attentionBwd 3 attentionBwdOut ∧
  OperatorRuns .recurrent 4 recurrentOut ∧ OperatorRuns .scan 5 scanOut ∧ OperatorRuns .conv 6 convOut ∧
  OperatorRuns .pool 7 poolOut ∧ OperatorRuns .regroup 8 regroupOut

/-- The row of a ready FUSED_GROUP reads the sessions of its length tables, and while an earlier command comes first by
their order it stays ready. When its stages run it stages what they write, cuts its work into the row blocks of its
sections with their barriers (groupWork), holds the intermediates of all sections but the last in the device-reserved
region, and starts. The row of a ready GCORE_RUN whose image and register blocks fit the work area and whose image
reads keeps the image with its block and starts as one slice of exactly the frets it asks for. -/
def Obligations.GroupsAndProgramsStart : Prop :=
  (∀ (s : State) (id : Nat) (c : Cmd), ReadyAs s id 0x33 c →
    let k := withLens s c
    let t := modCmd c.id (fun _ => k) s
    (mustWait s k = true → exec (.fusedGroup id) s = .next t) ∧
    (∀ (u : State) (a : GroupAcc), mustWait s k = false → groupRun k (groupStages k) none {} t = .ok (a, u) →
      exec (.fusedGroup id) s = .next (dispatch (settleStream (startWork k a.segs 0 (groupWork t k a.outs).1
        (modCmd k.id (fun x => { x with aux := a.kv, barriers := (groupWork t k a.outs).2, inter := groupInter t x a.outs }) u)))))) ∧
  (∀ (s : State) (id : Nat) (c : Cmd) (code : Bytes), ReadyAs s id 0x10 c →
    leAt c.params 8 4 + 1024 * (leAt c.params 26 2 + leAt c.params 28 2) ≤ workBytes s →
    vaRead s c.func c.domain (leAt c.params 0 8) (leAt c.params 8 4) (locator 2 0 0) = .ok code →
    exec (.gcoreRun id) s = .next (settleDispatch (startWork c [] 0 [{ frets := byteAt c.params 24, upTo := byteAt c.params 24 }]
      (modCmd c.id (fun k => { k with params := c.params ++ code }) s))))

/-- A ready STREAM_MODEL whose layers its model has joins a pass that fits, or opens one, counts the operators of its
session that wait, and runs. Fewer than 8 passes active, the waiting pass first in order starts, and no other. The
next unit of a pass that may be issued, whose DDR5 reads no firewall refuses and that no poisoned granule spoils, is
issued (issueUnit). The part of an issued unit that arrives from the store or from DDR5 is marked there, and the bow
dispatches what waited. A unit whose store part is still under way at its late budget fails its pass with FLASH_LATE
(0x11). -/
def Obligations.StreamPassesRun : Prop :=
  (∀ (s : State) (id : Nat) (c : Cmd) (m : Image), ReadyAs s id 0x20 c → imageVersion s c.model c.bound.version = some m →
    smLast c.desc < (infoOf m).layers →
    exec (.streamModel id) s = .next (settleStream (markWaiting c.func c.session (modCmd c.id (fun c => { c with phase := .running })
      (joinOrOpen
        { cmd := c.id, func := c.func, session := c.session, first := smFirst c.desc, last := smLast c.desc,
          mask := smMask c.desc, look := smLook c.desc, prio := c.prio } m c.func (boundPlace c m.handle) (lateBudgetUs (smBudget c.desc))
        (smMask c.desc) (smFirst c.desc) (smLast c.desc) c.safety s).1)))) ∧
  (∀ (s : State) (p : Pass) (l : List Pass), inOrder (waitingPasses s) = p :: l →
    (activePasses s < 8 → exec (.passStart p.id) s = .next (setPass p.id (fun x => { x with active := true }) s)) ∧
    (∀ q, q ≠ p.id → exec (.passStart q) s = .next s)) ∧
  (∀ (s : State) (p i : Nat) (x : Pass) (u : PassUnit), passOf s p = some x → nextUnit x = some i → x.units[i]? = some u →
    mayIssue s x u = true → unitRefused s x u = none → unitPoisoned s x u = false → exec (.unitFetchIssue p) s = .next (issueUnit x i u s)) ∧
  (∀ (s : State) (p i : Nat) (b : Bool), exec (.unitPartArrive p i b) s =
    .next (dispatch (settleStream (setPass p (fun x => { x with units := modAt i (fun u =>
      if u.issued.isNone then u else if b then { u with storeDone := true } else { u with ddrDone := true }) x.units }) s)))) ∧
  (∀ (s : State) (p i : Nat), storeWaits s p i = true →
    exec (.lateBudgetExpiry p i) s = .next (dispatch (settleStream (failPass p i 0x11 s))))

/-- A read of installed data goes to the replica whose turn it is, passing over failed dies and relocating blocks. The
die-page read counts in the rd_pages of the block read, unless its die has failed. One that decoded at a retry level
stores the level; one from a replica counts on that replica too; one rebuilt from its stripe counts on the stripe and
does what rebuiltRead says; one that failed every step counts there and fails what needed it (failedRead). A rebuild
that the stripe cannot give (another failed die, or no parity) fails. A relocation's read moves it on by a page. A
chunk that decodes puts its bytes at out_offset x 64 behind the unit's base in the string's buffer; one that fails to
decode is read again, and when it fails from rebuilt pages too its pass fails with FLASH_UNCORRECTABLE. A DDR5 copy of
a tensor, or a cached region, that was reread is rewritten, the uncorrected errors count, and the slices that use what
it holds rerun; where no running slice uses the tensor nothing else happens. -/
def Obligations.StoreReadsAndDecodedChunks : Prop :=
  (∀ (s : State) (b g : Nat) (u : ReadFor) (o : ReadOutcome), b < 131072 →
    let r := chooseReplica b u s
    let k := r.2.1
    let live := r.2.2.filter (fun j => !s.wst.failedDies.contains (dieOf j))
    let count (j : Nat) (t : State) : State := modBlock j (fun x => { x with rdPages := min (x.rdPages + 1) (2 ^ 32 - 1) }) t
    let read := if s.wst.failedDies.contains (dieOf k) then r.1 else count k r.1
    let on (t : State) : State := if streamRead u then t else modReloc k (fun x => { x with copied := g + 1 }) t
    (∀ l, trueOutcome s k g r.2.2 o = .ldpc l →
      exec (.weightStoreReadDone ⟨b, g⟩ o u) s = .next (on (modBlock k (fun x => { x with retry := l % 16 }) read))) ∧
    (trueOutcome s k g r.2.2 o = .replica →
      exec (.weightStoreReadDone ⟨b, g⟩ o u) s = .next (on ((live.take 1).foldl (fun t j => count j t) read))) ∧
    (trueOutcome s k g r.2.2 o = .rebuilt →
      exec (.weightStoreReadDone ⟨b, g⟩ o u) s = .next (on (rebuiltRead k u (live.foldl (fun t j => count j t) read)))) ∧
    (trueOutcome s k g r.2.2 o = .failed →
      exec (.weightStoreReadDone ⟨b, g⟩ o u) s = .next (on (failedRead k g u (countStripe k (live.foldl (fun t j => count j t) read)))))) ∧
  (∀ (s : State) (b : Nat) (u : ReadFor) (x : Super) (p : Nat × Nat) (l : List (Nat × Nat)), superOf s b = some x →
    streamRead u = true → replicasInTurn s x b = p :: l → chooseReplica b u s = (takeTurn x p.1 s, p.2, l.map Prod.snd)) ∧
  (∀ (s : State) (b g n : Nat) (l : List Nat), s.wst.failedDies.contains (dieOf b) = false →
    trueOutcome s b g l (.ldpc n) = .ldpc n) ∧
  (∀ (s : State) (b g : Nat) (l : List Nat), noRebuild s b g = true → trueOutcome s b g l .rebuilt = .failed) ∧
  (∀ (s : State) (p u j base : Nat) (chunk o : Bytes) (r : Bool), j < 4 → decodeChunk chunk = some o →
    base + chunkOutOffset chunk * 64 + o.length ≤ 0x1000000 →
    exec (.chunkDecodeDone p u j base chunk r) s =
      .next (writeBytes .dev (stringBufBase j + base + chunkOutOffset chunk * 64) o s)) ∧
  (∀ (s : State) (p u j base : Nat) (chunk : Bytes), j < 4 → decodeChunk chunk = none →
    exec (.chunkDecodeDone p u j base chunk false) s = .next s ∧
    exec (.chunkDecodeDone p u j base chunk true) s = .next (dispatch (settleStream (failPass p u 0x10 s)))) ∧
  (∀ (s : State) (a : Nat) (d : Bytes),
    let v := writeBytes .dev a d { s with stream := { s.stream with ddrUncorrected := min (s.stream.ddrUncorrected + 1) (2 ^ 16 - 1) } }
    let held := s.stream.copies.find? (fun c => decide (c.addr ≤ a) && decide (a + d.length ≤ c.addr + c.len))
    (∀ w, held = some w → exec (.ddrCopyRereadDone a d) s =
      .next (settleDispatch (rerunUsers w.handle w.version (fun t => t == (w.layer, w.tensor)) v))) ∧
    (∀ x m, held = none → slotAt s a d.length = some x → imageOfRegion s x.region = some m →
      exec (.ddrCopyRereadDone a d) s = .next (settleDispatch (rerunUsers m.handle m.version (fun t => match tensorOf m t.1 t.2 with
        | none => false
        | some y => (tensorRegions m y).contains x.region) v))) ∧
    (held = none → slotAt s a d.length = none → exec (.ddrCopyRereadDone a d) s = .next s)) ∧
  (∀ (s : State) (a : Nat) (d : Bytes) (w : WCopy),
    s.stream.copies.find? (fun c => decide (c.addr ≤ a) && decide (a + d.length ≤ c.addr + c.len)) = some w →
    (runningSlices s).all (fun r => match cmdOf s r.cmd with
      | none => true
      | some c => !(c.bound.usesWeights && c.bound.places.any (fun p => p.handle == w.handle && p.version == w.version) &&
          c.bound.tensors.any (fun t => t == (w.layer, w.tensor)))) = true →
    exec (.ddrCopyRereadDone a d) s = .next (settleDispatch (writeBytes .dev a d
      { s with stream := { s.stream with ddrUncorrected := satAdd 16 s.stream.ddrUncorrected 1 } })))

/-- In every state whose counter table is canonical, MIGRATION_EPOCH_EXPIRY leaves each region's counter at half of what
it read before, rounded down, and changes nothing else. -/
def Obligations.EpochHalvesEveryCounter : Prop :=
  ∀ s : State, smWf 0 s.stream.mig.counters = true → Answers .migrationEpochExpiry s (fun t =>
    (∀ r, counterOf t r = counterOf s r / 2) ∧
    t = { s with stream := { s.stream with mig := { s.stream.mig with counters := t.stream.mig.counters } } })

/-- On the -L with the engine enabled, a region not cached whose counter has reached the threshold, and that no
STREAM_STORE placement keeps out, takes the lowest free slot; with none free, the unpinned slot of the lowest count
below its own, when there is one, starts draining with its tag cleared. The end of a copy into a slot that neither
drains nor is valid, when no firewall refuses it, puts the region's decoded bytes there and sets the tag; what waited
for it goes on. A draining slot is zeroed and freed when its last read has completed, and may then be taken by a pin
that waits. On the -L a physical function's write of DDR_MIG_CTRL with enable 1 stores its fields, and pins that wait
take slots. A patrol scrub starts from the first line with its running bit set, or joins the one that runs, and
changes no byte. -/
def Obligations.MigrationMovesRegions : Prop :=
  (∀ (s : State) (r n : Nat), migRuns s = true → s.stream.mig.threshold ≤ counterOf s r → slotOfRegion s r = none →
    keptOut s r = false → freeSlot s = some n → exec (.migrationPromote r) s = .next (takeSlot n r false s)) ∧
  (∀ (s : State) (r n : Nat) (x : MigSlot), migRuns s = true → s.stream.mig.threshold ≤ counterOf s r →
    slotOfRegion s r = none → keptOut s r = false → freeSlot s = none →
    lowestSlot s (fun k => decide (k < counterOf s r)) = some n → smGet none s.stream.mig.slots n = some x →
    exec (.migrationPromote r) s = .next { s with stream := { s.stream with mig := { s.stream.mig with
      slots := smSet none n (some { x with valid := false, pinned := false, draining := true }) s.stream.mig.slots,
      evictions := wrapAdd 32 s.stream.mig.evictions 1 } } }) ∧
  (∀ (s : State) (n : Nat) (x : MigSlot), smGet none s.stream.mig.slots n = some x → x.draining = false → x.valid = false →
    runsRefused s 35 true 0 [(s.stream.mig.base + 0x200000 * n, 0x200000)] = none →
    exec (.migrationCopyDone n) s = .next (dispatch (settleStream (pinMore (setSlot n (some { x with valid := true })
      (writeBytes .dev (s.stream.mig.base + 0x200000 * n) (regionBytes s x.region) s)))))) ∧
  (∀ (s : State) (n : Nat) (x : MigSlot), smGet none s.stream.mig.slots n = some x → x.draining = true → slotRead s n = false →
    exec (.migrationSlotReuse n) s = .next (pinMore (zeroDev (s.stream.mig.base + 0x200000 * n) 0x200000 (setSlot n none s)))) ∧
  (∀ (s : State) (f v : Nat), Writable s f 3 → isPhys f = true → s.ident.variant = 2 → bit v 0 = true →
    exec (.ddrMigCtrlWrite f v) s = .next (dispatch (settleStream (pinMore { s with stream := { s.stream with mig := { s.stream.mig with
      bwLimit := if bf v 23 16 ≤ 100 then bf v 23 16 else s.stream.mig.bwLimit, threshold := bf v 15 8,
      epoch := bf v 7 4, enable := true } } })))) ∧
  (∀ s : State, bit s.wst.running 4 = true → exec .ddr5PatrolScrubDue s = .next s) ∧
  (∀ s : State, bit s.wst.running 4 = false → exec .ddr5PatrolScrubDue s = .next { s with
    wst := { s.wst with running := putBit s.wst.running 4 true }, wstMore := { s.wstMore with scrubAt := 0 } })

/-- The row of a ready MODEL_PLACE whose model is installed, whose entry list reads, whose entries all pass their table
and whose quotas hold keeps the list and reserves its copies and its hot entry (placeStart). With one entry that
breaks its table the command fails with DESCRIPTOR_INVALID at that entry's field, and with a quota that does not hold
with QUOTA_EXCEEDED and the lowest code that applies. -/
def Obligations.ModelPlaceChecksThenReserves : Prop :=
  (∀ (s : State) (id : Nat) (c : Cmd) (m : Image) (bs : Bytes), ReadyAs s id 0x23 c →
    imageVersion s c.model c.bound.version = some m →
    vaRead s c.func c.domain (leAt c.desc 16 8) (8 * leAt c.desc 24 2) (locator 0 0 16) = .ok bs →
    (∀ i < leAt c.desc 24 2, entryFault s (infoOf m).layers (slice bs (8 * i) 8) = none) →
    placeQuota s c m ((List.range (leAt c.desc 24 2)).map (fun i => entryOf (slice bs (8 * i) 8))) = none →
    exec (.modelPlace id) s = .next (placeStart c m ((List.range (leAt c.desc 24 2)).map (fun i => entryOf (slice bs (8 * i) 8)))
      (modCmd c.id (fun c => { c with params := bs }) s))) ∧
  (∀ (s : State) (id o : Nat) (c : Cmd) (m : Image) (bs : Bytes), ReadyAs s id 0x23 c →
    imageVersion s c.model c.bound.version = some m →
    vaRead s c.func c.domain (leAt c.desc 16 8) (8 * leAt c.desc 24 2) (locator 0 0 16) = .ok bs → leAt c.desc 24 2 = 1 →
    entryFault s (infoOf m).layers (slice bs 0 8) = some o →
    exec (.modelPlace id) s = .next (failCmd c.id (bad (locator 2 0 o)) s)) ∧
  (∀ (s : State) (id q : Nat) (c : Cmd) (m : Image) (bs : Bytes), ReadyAs s id 0x23 c →
    imageVersion s c.model c.bound.version = some m →
    vaRead s c.func c.domain (leAt c.desc 16 8) (8 * leAt c.desc 24 2) (locator 0 0 16) = .ok bs →
    (∀ i < leAt c.desc 24 2, entryFault s (infoOf m).layers (slice bs (8 * i) 8) = none) →
    placeQuota s c m ((List.range (leAt c.desc 24 2)).map (fun i => entryOf (slice bs (8 * i) 8))) = some q →
    exec (.modelPlace id) s = .next (failCmd c.id (quotaFail q) s))

/-- A slice that completes on a fret, on its array or its gate edge, frees its frets, charges its cycles and counts for
its command (done with the last one), unless a program of it still has threads; a waiting command whose grace expires,
queued slices put back, takes the frets of the victim chosen for it; the watchdog of a part that runs a slice, loss of
clock or power while a slice or a job runs, a DMA error, and a double-bit error of a bank (whose hot entries are
evicted first) are fret faults that strike what they name. After each the bow acts. Scheduling state alone changes
when a slice completes. -/
def Obligations.SlicesEndFaultAndAreKilled : Prop :=
  (∀ (s : State) (p : FretPart) (n : Nat) (r : Run), p.fret < 48 → partRun s p = some r → threadsLeft s r.cmd = false →
    Answers (.sliceComplete p n) s (fun t => t = dispatch (settleStream (endSlice r n s)) ∧ BowOnly s t)) ∧
  (∀ (s : State) (id : Nat) (v w : Cmd) (p : Run × Cmd),
    let u := (List.range 48).foldl unqueue s
    cmdOf s id = some v → cmdOf u id = some w → runnable w = true → chooseVictim u w = some p →
    exec (.preemptGraceExpiry id) s = .next (dispatch (settleStream (match takes (killSlice p u) w p.1 with
      | none => killSlice p u
      | some i => startSlice w i (killSlice p u))))) ∧
  (∀ (s : State) (i : Nat), i < 48 → fretBusy s i = true →
    exec (.sliceWatchdogExpiry ⟨i, false⟩) s = .next (settleDispatch (fretFaulted i false [.array] s)) ∧
    exec (.fretFault i .clockOrPower) s = .next (settleDispatch (fretFaulted i false [.array, .edge] s))) ∧
  (∀ (s : State) (i : Nat), i < 48 → (fretOf s i).edge.isSome = true →
    exec (.sliceWatchdogExpiry ⟨i, true⟩) s = .next (settleDispatch (fretFaulted i false [.edge] s))) ∧
  (∀ (s : State) (i b : Nat) (x : Struck), i < 48 →
    exec (.fretFault i (.dma x)) s = .next (settleDispatch (fretFaulted i false [x] s)) ∧
    exec (.fretFault i (.sramDouble b x)) s = .next (settleDispatch (fretFaulted i true [x] (evictBank (i / 12) b s))))

/-- In every state with canonical memories and all units, SRAM_CORRECTED_WRITEBACK of a fret's SRAM or a string's buffer
leaves the 8 bytes of the corrected word at its aligned place, every other byte of every memory as it was, that unit's
corrected counter one higher, and everything but device memory and the bow's units unchanged. -/
def Obligations.CorrectedWordsAreWrittenBack : Prop :=
  (∀ (s : State) (n off : Nat) (w : Bytes), Invariant s → n < 48 → off < 0x400000 → w.length = 8 →
    Answers (.sramCorrectedWriteback (.fret n) off w) s (fun t =>
      readBytes t .dev (fretBase n + off / 8 * 8) 8 = w ∧
      (∀ (sp : Space) (b : Nat), (sp ≠ .dev ∨ b < fretBase n + off / 8 * 8 ∨ fretBase n + off / 8 * 8 + 8 ≤ b) →
        readByte t sp b = readByte s sp b) ∧
      (fretOf t n).corrected = (fretOf s n).corrected + 1 ∧
      t = { s with mem := t.mem, bow := { s.bow with frets := t.bow.frets } })) ∧
  (∀ (s : State) (n off : Nat) (w : Bytes), Invariant s → n < 4 → off < 0x1000000 → w.length = 8 →
    Answers (.sramCorrectedWriteback (.string n) off w) s (fun t =>
      readBytes t .dev (stringBufBase n + off / 8 * 8) 8 = w ∧
      (∀ (sp : Space) (b : Nat), (sp ≠ .dev ∨ b < stringBufBase n + off / 8 * 8 ∨ stringBufBase n + off / 8 * 8 + 8 ≤ b) →
        readByte t sp b = readByte s sp b) ∧
      (stringOf t n).corrected = (stringOf s n).corrected + 1 ∧
      t = { s with mem := t.mem, bow := { s.bow with strings := t.bow.strings } }))

/-- A double-bit error in a string's buffer notes its time; where the line lies in the held part of a unit, the 4 KiB is
listed for a refetch from its tier, a refetch from the store counts at its region on the -L, and the slices on the
string that consume the line are put back to run again, and a line of no unit is lost without effect; when the last
such error of the string lies no more than 60 s back the string is quarantined with cause 4. When the refetch is done
the range leaves the list and the bow dispatches what waited. -/
def Obligations.BufferErrorsRefetch : Prop :=
  (∀ (s : State) (j off : Nat), j < 4 →
    (∀ x, (stringOf s j).lastBufError = some x → x + sixtySeconds < s.now) →
    exec (.stringBufferDoubleError j off) s = .next (dispatch (settleStream
      (refetchLine j off (modString j (fun x => { x with lastBufError := some s.now }) s))))) ∧
  (∀ (s : State) (j off x : Nat), j < 4 → (stringOf s j).lastBufError = some x → s.now ≤ x + sixtySeconds →
    exec (.stringBufferDoubleError j off) s = .next (dispatch (settleStream (quarantineString j 4
      (refetchLine j off (modString j (fun x => { x with lastBufError := some s.now }) s)))))) ∧
  (∀ (s : State) (j off : Nat), unitAt s j off = none → refetchLine j off s = s) ∧
  (∀ (s : State) (j off p u : Nat) (b : Bool), unitAt s j off = some (p, u, b) → refetchLine j off s = (
    let v : State := { s with stream := { s.stream with refetch := s.stream.refetch ++
      [{ string := j, line := off / 4096, pass := p, unit := u, fromStore := b, issued := s.now }] } }
    (lineRuns v j).foldl (fun t r => rerunQuietly r t) (if b then countLine p u j off v else v))) ∧
  (∀ (s : State) (j off : Nat), j < 4 →
    exec (.windowRefetchDone j off) s = .next (dispatch { s with stream := { s.stream with
      refetch := s.stream.refetch.filter (fun x => !(x.string == j && x.line == off / 4096)) } }))

/-- In every state with all units, a physical function's write of a new share v of 0 to 16 to BOW_PORT_SPLIT stores its
port's proposal. When the other port proposes v too and v differs from k: k becomes v when the pools, caches, quotas
and installed images of both ports fit their share of it, else blocked is set and k stays. When the other port
proposes something else, k stays and blocked is clear. Nothing else changes in any case. -/
def Obligations.PortSplitTakesEffectWhenAgreed : Prop :=
  ∀ (s : State) (f v : Nat), Shaped s → Writable s f 0 → isPhys f = true → v ≤ 16 → s.bow.prop.getD (portOf f) 0 ≠ v →
    (s.bow.prop.getD (1 - portOf f) 0 ≠ v →
      exec (.bowPortSplitWrite f v) s =
        .next { s with bow := { s.bow with prop := setAt (portOf f) v s.bow.prop, blocked := false } }) ∧
    (s.bow.prop.getD (1 - portOf f) 0 = v → v ≠ s.bow.k → portFits s v 0 = true → portFits s v 1 = true →
      exec (.bowPortSplitWrite f v) s =
        .next { s with bow := { s.bow with prop := setAt (portOf f) v s.bow.prop, blocked := false, k := v } }) ∧
    (s.bow.prop.getD (1 - portOf f) 0 = v → v ≠ s.bow.k → (portFits s v 0 = false ∨ portFits s v 1 = false) →
      exec (.bowPortSplitWrite f v) s =
        .next { s with bow := { s.bow with prop := setAt (portOf f) v s.bow.prop, blocked := true } })

/-- A physical function's write of BOW_HOTSET_CTRL with 0 to 8 banks that hold the pinned entries stores the policy and
the banks to come, and the bow acts. When a new size waits and no slice runs on a hot entry, every entry is evicted,
the size takes effect and the pinned entries load again. A physical function's write of BOW_HOT_PIN_n stores the pin,
and the bow loads what it pins. A switch whose reads of the backing copy no firewall refuses makes its entry loaded
when it ends, and a MODEL_PLACE that waited for it is done; one that is refused leaves it unloaded and fails the
commands that waited. -/
def Obligations.HotSetFollowsItsRegisters : Prop :=
  (∀ (s : State) (f v : Nat), Writable s f 0 → isPhys f = true → bf v 3 0 ≤ 8 → pinnedFit s (bf v 3 0) = true →
    exec (.bowHotsetCtrlWrite f v) s = .next (dispatch (settleStream { s with bow := { s.bow with
      policy := bf v 8 8, hotBanksNext := if bf v 3 0 = s.bow.hotBanks then none else some (bf v 3 0) } }))) ∧
  (∀ (s : State) (n : Nat), s.bow.hotBanksNext = some n → hotRuns s = false →
    exec .hotsetResize s = .next (dispatch (resizeHot n s))) ∧
  (∀ (s : State) (f n v : Nat), Writable s f 0 → isPhys f = true → n < 8 →
    exec (.bowHotPinWrite f n v) s = .next (dispatch (settleStream { s with bow := { s.bow with
      pins := setAt (f + n) { valid := bit v 16, model := bf v 15 0 } s.bow.pins } }))) ∧
  (∀ (s : State) (e : Nat) (h : HotEntry), hotOf s e = some h → h.switching = true →
    runsRefused s 32 false (locator 0 0 8) (backingRuns s h) = none →
    Answers (.hotSwitchDone e) s (fun t => t = dispatch (hotLoaded e s) ∧ BowOnly s t)) ∧
  (∀ (s : State) (e : Nat) (h : HotEntry) (x : Fail), hotOf s e = some h → h.switching = true →
    runsRefused s 32 false (locator 0 0 8) (backingRuns s h) = some x →
    exec (.hotSwitchDone e) s = .next (dispatch (settleStream (refuseSwitch h x s))))

/-- The thread whose turn it is on a general core issues, the turn passes and the thread goes on at the next address
(next): a load that the program may make puts the bytes in rd, another instruction its value (register 0 takes
nothing), a store goes where the program may write, a word in custom-0 does what customOp reads from it. ZH_DMAQ with
a request in the fret's SRAM and fewer than 16 held queues it and rd receives its ticket; ZH_DMAW takes the status of
a ticket that has ended, or waits for one that has not; ZH_INFO answers the program thread number, the count, the fret
and the time in µs for items 0 to 3. -/
def Obligations.ProgramInstructionsAct : Prop :=
  (∀ (s : State) (i k n : Nat) (g : GThread) (c : Cmd), i < 48 → k < 2 → nextThread s i k = some g → cmdOf s g.cmd = some c →
    let u := goOn (idOf g) n (passTurn (idOf g) s)
    (∀ (rd a m : Nat) (bs : Bytes), programRead u c g a m = .ok bs →
      exec (.gcoreInstruction i k ⟨.load rd a m, n⟩) s = .next (setReg (idOf g) rd (leNat bs) u)) ∧
    (∀ (a : Nat) (bs : Bytes) (v : State), programWrite u c g false a bs = .ok v →
      exec (.gcoreInstruction i k ⟨.store a bs, n⟩) s = .next v) ∧
    (∀ rd v, exec (.gcoreInstruction i k ⟨.other rd v, n⟩) s = .next (setReg (idOf g) rd v u)) ∧
    (∀ w, exec (.gcoreInstruction i k ⟨.custom w, n⟩) s = .next (customOp c g w u))) ∧
  (∀ (s : State) (t : ThreadId) (rd r : Nat) (g : GThread) (c : Cmd), nextThread s t.fret t.core = some g → sameThread t g = true →
    cmdOf s g.cmd = some c →
    let u := goOn (idOf g) (g.pc + 4) (passTurn (idOf g) s)
    (fretBase t.fret ≤ regOf g r → regOf g r + 32 ≤ fretBase t.fret + 0x400000 → heldTickets s t < 16 →
      exec (.zhDmaq t rd r) s = .next (queueDma t rd (regOf g r) u)) ∧
    (∀ k, s.gcore.tickets.find? (fun k => k.num == regOf g r && k.fret == t.fret && k.core == t.core && k.thread == t.thread) = some k →
      exec (.zhDmaw t rd r) s = .next (match k.ended with
        | some st => takeTicket t rd (regOf g r) st u
        | none => modThread t (fun x => { x with waiting := some (regOf g r, rd) }) u)) ∧
    (regOf g r ≤ 3 → exec (.zhInfo t rd r) s = .next (setReg t rd (if regOf g r = 0 then g.num else if regOf g r = 1 then g.count
      else if regOf g r = 2 then g.fret else nowUs s) u)))

/-- ZH_EXIT with code 0, of the thread whose turn it is, ends the thread, and when it was the last stages the program's
stores (programEnds); with another code the program fails with INTERNAL kind 1 and that code. A program that has run
for its budget and still runs fails with INTERNAL kind 3. A pending DMA request of a thread of a program with threads
left is carried out (transfer); one that would write into the KV aperture fails the program with FIREWALL_DENIED. -/
def Obligations.ProgramsEndAndFail : Prop :=
  (∀ (s : State) (t : ThreadId) (r : Nat) (g : GThread) (c : Cmd), nextThread s t.fret t.core = some g → sameThread t g = true →
    cmdOf s g.cmd = some c →
    let u := goOn (idOf g) (g.pc + 4) (passTurn (idOf g) s)
    (regOf g r = 0 → exec (.zhExit t r) s = .next (programEnds c (modThread t (fun x => { x with exited := some 0 }) u))) ∧
    (regOf g r ≠ 0 → exec (.zhExit t r) s = .next (settleDispatch (failCmd c.id
      { status := stInternal, result := 1 * 2 ^ 28 + regOf g r % 65536 } u)))) ∧
  (∀ (s : State) (id : Nat) (c : Cmd), cmdOf s id = some c → c.opcode = 0x10 → c.phase = .running → threadsLeft s id = true →
    budgetOver s c = true →
    exec (.gcoreBudgetExpiry id) s = .next (settleDispatch (failCmd id { status := stInternal, result := 3 * 2 ^ 28 } s))) ∧
  (∀ (s : State) (i n : Nat) (k : Ticket) (g : GThread) (c : Cmd), i < 48 →
    s.gcore.tickets.find? (fun k => k.fret == i && k.num == n && k.ended.isNone) = some k →
    ticketThread s k = some g → cmdOf s g.cmd = some c → threadsLeft s c.id = true →
    exec (.fretDmaDone i n) s = .next (transfer c g k s)) ∧
  (∀ (s : State) (k : Ticket) (g : GThread) (c : Cmd), touchesAperture k.dst k.len = true →
    transfer c g k s = settleDispatch (failCmd c.id { status := 0x21, result := locator 2 g.num 40 } s))

/-- Preparing a pending hint, entering its phase and restoring it set its stage, or remove it, and then the setpoint raise
and every string's ramp limit follow the hints in force (settleHints), and so they do after a change of the cap.
Nothing outside the hints, the ramp limits and the raise changes. -/
def Obligations.HintsRaiseThenRestore : Prop :=
  (∀ (s : State) (n : Nat) (h : PowerHint), hintOf s n = some h → h.stage = .pending →
    exec (.powerHintPrepare n) s = .next (settleHints (setHintStage n .prepared s))) ∧
  (∀ (s : State) (n : Nat) (h : PowerHint), hintOf s n = some h →
    exec (.powerHintPhaseStart n) s = .next (settleHints (setHintStage n .phase s)) ∧
    exec (.powerHintRestore n) s = .next (settleHints { s with hints := { s.hints with
      list := s.hints.list.filter (fun x => x.id != n) } })) ∧
  (∀ s : State, settleHints s = { s with
    capo := { s.capo with strings := s.capo.strings.mapIdx (fun j x => { x with rampLifted := hintLifts s j }) },
    capoMore := { s.capoMore with raisedDw := sumBy (hintPower s) (List.range 16) } })

/-- The row of a ready SESSION_OPEN that no check of R248 stops is done with the slot size in pages as its result;
SESSION_CLOSE of a session that a command accepted before it opened closes it to later commands and is done;
SESSION_TRUNCATE of an open session to at most max_len is done; PREFIX_PUBLISH of blocks that the session holds keeps
the blocks and their chained hashes and stages the hashes; PREFIX_ATTACH to an empty open session stages the hashes of
the blocks that hit; PREFIX_DROP keeps its hash list. What they change beside comes with their commit. -/
def Obligations.SessionCommandsPassTheirChecks : Prop :=
  (∀ (s : State) (id : Nat) (c : Cmd), ReadyAs s id 0x40 c → openFail s c = none →
    exec (.sessionOpen id) s = .next (stageDone c.id [] (newSession c).slotPages s)) ∧
  (∀ (s : State) (id : Nat) (c : Cmd) (x : Session), ReadyAs s id 0x41 c → sessionOf s c.func c.session = some x →
    x.opened < c.id → exec (.sessionClose id) s =
      .next (stageDone c.id [] 0 (modSession c.func c.session (fun x => { x with closing := true }) s))) ∧
  (∀ (s : State) (id : Nat) (c : Cmd) (x : Session), ReadyAs s id 0x42 c → ownSession s c = some x →
    leAt c.params 0 4 ≤ x.maxLen → exec (.sessionTruncate id) s = .next (stageDone c.id [] 0 s)) ∧
  (∀ (s : State) (id : Nat) (c : Cmd) (x : Session) (bs : List Bytes) (l : List Seg), ReadyAs s id 0x44 c →
    ownSession s c = some x → 64 * (leAt c.params 24 4 + leAt c.params 28 2) ≤ x.length →
    readBlocks s c (leAt c.params 28 2) = .ok bs →
    stageHashes s c (chainHashes (keyOfGroup s (groupOf s c.func)) (leAt c.params 16 8) bs) = .ok l →
    exec (.prefixPublish id) s = .next (stageDone c.id l 0 (modCmd c.id (fun k => { k with
      stages := bs, aux := chainHashes (keyOfGroup s (groupOf s c.func)) (leAt c.params 16 8) bs }) s))) ∧
  (∀ (s : State) (id : Nat) (c : Cmd) (x : Session) (h : List (Nat × PrefixEntry)) (m : Bool) (l : List Seg),
    ReadyAs s id 0x43 c → ownSession s c = some x → x.length = 0 →
    attachChain s c x (leAt c.params 16 2) 0 0 = .ok (h, m) → stageHashes s c (h.map (fun e => e.1)) = .ok l →
    exec (.prefixAttach id) s = .next (stageDone c.id l 0 s)) ∧
  (∀ (s : State) (id : Nat) (c : Cmd) (bs : Bytes), ReadyAs s id 0x45 c →
    vaRead s c.func c.domain (leAt c.params 0 8) (8 * leAt c.params 8 2) (locator 2 0 0) = .ok bs →
    exec (.prefixDrop id) s = .next (stageDone c.id [] 0 (modCmd c.id (fun k => { k with aux := dropList bs }) s)))

/-- The commit of a SESSION_OPEN that still passes its checks adds the session, with every layer empty. That of a
SESSION_CLOSE removes the session from the table and takes the mappings of all its slots. That of a SESSION_TRUNCATE
to n tokens leaves no layer fill of the session above n and every other session as it was. None of them changes
memory, rings, registers or any other unit. -/
def Obligations.SessionCommitsChangeTheKvState : Prop :=
  (∀ (s : State) (c : Cmd), c.opcode = 0x40 → openFail s c = none → ∃ t, commitState c s = .ok t ∧
    t.atn.sessions = s.atn.sessions ++ [newSession c] ∧ (∀ v ∈ (newSession c).fills, v = 0) ∧
    t = { s with atn := { s.atn with sessions := t.atn.sessions } }) ∧
  (∀ (s : State) (c : Cmd) (x : Session), c.opcode = 0x41 → sessionOf s c.func c.session = some x → x.opened < c.id →
    ∃ t, commitState c s = .ok t ∧ sessionOf t c.func c.session = none ∧
      (∀ f n, (f, n) ≠ (c.func, c.session) → sessionOf t f n = sessionOf s f n) ∧ t = { s with atn := t.atn }) ∧
  (∀ (s : State) (c : Cmd) (x : Session), c.opcode = 0x42 → sessionOf s c.func c.session = some x →
    ∃ t, commitState c s = .ok t ∧
      (∀ y ∈ t.atn.sessions, y.func = c.func → y.sid = c.session → ∀ v ∈ y.fills, v ≤ leAt c.params 0 4) ∧
      (∀ y ∈ t.atn.sessions, ¬(y.func = c.func ∧ y.sid = c.session) → y ∈ s.atn.sessions) ∧ t = { s with atn := t.atn })

/-- A write that invalidates a page or everything through an MMU window of the function sets busy of the function the
window belongs to and notes the commands of that function whose writes translated from the page, or from any, have not
yet reached memory; nothing else changes (translations are not cached: log entry 10). MMU_INVAL_DONE clears busy when
none of the noted commands is left, and does nothing before. A physical function's write of a key other than 0 to
ATN_KEY of one of its port's groups stores the key, drops every prefix entry of that group, returns the pages that
nothing uses any longer, and leaves every entry of another group; writing 0 does nothing (R15). -/
def Obligations.MmuInvalidationsAndShareKeys : Prop :=
  (∀ (s : State) (f w va g : Nat), Writable s f 1 → mmuTarget f w = some g →
    let t (scope : Option Nat) := modMmu g (fun m => { m with busy := true, inFlight := (m.inFlight ++
      (s.hif.cmds.filter (fun c => c.func == g && c.staged.any (inScope scope))).map (fun c => c.id)).eraseDups }) s
    exec (.mmuInvalPage f w va) s = .next (t (some va)) ∧ exec (.mmuInvalAll f w) s = .next (t none)) ∧
  (∀ (s : State) (g : Nat), g < 16 → exec (.mmuInvalDone g) s = .next (
    if ∀ id ∈ (mmuOf s g).inFlight, cmdOf s id = none then modMmu g (fun m => { m with busy := false, inFlight := [] }) s
    else s)) ∧
  (∀ (s : State) (f g k : Nat), Writable s f 4 → isPhys f = true → g < 8 → k ≠ 0 → Answers (.atnKeyWrite f g k) s (fun t =>
    t.atn.keys = setAt (f + g) (k % 2 ^ 64) s.atn.keys ∧
    t.atn.prefixes = s.atn.prefixes.filter (fun e => !(e.group == f + g)) ∧
    t = { s with atn := { s.atn with keys := t.atn.keys, prefixes := t.atn.prefixes, pageOwner := t.atn.pageOwner } })) ∧
  (∀ (s : State) (f g : Nat), Writable s f 4 → g < 8 → exec (.atnKeyWrite f g 0) s = .next s)

/-- A DATA or PARITY block whose reads have reached its refresh limit is queued for relocation. A relocation of a block at
80% or more of its limit is raised to priority 7, and the relocations then take the programming dies in R130's order.
A block that holds data, on a die in service, at twice its limit sets disturb_overrun. When the copy of a relocation
with a destination is done, its REMAP record is written once, and its append waits for the program budget like any
(journal). At the end of a minute the equivalent-age clock advances by 2 to the power of the bin of the hottest NAND
reading of the minute, that bin's minutes count (its hours at each sixtieth), and the reading starts afresh; nothing
else changes. A die that fails for the first time abandons the relocations of its blocks, is listed and sets
die_failed. A die whose program or erase stands suspended is listed as ready for reads. -/
def Obligations.RelocationsAgeClockAndDies : Prop :=
  (∀ (s : State) (b : Nat), holdsData (blockOf s b) = true → refreshLimit s (blockOf s b) ≤ (blockOf s b).rdPages →
    exec (.refreshLimitReached b) s = .next (queueReloc b 0 false false s)) ∧
  (∀ (s : State) (b : Nat), 5 * refreshLimit s (blockOf s b) ≤ 4 * (blockOf s b).rdPages →
    exec (.relocationRaise b) s = .next (grantPrograms (modReloc b (fun r => { r with prio := 7 }) s))) ∧
  (∀ (s : State) (b : Nat), holdsData (blockOf s b) = true ∨ (blockOf s b).state = 4 → dieOf b ∉ s.wst.failedDies →
    2 * refreshLimit s (blockOf s b) ≤ (blockOf s b).rdPages → exec (.disturbOverrun b) s = .next (wstEvent 1 s)) ∧
  (∀ (s : State) (b d : Nat) (r : Reloc), relocOf s b = some r → r.dest = some d →
    let c := Change.remap (dieOf b) (blockOf s b).lblock (d % 1024) (blockOf s b).pslc (some b)
    c ∉ s.wst.pending →
    exec (.relocationCopyDone b) s = .next (journal c s)) ∧
  (∀ s : State, exec .ageClockMinute s = .next (
    let b := tempBin (s.wstMore.minuteTemp.getD (nandTemp s))
    { s with
      wst := { s.wst with
        ageClock := (s.wst.ageClock + 2 ^ b) % 2 ^ 32,
        tempMinutes := setAt b ((s.wst.tempMinutes.getD b 0 + 1) % 60) s.wst.tempMinutes,
        tempHours := if s.wst.tempMinutes.getD b 0 + 1 = 60 then modAt b (fun h => h + 1) s.wst.tempHours else s.wst.tempHours,
        tempChanged := insertN b s.wst.tempChanged },
      wstMore := { s.wstMore with minuteTemp := none } })) ∧
  (∀ (s : State) (d : Nat), d < dieCount s → d ∉ s.wst.failedDies → exec (.dieFailed d) s = .next (
    let u := (s.wst.relocs.filter (fun r => dieOf r.block == d)).foldl (fun t r => abandonReloc r t) s
    wstEvent 16 { u with wst := { u.wst with failedDies := insertN d u.wst.failedDies } })) ∧
  (∀ (s : State) (d : Nat), d < dieCount s → exec (.suspendDieReady d) s =
    .next { s with wstMore := { s.wstMore with suspended := insertN d s.wstMore.suspended } })

/-- JOURNAL_RECORD_DURABLE takes the oldest record written, once the program budget lets it be appended (grantAppend), and
does nothing before; it gives it the next sequence number and its crc in the journal, makes what it says take effect
(applyChange), and lets the waiting relocations take the programming dies this frees (R130). The checkpoint trigger,
and a START_COMPACTION by a physical function, start a compaction: while one runs they join it; while a firmware slot
is erased or written they leave it due (R129); otherwise they set the journal's running bit and write a CHECKPOINT
record. The delta timer writes one record for every block entry and temperature bin that changed, and then none is
marked changed. -/
def Obligations.JournalTakesEffectInOrder : Prop :=
  (∀ (s : State) (c : Change) (l : List Change), s.wst.pending = c :: l → s.wstMore.appending = true →
    exec .journalRecordDurable s = .next (grantPrograms (applyChange c { s with
      wst := { s.wst with
        pending := l, seq := s.wst.seq + 1,
        journal := s.wst.journal ++ [{ seq := s.wst.seq + 1, change := c, crc := crc32 (recordBody (s.wst.seq + 1) c) }] },
      wstMore := { s.wstMore with appending := false, cleanShutdown := decide (c = .cleanShutdown) } }))) ∧
  (∀ s : State, s.wstMore.appending = false → exec .journalRecordDurable s = .next s) ∧
  (∀ (s : State) (f : Nat), Writable s f 2 → isPhys f = true →
    let t := if bit s.wst.running 7 = true then s
      else if fwWrites s = true then { s with wstMore := { s.wstMore with compactionDue := true } }
      else journal .checkpoint { s with wst := { s.wst with running := putBit s.wst.running 7 true },
                                        wstMore := { s.wstMore with compactionDue := false } }
    exec (.startCompaction f) s = .next t) ∧
  (∀ s : State,
    let t := if bit s.wst.running 7 = true then s
      else if fwWrites s = true then { s with wstMore := { s.wstMore with compactionDue := true } }
      else journal .checkpoint { s with wst := { s.wst with running := putBit s.wst.running 7 true },
                                        wstMore := { s.wstMore with compactionDue := false } }
    exec .journalCheckpointTrigger s = .next t) ∧
  (∀ s : State, exec .bstateDeltaTimer s = .next (grantAppend { s with wst := { s.wst with
    pending := s.wst.pending ++ (s.wst.changed.map (fun k => Change.bstateDelta k (blockOf s k)) ++
      s.wst.tempChanged.map Change.tempHist), changed := [], tempChanged := [] } })) ∧
  (∀ s : State, grantAppend s = if s.wst.pending ≠ [] ∧ s.wstMore.appending = false ∧ budgetFree s 0 = true
    then { s with wstMore := { s.wstMore with appending := true } } else s)

/-- A program that succeeds ends its die's suspension and changes nothing more; of an OPEN, journal or firmware block one
that fails retires the block and is repeated elsewhere. The erase of an ERASE_PENDING block begins when no dip holds
it. An erase that succeeds adds its wear (10, or 1 in pSLC) and, below 30,000 units, frees the block, lets the waiting
relocations take the programming dies and levels the die; at 30,000 or when it fails the block retires; one of the
journal's or a firmware slot's blocks that fails is replaced too. A patrol visit of a block that is due counts 6
reads, stores the peak bit errors, and stamps its age, or queues its relocation above the refresh threshold.
START_PATROL by a physical function starts a pass over all blocks; START_SCRUB starts a DDR5 scrub at the first line,
and joins one that runs. -/
def Obligations.BlocksAreProgrammedErasedAndPatrolled : Prop :=
  (∀ (s : State) (b : Nat), b < 131072 → exec (.programDone b true) s = .next { s with wstMore := { s.wstMore with
    suspended := s.wstMore.suspended.filter (fun d => d != dieOf b) } }) ∧
  (∀ (s : State) (b : Nat), b < 131072 → (blockOf s b).state ∈ [1, 6, 7] →
    exec (.programDone b false) s = .next (programFailed b { s with wstMore := { s.wstMore with
      suspended := s.wstMore.suspended.filter (fun d => d != dieOf b) } })) ∧
  (∀ (s : State) (b : Nat), b < 131072 → (blockOf s b).state = 5 → s.capo.dip = false → s.capo.holdoff = false →
    exec (.erasePendingErase b) s = .next { s with wst := { s.wst with erasing := insertN b s.wst.erasing } }) ∧
  (∀ (s : State) (b : Nat) (good : Bool), b < 131072 → b ∈ s.wst.erasing →
    exec (.blockEraseDone b good) s = .next (
      let u := modBlock b (fun x => { x with pe := x.pe + (if x.pslc then 1 else 10) }) { s with
        wst := { s.wst with erasing := s.wst.erasing.filter (fun x => x != b) },
        wstMore := { s.wstMore with suspended := s.wstMore.suspended.filter (fun d => d != dieOf b) } }
      if good = false ∨ 30000 ≤ (blockOf u b).pe then retireBlock b u
      else levelDie (dieOf b) (grantPrograms
        (modBlock b (fun x => { x with state := 0, lblock := 0, rdPages := 0, suspect := false }) u)))) ∧
  (∀ (s : State) (b : Nat), b < 131072 → b ∉ s.wst.erasing → regionErased s b = true →
    exec (.blockEraseDone b false) s = .next (retireBlock b (replaceBlock b s))) ∧
  (∀ (s : State) (b ber : Nat), b < 131072 → patrolDueFor s b = true → b ∉ s.wstMore.patrolLeft →
    exec (.patrolDue b ber) s = .next (
      let u := modBlock b (fun x => { x with rdPages := satAdd 32 x.rdPages 6, berPeak := min ber 0xFFFF }) { s with
        wstMore := { s.wstMore with patrolLeft := s.wstMore.patrolLeft.filter (fun k => k != b) } }
      if s.wst.berRefresh < ber then queueReloc b 0 false true u
      else modBlock b (fun x => { x with ageStamp := s.wst.ageClock }) u)) ∧
  (∀ (s : State) (f : Nat), Writable s f 2 → isPhys f = true → exec (.startPatrol f) s = .next (startPass false s) ∧
    exec (.startScrub f) s = .next (if bit s.wst.running 4 = true then s else { s with
      wst := { s.wst with running := putBit s.wst.running 4 true }, wstMore := { s.wstMore with scrubAt := 0 } }))

/-- From every state in which block b is being erased, the end of the erase, whether it succeeded or not, leaves pe of b
10 higher when b is a TLC block and 1 higher when it is a pSLC block, and pe of every other block as it was. When pe
of b is then 30,000 or more, b is RETIRED (state 8; a block marked bad at manufacture, state 9, stays so). So a TLC
block whose pe was 0 retires at its 3,000th erase at the latest, a pSLC block at its 30,000th. -/
def Obligations.ErasesWearTheirBlock : Prop :=
  ∀ (s : State) (b : Nat) (good : Bool), b < 131072 → b ∈ s.wst.erasing → Answers (.blockEraseDone b good) s (fun t =>
    (blockOf t b).pe = (blockOf s b).pe + (if (blockOf s b).pslc then 1 else 10) ∧
    (∀ j, j ≠ b → (blockOf t j).pe = (blockOf s j).pe) ∧
    (30000 ≤ (blockOf t b).pe → (blockOf s b).state ≠ 9 → (blockOf t b).state = 8))

/-- A ready VISION_PASS of at most 64 Mi output pixels runs and joins the queue of the memory context; a larger one fails
with DESCRIPTOR_INVALID at its first output. A ready CAMERA_BIND that passes its checks is done, else it fails as they
say; a CAMERA_UNBIND of a bind of its function is done, of another function's bind fails with FIREWALL_DENIED, of none
with DESCRIPTOR_INVALID. With CAMERA ON and no pass running, MEMORY_PASS_START takes the next command of the queue
(nextMemoryPass): it runs when its source rows are readable and fails otherwise. At a line boundary, while the
pipeline has its domain (else nothing happens), an in-line frame that has a complete line waiting is served first, one
line of it (of the frame that has ended before the one that runs); otherwise the running memory pass takes one line.
At its last line its outputs are staged, it is done and counted, or it fails where a row or an output cannot be
reached. A pass whose command no longer runs ends at the boundary. INLINE_OUTPUTS_COMPLETE completes the in-line frame
that has ended. -/
def Obligations.CameraCommandsTakeTheirPlace : Prop :=
  (∀ (s : State) (id : Nat) (c : Cmd), ReadyAs s id 0x18 c →
    exec (.visionPass id) s = .next (
      if sumBy (fun k => outPixels (vpOut c.params k)) [0, 1, 2] ≤ 64 * 2 ^ 20 then
        modCmd c.id (fun c => { c with phase := .running }) { s with cam := { s.cam with queue := s.cam.queue ++ [c.id] } }
      else failCmd c.id (bad (locator 2 0 256)) s)) ∧
  (∀ (s : State) (id : Nat) (c : Cmd), ReadyAs s id 0x50 c →
    exec (.cameraBind id) s = .next (match bindCheck s c with
      | .ok _ => stageDone c.id [] 0 s
      | .error e => failCmd c.id e s)) ∧
  (∀ (s : State) (id : Nat) (c : Cmd), ReadyAs s id 0x51 c →
    exec (.cameraUnbind id) s = .next (match bindOf s (byteAt c.params 0) with
      | none => failCmd c.id (bad (locator 2 0 0)) s
      | some b => if b.func = c.func then stageDone c.id [] 0 s else failCmd c.id (fwDenied (locator 2 0 0)) s)) ∧
  (∀ (s : State) (c : Cmd), s.cam.running = none → domOn s 4 = true → nextMemoryPass s = some c →
    let u := { s with cam := { s.cam with queue := s.cam.queue.filter (fun i => decide (i ≠ c.id)) } }
    exec .memoryPassStart s = .next (match readRows u c (vpHeight c.params) with
      | .ok _ => { u with cam := { u.cam with running := some (c.id, 0) } }
      | .error e => failCmd c.id e u)) ∧
  (∀ s : State, (s.cam.running.isSome = true ∨ domOn s 4 = false ∨ nextMemoryPass s = none) → exec .memoryPassStart s = .next s) ∧
  (∀ s : State, pipelineRuns s = false → exec .pipelineLineBoundary s = .next s) ∧
  (∀ (s : State) (b : Bind) (f : Frame) (ended : Bool), pipelineRuns s = true → inlineWaiting s = some (b, f, ended) →
    let g : Frame := { f with processed := f.processed + 1 }
    exec .pipelineLineBoundary s = .next (modBind b.id (fun x => if ended then { x with out := some g } else { x with frame := some g })
      (processLines b f (f.processed + 1) s))) ∧
  (∀ (s : State) (id n : Nat) (c : Cmd), pipelineRuns s = true → inlineWaiting s = none → s.cam.running = some (id, n) → cmdOf s id = some c →
    c.phase = .running → n + 1 < vpHeight c.params →
    exec .pipelineLineBoundary s = .next { s with cam := { s.cam with
      running := some (id, n + 1), pixels := s.cam.pixels + vpWidth c.params } }) ∧
  (∀ (s : State) (id n : Nat) (c : Cmd), pipelineRuns s = true → inlineWaiting s = none → s.cam.running = some (id, n) → cmdOf s id = some c →
    c.phase = .running → vpHeight c.params ≤ n + 1 →
    let u := { s with cam := { s.cam with running := none, pixels := s.cam.pixels + vpWidth c.params } }
    exec .pipelineLineBoundary s = .next (match readRows u c (vpHeight c.params) with
      | .error e => failCmd c.id e u
      | .ok rows => match stageOutputs u c rows [0, 1, 2] with
        | .error e => failCmd c.id e u
        | .ok l => stageDone c.id l 0 { u with cam := { u.cam with passes := (u.cam.passes + 1) % 2 ^ 32 } })) ∧
  (∀ (s : State) (id n : Nat), pipelineRuns s = true → inlineWaiting s = none → s.cam.running = some (id, n) → (∀ c, cmdOf s id = some c → c.phase ≠ .running) →
    exec .pipelineLineBoundary s = .next { s with cam := { s.cam with running := none } }) ∧
  (∀ s : State, inlineWaiting s = none → s.cam.running = none → exec .pipelineLineBoundary s = .next s) ∧
  (∀ (s : State) (b : Bind) (f : Frame), inlineBind s = some b → bindOf s b.id = some b → b.out = some f →
    exec .inlineOutputsComplete s = .next (completeInline b f s))

/-- On a port that listens (enabled, CAMERA ON) and is deskewed when its rate needs it: a frame start begins a frame of
every bind of the channel, ending one that runs as for a timeout; a line whose header has an uncorrectable error is
counted and marks the running frames of its channel and data type DAMAGED; a corrected header is counted and the line
goes on. Embedded data (0x12) goes to every bind of the channel that takes it, its errors counted once
(embeddedLines), an image line to the bind of its channel and data type (imageLine); a line that no bind takes sets
unknown_dt. A frame end ends the running frames of the channel, or sets sync_err when none runs. A listening port that
is not deskewed takes no packet and sets the SoT error; a port that does not listen takes nothing. The frame-end
timeout ends a bind's running frame TRUNCATED and sets sync_err. The deskew sequence sets deskew_done of a port with
deskew 1; an SoT error sets its status bit and clears its lane's ok bit. -/
def Obligations.CameraPacketsBuildFrames : Prop :=
  (∀ (s : State) (p v n : Nat), p < 8 → listening s p = true → deskewed (camPort s p) = true →
    exec (.csiFrameStart p v n) s = .next (((bindsOn s p v).map (fun b => b.id)).foldl (startFrame p (n % 65536))
      (modCamPort p (fun x => { x with hsActive := true, lanesOk := 2 ^ laneCount x - 1 }) s))) ∧
  (∀ (s : State) (p : Nat) (l : LinePacket), p < 8 → listening s p = true → deskewed (camPort s p) = true →
    l.hdrUncorrectable = true →
    exec (.csiLinePacket p l) s = .next (damageFrames p l (modCamPort p (fun x => { x with
      hdrUncorrected := min (x.hdrUncorrected + 1) (2 ^ 32 - 1), status := x.status ||| 4 }) s))) ∧
  (∀ (s : State) (p : Nat) (l : LinePacket), p < 8 → listening s p = true → deskewed (camPort s p) = true →
    l.hdrUncorrectable = false →
    let u := if l.hdrCorrected then modCamPort p (fun x => { x with hdrCorrected := min (x.hdrCorrected + 1) (2 ^ 32 - 1) }) s else s
    exec (.csiLinePacket p l) s = .next (
      if l.dtype = 0x12 then
        match (bindsOn s p l.vc).filter (fun b => cbEmbedded b.block) with
        | [] => camStatus p 16 u
        | b :: bs => embeddedLines p l (b :: bs) u
      else match (bindsOn s p l.vc).find? (fun b => cbDtype b.block == l.dtype) with
        | none => camStatus p 16 u
        | some b => imageLine l u b)) ∧
  (∀ (s : State) (p v n : Nat) (l : LinePacket), p < 8 → (listening s p = false ∨ deskewed (camPort s p) = false) →
    let t := if listening s p then camStatus p 1 s else s
    exec (.csiFrameStart p v n) s = .next t ∧ exec (.csiLinePacket p l) s = .next t ∧ exec (.csiFrameEnd p v n) s = .next t) ∧
  (∀ (s : State) (p v n : Nat), p < 8 → listening s p = true → deskewed (camPort s p) = true →
    exec (.csiFrameEnd p v n) s = .next (
      let u := modCamPort p (fun x => { x with hsActive := false }) s
      match (bindsOn s p v).filter (fun b => b.frame.isSome) with
      | [] => camStatus p 2 u
      | b :: l => endFrames false ((b :: l).map (fun b => b.id)) u)) ∧
  (∀ (s : State) (i : Nat), i < 32 → exec (.frameEndTimeout i) s = .next (match bindOf s i with
    | none => s
    | some b => if b.frame.isSome then endFrame true b (camStatus (cbPort b.block) 2 s) else s)) ∧
  (∀ (s : State) (p : Nat), p < 8 → exec (.csiDeskew p) s = .next (if listening s p = true ∧ (camPort s p).deskew = true
    then modCamPort p (fun x => { x with deskewDone := true }) s else s)) ∧
  (∀ (s : State) (p n : Nat), p < 8 → n < 4 → exec (.sotError p n) s = .next (if listening s p = true
    then modCamPort p (fun x => { x with status := x.status ||| 1, lanesOk := putBit x.lanesOk n false }) s else s))

/-- Issued by the owning port's physical function: a ready DRONE_CONFIG without a detector image takes effect at once and
is done when it changes no audio; one that changes the audio waits for a block boundary behind the earlier ones,
deferred when the detector is in CANDIDATE; at the boundary the waiting ones that are not deferred take effect in
order, and one that was deferred says so on completion (takeEffect). A WAKE_PLAN_SET whose handles the port may use
stores its block and makes the plan ARMED or DISABLED without the peaks it had counted, ending an attempt that runs,
and the depths of the domains are chosen anew. A PREROLL_REPLAY of an allowed function and an enabled source, into a
buffer long enough, that can be staged, is done with the ms that are missing as its result once its span is captured,
and copies what it needs until then. -/
def Obligations.DroneCommandsTakeEffect : Prop :=
  (∀ (s : State) (id : Nat) (c : Cmd), ReadyAs s id 0x52 c → c.func = droneOwner s → leAt c.params 8 8 = 0 →
    audioChanging s.drone.cfg c.params = false →
    exec (.droneConfig id) s = .next (stageDone c.id [] 0 (applyConfig c s))) ∧
  (∀ (s : State) (id : Nat) (c : Cmd), ReadyAs s id 0x52 c → c.func = droneOwner s → leAt c.params 8 8 = 0 →
    audioChanging s.drone.cfg c.params = true →
    exec (.droneConfig id) s = .next (
      let late := decide (s.drone.det.state = .candidate)
      if configBefore s c then s else { s with
        hif := { s.hif with cmds := s.hif.cmds.map (fun x => if x.id = c.id then { x with phase := .running, aux := [b2n late] } else x) }
        drone := { s.drone with waitingCfg := s.drone.waitingCfg ++ [(c.id, late)] } })) ∧
  (∀ s : State, exec .droneConfigTakeEffect s = .next (takeEffect s.drone.waitingCfg.length s)) ∧
  (∀ (s : State) (id n : Nat) (c : Cmd) (l : List (Nat × Bool)), s.drone.waitingCfg = (id, false) :: l → cmdOf s id = some c →
    c.alive = true → takeEffect (n + 1) s = takeEffect n (
      let u := applyConfig c (modDrone (fun d => { d with waitingCfg := l }) s)
      if c.aux.headD 0 = 1 then stageDone id [] ((s.now - c.accepted) / 384000000 % 65536) (drnEvent 16 u) else stageDone id [] 0 u)) ∧
  (∀ (s : State) (id : Nat) (c : Cmd), ReadyAs s id 0x53 c → handleOk s c.func (planVerifier c.params) = true →
    handleOk s c.func (plPreload c.params) = true → c.func = droneOwner s →
    exec (.wakePlanSet id) s = .next (
      let n := byteAt c.params 0
      let u := if planIdle (planOf s n) then s else endAttempt n .armed s
      stageDone c.id [] 0 (settlePower none (chooseDepths
        (modDrone (fun d => { d with peakTimes := d.peakTimes.filter (fun e => e.1 != n) }) (modPlan n (fun x => { x with
          block := c.params, state := if plEnable c.params then .armed else .disabled, dropped := false }) u)))))) ∧
  (∀ (s : State) (id : Nat) (c : Cmd), ReadyAs s id 0x54 c → bit s.drone.replayFuncs c.func = true → sourceOn s c = true →
    let r := replayOf s c
    let out := if rpSource c < 16 then beamReplay s c r else micReplay c r
    replayLen c r.start ≤ leAt c.params 8 4 →
    (replayReady s c r.start = false → exec (.prerollReplay id) s = .next (openReplays s)) ∧
    (∀ l, replayReady s c r.start = true → vaStage s c.func 34 (leAt c.params 0 8) out.1 (locator 2 0 0) = .ok l →
      exec (.prerollReplay id) s = .next (stageDone c.id l (r.short + ceilDiv out.2 16)
        (if r.short + ceilDiv out.2 16 = 0 then s else drnEvent 8 s))))

/-- While AON_CLK has not failed: a frame takes the microphones' bits into the samples, delay lines, clip bits, beams and
live replays (capture) and forms the features, lets the sensors that every frame measures meet their plans, notes a
frame scored more than 8 ms late, tracks runs, score and own-voice activity, and moves the detector. At a block
boundary each enabled beam's newest 256 samples are coded and stored, and waiting replays copy them. 30 quiet frames,
or the candidate timeout, take CANDIDATE to IDLE; the hold-off's end takes HOLDOFF to IDLE and changes nothing else.
An SPI read of the vibration sensor counts the plans' peaks and triggers those whose count is met; a level sample of
an unpowered microphone triggers the level plans that it reaches; a camera frame's 16 x 12 block means replace the
block map and trigger the plans whose changed blocks suffice. A camera sample timeout, a vibration fault and a fault
of an enabled microphone set only their event bits. -/
def Obligations.DetectorAndSensorsAct : Prop :=
  (∀ (r : State) (heard : Heard) (tdm : List (List Nat)), r.clk.aonFailed = false →
    exec (.detectorFrame heard tdm) r = .next (
      let vib := tdm.map (fun f => toSigned 16 (f.getD r.drone.cfg.tdmSlot 0 % 2 ^ 16))
      let s := lateFrame heard.scoredUs (frameSensors vib (takeFeatures (capture heard.balls r)))
      let l := frameScores s heard.scores
      let ov := if s.drone.cfg.vibMode = 1 then decide (s.drone.cfg.ovLevel ≤ Config.vibEnergy vib) :: s.drone.det.ovFrames.take 4 else []
      let score := ((topScore s l).map (fun e => e.2.2)).getD 0
      let u := modDet (fun d => { d with
        runs := trackRuns s l, score := score, ovFrames := ov, lowest := min d.lowest score,
        ovLast := if ownVoice ov then nowUs s + 1 else d.ovLast }) s
      match s.drone.det.state, topScore s l with
      | .idle, some (b, c, x) =>
        if preLevel s c ≤ x ∧ s.drone.det.lowest < preLevel s c then enterCandidate b c u else u
      | .idle, none => u
      | .candidate, _ => candidateFrame l u
      | .holdoff, _ => u)) ∧
  (∀ (s : State) (us : Nat), lateFrame us s =
    if s.drone.det.image.isSome = true ∧ s.drone.cfg.detBeams ≠ 0 ∧ 8000 < us then drnEvent 128 s else s) ∧
  (∀ s : State, s.drone.det.state = .candidate →
    (30 ≤ s.drone.det.quiet → exec .detectorCandidateQuiet s = .next (leaveCandidate .idle s)) ∧
    exec .detectorCandidateTimeout s = .next (leaveCandidate .idle s)) ∧
  (∀ s : State, s.drone.det.state = .holdoff →
    exec .detectorHoldoffExpiry s = .next { s with drone := { s.drone with det := { s.drone.det with state := .idle } } }) ∧
  (∀ (r : State) (balls : List PdmEdges), r.clk.aonFailed = false →
    exec (.prerollBlockBoundary balls) r = .next (
      let s := capture balls (openReplays r)
      let u := { s with drone := { s.drone with
        nextFlags := 0
        preroll := s.drone.preroll.mapIdx (fun b p =>
          if bit s.drone.cfg.flags 0 && decide (b < s.drone.cfg.beams) && decide (0 < s.drone.cfg.prerollS) then
            storeBlock (nowUs r / 16000 - 1) s.drone.nextFlags (keptBlocks s.drone.cfg) ((s.drone.audio.getD b []).take 256).reverse p else p) } }
      { u with drone := { u.drone with replays := u.drone.replays.map (copyBlock u) } })) ∧
  (∀ (s : State) (miso : Bytes), s.clk.aonFailed = false → s.drone.cfg.vibMode = 2 →
    exec (.vibSample miso) s = .next (
      ((List.range (s.drone.cfg.spiRdLen / 2)).map (fun i => (nowUs s, toSigned 16 (
        if bit s.drone.cfg.flags 2 then byteAt miso (2 * i) * 256 + byteAt miso (2 * i + 1) else leAt miso (2 * i) 2)))).foldl
        (fun t e => (List.range 8).foldl (vibPeak e.1 e.2) t)
        { s with drone := { s.drone with spiSent := (leBytes 4 s.drone.cfg.spiCmd).reverse.take s.drone.cfg.spiCmdLen } })) ∧
  (∀ (s : State) (bits : List Bool), s.clk.aonFailed = false → s.drone.cfg.levelPeriodMs ≠ 0 →
    bit s.drone.cfg.micMask s.drone.cfg.levelMic = false →
    exec (.levelSample bits) s = .next (
      let k := if s.drone.cfg.pdmClk = 1 then 12 else 6
      let xs := ((decimated (Config.pdmDecimate k) k bits.length bits.reverse).take 2560).map (clampInt (-32768) 32767)
      sensorTrigger 3 (fun _ p => levelReaches xs (plLevel p.block)) s)) ∧
  (∀ (s : State) (f : TapFrame), s.drone.cfg.camPeriodS ≠ 0 →
    exec (.cameraMotionSample f) s = .next (sensorTrigger 2
      (fun _ p => decide (plCamBlocks p.block ≤ movedBlocks s.drone.camMap (blockMeans (lumaPlane f)) (plCamLevel p.block)))
      { s with drone := { s.drone with camMap := blockMeans (lumaPlane f) } })) ∧
  (∀ s : State, exec .vibFault s = .next (drnEvent 2 s) ∧
    exec .camSampleTimeout s = .next (if s.drone.cfg.camPeriodS = 0 then s else drnEvent 4 s)) ∧
  (∀ (s : State) (m : Nat), m < 16 → bit s.drone.cfg.micMask m = true → exec (.pdmFault m) s = .next (drnEvent 1 s))

/-- A write of DRN_PLAN_KICK by the owning port's physical function triggers the host-triggered plans whose bits are 1;
one of DRN_PLAN_ACK acknowledges the ACCEPTED plans whose bits are 1: their domains become ON targets of the owning
port and the plans return to ARMED (ackPlan). The hold expiry of an ACCEPTED plan returns it to ARMED with event bit 6
and a WAKE event of kind 6. Once a VERIFYING plan's verifier entry is loaded and its input ends in a complete block,
the run takes the input's samples from the firing beam; a score at or above the plan's verify score accepts the plan,
a lower one returns it to ARMED, counts a rejection and raises kind 4. Before that a score does nothing. A preload
starts when DDR, FLASH and a string of the plan are ON: it opens a pass at priority 7 on the preload model over all
its layers, which the plan keeps. -/
def Obligations.PlansFireAreVerifiedAndEnd : Prop :=
  (∀ (s : State) (f v : Nat), Writable s f 6 → f = droneOwner s →
    exec (.drnPlanKick f v) s = .next (sensorTrigger 4 (fun n _ => bit v n) s) ∧
    exec (.drnPlanAck f v) s = .next ((maskBits 8 v).foldl (fun t n => ackPlan f n t) s)) ∧
  (∀ (s : State) (n : Nat), n < 8 → (planOf s n).state = .accepted →
    exec (.planHoldExpiry n) s = .next (wakeEvent n 6 (drnEvent 64 (endAttempt n .armed s)))) ∧
  (∀ (s : State) (n x : Nat), n < 8 → (planOf s n).state = .verifying → verifierReady s (planOf s n) = true →
    plVerifyScore (planOf s n).block ≤ x →
    exec (.verifierScore n x) s = .next (acceptPlan n (modPlan n (fun p => { p with input := verifierInput s p }) s))) ∧
  (∀ (s : State) (n x : Nat), n < 8 → (planOf s n).state = .verifying → verifierReady s (planOf s n) = true →
    x < plVerifyScore (planOf s n).block →
    exec (.verifierScore n x) s = .next (wakeEvent n 4 (modDrone (fun d => { d with rejects := satAdd 16 d.rejects 1 })
      (endAttempt n .armed (modPlan n (fun p => { p with input := verifierInput s p }) s))))) ∧
  (∀ (s : State) (n x : Nat), n < 8 → ((planOf s n).state ≠ .verifying ∨ verifierReady s (planOf s n) = false) →
    exec (.verifierScore n x) s = .next s) ∧
  (∀ (s : State) (n d : Nat) (m : Image), n < 8 → planIdle (planOf s n) = false → (planOf s n).preload = none →
    domOn s 2 = true → domOn s 3 = true → 7 ≤ d → d ≤ 10 → bit (planDomains (planOf s n).block) d = true → domOn s d = true →
    imageInForce s (plPreload (planOf s n).block) = some m →
    exec (.preloadStart n) s = .next (modPlan n (fun x => { x with preload := some s.stream.nextPass })
      (openPass { cmd := preloadMember n, func := droneOwner s, session := preloadMember n, first := 0, last := (infoOf m).layers - 1,
                  mask := 0, look := plLook (planOf s n).block, prio := 7 }
        m (droneOwner s) (placedNow s (droneOwner s) m.handle m.version) 50000 0 0 ((infoOf m).layers - 1) false s)))

/-- A ready INSTALL_BEGIN, and a MODEL_RELEASE, that no check stops is done. An INSTALL_DATA that passes its checks, whose
block reads with its CRC-32 and fits the install buffer beside the blocks that are coming, keeps the block and is
done; its commit puts the block into the buffer of its install. An INSTALL_COMMIT of an install whose whole length is
durable, with the manifest's digest when it has an envelope, makes it committing and is done; with another digest it
fails with FIREWALL_DENIED, the install is rolled back and the manifest event bit set. An INSTALL_CANCEL makes its
install cancelling and is done. With FLASH ON and no firmware gap, a granule whose program the budget has admitted
(R130) and that the buffer holds whole is stored, in a superblock of its class, its journal record is written, naming
the superblock when it is full, and the program is free again. -/
def Obligations.InstallCommandsRun : Prop :=
  (∀ (s : State) (id : Nat) (c : Cmd), ReadyAs s id 0x60 c → beginFail s c = none →
    exec (.installBegin id) s = .next (stageDone c.id [] 0 s)) ∧
  (∀ (s : State) (id : Nat) (c : Cmd), ReadyAs s id 0x64 c → releaseFail s c = none →
    exec (.modelRelease id) s = .next (stageDone c.id [] 0 s)) ∧
  (∀ (s : State) (id : Nat) (c : Cmd) (i : Install) (bs : Bytes), ReadyAs s id 0x61 c → dataFail s c = none →
    installOf s (xferId c) = some i → vaRead s c.func c.domain (leAt c.desc 16 8) (xferLength c) (locator 0 0 16) = .ok bs →
    crc32 bs = xferCrc c → bufferUnits s + unitsComing s + newUnits i (xferOffset c) (xferLength c) ≤ 16384 →
    exec (.installData id) s = .next (stageDone c.id [] 0 (modCmd c.id (fun k => { k with params := bs }) s))) ∧
  (∀ (s : State) (c : Cmd), c.opcode = 0x61 → dataFail s c = none → commitState c s = .ok (grantPrograms
    (modInstall (xferId c) (fun i => bufferBlock { i with state := .open } (xferOffset c) c.params) s))) ∧
  (∀ (s : State) (id : Nat) (c : Cmd) (i : Install), ReadyAs s id 0x62 c → installFor s c.model (portOf c.func) = some i →
    i.len ≤ i.durableLen → (i.envelope = true → installDigest s i = i.manifest) →
    exec (.installCommit id) s = .next (stageDone c.id [] 0 (modInstall i.xfer (fun i => { i with state := .committing }) s))) ∧
  (∀ (s : State) (id : Nat) (c : Cmd) (i : Install), ReadyAs s id 0x62 c → installFor s c.model (portOf c.func) = some i →
    i.len ≤ i.durableLen → i.envelope = true → installDigest s i ≠ i.manifest →
    exec (.installCommit id) s = .next (failCmd c.id (fwDenied (locator 0 0 8))
      (rollBack i { s with sec := { s.sec with events := s.sec.events ||| 2 } }))) ∧
  (∀ (s : State) (id : Nat) (c : Cmd) (i : Install), ReadyAs s id 0x63 c → installFor s c.model (portOf c.func) = some i →
    exec (.installCancel id) s = .next (stageDone c.id [] 0 (modInstall i.xfer (fun i => { i with state := .cancelling }) s))) ∧
  (∀ (s u : State) (n j : Nat) (i : Install) (x : Super), domOn s 3 = true → fwGap s = false →
    (n, j) ∈ s.wstMore.programming → installOf s n = some i →
    granuleWhole i j = true → j ∉ i.durable → j < i.granules →
    superFor i j { s with wstMore := { s.wstMore with programming := s.wstMore.programming.filter (fun g => !(g == (n, j))) } } = (u, some x) →
    exec (.installGranuleDurable n j) s = .next (grantPrograms (
      let v := modInstall n (fun i => storeGranule i j) u
      if superFull (storeGranule i j) x then closeSupers [x] (recorded (.installExtent n j (some (x.die, x.lblock, x.cls))) v)
      else recorded (.installExtent n j none) v))) ∧
  (∀ (s : State) (n j : Nat), (domOn s 3 = false ∨ fwGap s = true ∨ (n, j) ∉ s.wstMore.programming) →
    exec (.installGranuleDurable n j) s = .next s)

/-- A write of open by an allowed physical function, with 2 to 16,384 units, while the slot is EMPTY or LOADED by its own
port and no hand-over runs, empties the inactive slot and makes it LOADING for that port, its erase running. Abort by
the loading port empties it again. The raise makes min_sec_ver the larger of itself and the running image's version.
The end of the erase clears its flag, adds its wear to the slot's blocks, and starts a compaction that was left due,
and programs that wait start; it waits while one runs. A ready FW_WRITE that passes its checks is done when its block
reads with its CRC-32; while the erase or a compaction runs, or no programming die is free, it waits (R129, R130). At
its commit the block lies in the inactive slot at its offset, the units count as received, and the slot is LOADED when
every unit has come. A ready FW_ACTIVATE of an allowed function with the slot LOADED runs: the slot is ACTIVATING and
checked, and FIRMWARE detail 1 raised; in recovery it boots the slot directly. For a command that has not failed: when
the checks pass the new image starts; when one fails, or the slot cannot be read (8), the activation fails with that
code. When the new firmware is ready the running one freezes at that time. At the take-over with a good snapshot CRC
the new image takes charge; with a bad one, or at the timeout, the frozen one resumes and the activation fails with
code 7. In both the length of the gap is recorded and what waited for its end runs. -/
def Obligations.FirmwareLoadsAndHandsOver : Prop :=
  (∀ (s : State) (f v : Nat), Writable s f 11 → mayLoad s f = true →
    (s.fwu.state = .empty ∨ (s.fwu.state = .loaded ∧ s.fwu.loader = portOf f)) → 2 ≤ bf v 46 32 → bf v 46 32 ≤ 16384 →
    s.fwu.handover = .none →
    exec (.fwuOpen f v) s = .next { s with fwu := { s.fwu with
      slots := modAt (inactive s) (fun _ => { len4k := bf v 46 32 }) s.fwu.slots, state := .loading, recv := [],
      len4k := bf v 46 32, ctrlLen := bf v 46 32, loader := portOf f, erasing := true } }) ∧
  (∀ (s : State) (f : Nat), Writable s f 11 → mayLoad s f = true → (s.fwu.state = .loading ∨ s.fwu.state = .loaded) →
    s.fwu.loader = portOf f →
    exec (.fwuAbort f) s = .next { s with fwu := { s.fwu with
      slots := modAt (inactive s) (fun _ => {}) s.fwu.slots, state := .empty, recv := [], erasing := false } }) ∧
  (∀ (s : State) (f : Nat), Writable s f 11 → isPhys f = true →
    exec (.fwuRaiseSec f) s = .next { s with fwu := { s.fwu with minSecVer := max s.fwu.minSecVer s.fwu.secVer } }) ∧
  (∀ s : State, s.fwu.erasing = true → bit s.wst.running 7 = false → exec .slotEraseDone s = .next (
    let u := wearSlot (inactive s) { s with fwu := { s.fwu with erasing := false } }
    grantPrograms (if u.wstMore.compactionDue ∧ fwWrites u = false then startCompaction u else u))) ∧
  (∀ s : State, bit s.wst.running 7 = true → exec .slotEraseDone s = .next s) ∧
  (∀ (s : State) (id : Nat) (c : Cmd) (bs : Bytes), ReadyAs s id 0x65 c → fwWriteFail s c = none →
    vaRead s c.func c.domain (leAt c.desc 16 8) (xferLength c) (locator 0 0 16) = .ok bs → crc32 bs = xferCrc c →
    exec (.fwWrite id) s = .next (if s.fwu.erasing ∨ bit s.wst.running 7 = true ∨ budgetFree s 0 = false then s
      else stageDone c.id [] 0 (modCmd c.id (fun c => { c with stages := [bs] }) s))) ∧
  (∀ (s : State) (c : Cmd), c.opcode = 0x65 → fwWriteFail s c = none → commitState c s = .ok (
    let recv := (List.range (xferLength c / 4096)).foldl (fun l i => insertN (xferOffset c / 4096 + i) l) s.fwu.recv
    let full := decide (s.fwu.len4k ≤ recv.length)
    { s with fwu := { s.fwu with
      slots := modAt (inactive s) (fun x => { x with
        complete := full, cells := cellsWrite (xferOffset c) (c.stages.headD []) x.cells }) s.fwu.slots
      recv := recv, state := if full then .loaded else .loading } })) ∧
  (∀ (s : State) (id : Nat) (c : Cmd), ReadyAs s id 0x66 c → mayLoad s c.func = true → s.fwu.state = .loaded →
    exec (.fwActivate id) s = .next (if s.fwu.recovery then recoveryBoot c s else
      modCmd c.id (fun c => { c with phase := .running })
        (fwEvent 1 0 { s with fwu := { s.fwu with state := .activating, handover := .checking c.id } }))) ∧
  (∀ (s : State) (id : Nat), s.fwu.handover = .checking id → handoverAlive s id = true → bootCheck s (inactive s) = none →
    exec (.handoverBootCheckDone none) s = .next { s with fwu := { s.fwu with handover := .starting id } }) ∧
  (∀ (s : State) (id e : Nat), s.fwu.handover = .checking id → handoverAlive s id = true → bootCheck s (inactive s) = some e →
    exec (.handoverBootCheckDone none) s = .next (activationFailed id e s)) ∧
  (∀ (s : State) (id : Nat), s.fwu.handover = .checking id → handoverAlive s id = true →
    exec (.handoverBootCheckDone (some 8)) s = .next (activationFailed id 8 s)) ∧
  (∀ (s : State) (id : Nat), s.fwu.handover = .starting id → handoverAlive s id = true →
    exec .handoverFirmwareReady s = .next { s with fwu := { s.fwu with handover := .gap id s.now } }) ∧
  (∀ (s : State) (id since : Nat), s.fwu.handover = .gap id since →
    exec (.handoverTakeover true) s =
      .next (gapEnds (takeCharge id { s with fwu := { s.fwu with gapMs := gapLength since s } })) ∧
    exec (.handoverTakeover false) s =
      .next (gapEnds (activationFailed id 7 { s with fwu := { s.fwu with gapMs := gapLength since s } })) ∧
    exec .handoverTimeout s =
      .next (gapEnds (activationFailed id 7 { s with fwu := { s.fwu with gapMs := gapLength since s } })))

/-- A debug request by a physical function of a PROVISIONED part with fewer than three failures and no check running draws
a nonce of 256 bits and waits for the response; a submission begins the check; the response time-out ends the wait.
When the check verifies, the part is UNLOCKED with the requested scope: no key slot is left, the device keys are gone,
no DDR5 copy and no migrated region is left. When it does not, the failure is counted, up to three, and its event bit
set. EXTEST erases every key slot whatever the part does. -/
def Obligations.DebugUnlockErasesItsSecrets : Prop :=
  (∀ (s : State) (f v : Nat), Writable s f 10 → isPhys f = true → s.sec.dbgFails < 3 → s.sec.dbgState ≤ 1 →
    s.sec.lifecycle = .provisioned →
    exec (.debugRequest f v) s = .next (drawn 4 { s with sec := { s.sec with
      dbgScope := dbgScopeOf s (bf v 9 8), dbgState := 1, dbgTime := s.now,
      dbgNonce := (List.range 4).map (fun i => Config.freeNat (s.free + i) % 2 ^ 64) } })) ∧
  (∀ (s : State) (f : Nat), Writable s f 10 → isPhys f = true → s.sec.dbgState = 1 →
    exec (.debugSubmit f) s = .next { s with sec := { s.sec with dbgState := 2 } }) ∧
  (∀ s : State, s.sec.dbgState = 1 → exec .debugResponseTimeout s = .next { s with sec := { s.sec with dbgState := 0 } }) ∧
  (∀ s : State, s.sec.dbgState = 2 → debugSigned s = true → Answers .debugCheckDone s (fun t =>
    t.sec.lifecycle = .unlocked ∧ t.sec.granted = s.sec.dbgScope ∧ t.sec.dbgState = 3 ∧ t.sec.slots = [] ∧
    t.sec.keysHeld = false ∧ t.stream.copies = [] ∧ t.stream.mig.slots = [] ∧ t.hif.rings = s.hif.rings ∧ t.pins = s.pins)) ∧
  (∀ s : State, s.sec.dbgState = 2 → debugSigned s = false → exec .debugCheckDone s = .next { s with sec := { s.sec with
    dbgState := 0, dbgFails := min 3 (s.sec.dbgFails + 1), events := s.sec.events ||| 4 } }) ∧
  (∀ s : State, Answers .jtagExtest s (fun t => t.sec.slots = []))

/-- Of any function: NEGOTIATE_ALGORITHMS answers version 1.2; after it GET_CERTIFICATE of slot 0 answers the chain,
CHALLENGE of slot 0 a fresh nonce and a signature over both nonces, GET_MEASUREMENTS of a block its digest and index 0
their number, and KEY_EXCHANGE of slot 0 with fewer than two sessions opens one. KEY_UPDATE advances the session's
keys, HEARTBEAT of a held session is answered. The end or the loss of a held session takes it away, and leaves the
confidential mode that it carried. -/
def Obligations.MailboxRequestsAreAnswered : Prop :=
  (∀ (s : State) (f : Nat), f < 16 →
    exec (.negotiateAlgorithms f) s = .next (modConf f (fun c => { c with negotiated := true, answer := [0x12] }) s)) ∧
  (∀ (s : State) (f : Nat) (n : Bytes), f < 16 → (confOf s f).negotiated = true →
    exec (.getCertificate f 0) s = .next (modConf f (fun c => { c with answer := Config.certChain }) s) ∧
    exec (.challenge f 0 n) s = .next (drawn 96 (modConf f (fun c => { c with
      answer := drawBytes 32 s ++ Config.pssSign Config.identityPrivate (n ++ drawBytes 32 s) (drawBytes 64 (drawn 32 s)) }) s)) ∧
    exec (.getMeasurements f 0) s = .next (modConf f (fun c => { c with answer := [6] }) s) ∧
    (∀ i, 1 ≤ i → i ≤ 6 →
      exec (.getMeasurements f i) s = .next (modConf f (fun c => { c with answer := measurement s f i }) s))) ∧
  (∀ (s : State) (f : Nat) (e : Bytes), f < 16 → (confOf s f).negotiated = true → (confOf s f).sessions.length < 2 →
    exec (.keyExchange f 0 e) s = .next (drawn 48 (modConf f (fun c => { c with
      sessions := c.sessions ++ [{ id := c.nextSession, secret := Config.hkdfExpand (Config.ecdhShared (drawBytes 48 s) e) (ascii "exp master"), keyGen := 0 }],
      nextSession := c.nextSession + 1, answer := Config.ecdhPublic (drawBytes 48 s) }) s))) ∧
  (∀ (s : State) (f n : Nat), f < 16 → exec (.keyUpdate f n) s = .next (modConf f (fun c => { c with
    sessions := c.sessions.map (fun x => if x.id = n then { x with keyGen := x.keyGen + 1 } else x) }) s)) ∧
  (∀ (s : State) (f n : Nat), f < 16 → sessionHeld (confOf s f) n = true →
    exec (.heartbeat f n) s = .next (modConf f (fun c => { c with answer := [] }) s) ∧
    exec (.endSession f n) s = .next (dispatch (settleStream (dropSession f n s))) ∧
    exec (.sessionLoss f n) s = .next (dispatch (settleStream (dropSession f n s))))

/-- CONF_SET in a held session, of a function with every ring DISABLED, no KV session and no camera bind, and with valid
fields, makes the function confidential: its window, host base and tag base are the request's, its four keys are
derived from the session's secret, the entry counters of its rings and its unit counter start at 0, and the answer is
0; refused, it changes the answer to 1 and nothing else. CONF_EXIT in a held session of a confidential function leaves
the mode (leaveConf: its rings go to ERROR, its commands are killed, its sessions closed, its pool zeroed, its keys
erased) and answers 0. After leaveConf the function is not confidential and holds no key. -/
def Obligations.ConfidentialModeIsEnteredAndLeft : Prop :=
  (∀ (s : State) (f n : Nat) (r : ConfRequest) (x : Spdm), f < 16 →
    (confOf s f).sessions.find? (fun x => x.id == n) = some x → confRefused s f r = false →
    exec (.confSet f n r) s = .next (modConf f (fun c => { c with
        on := true, session := n, winVa := r.winVa, winSize := r.winSize, hostBase := r.hostBase,
        tagBase := r.tagBase, keyH2d := Config.hkdfExpand x.secret (ascii "zh h2d data"),
        keyD2h := Config.hkdfExpand x.secret (ascii "zh d2h data"), keyRingIn := Config.hkdfExpand x.secret (ascii "zh h2d ring"),
        keyRingOut := Config.hkdfExpand x.secret (ascii "zh d2h ring"), units := 0, answer := [0] })
      ((ringsOf s f).foldl (fun t r => modRing r (fun g => { g with sealN := 0 }) t) s))) ∧
  (∀ (s : State) (f n : Nat) (r : ConfRequest) (x : Spdm), f < 16 →
    (confOf s f).sessions.find? (fun x => x.id == n) = some x → confRefused s f r = true →
    exec (.confSet f n r) s = .next (modConf f (fun c => { c with answer := [1] }) s)) ∧
  (∀ (s : State) (f n : Nat), f < 16 → sessionHeld (confOf s f) n = true → (confOf s f).on = true →
    exec (.confExit f n) s = .next (modConf f (fun c => { c with answer := [0] }) (dispatch (settleStream (leaveConf f s))))) ∧
  (∀ (s : State) (f : Nat), (confOf s f).on = true → Shaped s → f < 16 →
    (confOf (leaveConf f s) f).on = false ∧ (confOf (leaveConf f s) f).keyH2d = [] ∧ (confOf (leaveConf f s) f).keyD2h = [] ∧
    (confOf (leaveConf f s) f).keyRingIn = [] ∧ (confOf (leaveConf f s) f).keyRingOut = [])

/-- Of a ready command: a CONFIGURE that passes its checks runs with its frets forming, foreign hot entries evicted, and
is done at once when no foreign slice runs on them, or when the last ends (PARTITION_FORMED). RUN in TESTED with
golden inputs makes the stream RUNNING with no verdict counted, and drives SAFE_ERR_N high and SAFE_HB low. STOP in
RUNNING ends the RUN with OK, lowers both pins, makes the stream TESTED and completes after the RUN. CLEAR in LATCHED
makes it CONFIGURED without references. A GOLDEN_SET in a state that takes it whose inputs read is done; a SELFTEST in
CONFIGURED whose tests pass keeps the references and is done, and one that fails completes with SAFETY_FAULT and the
bit of the first failing test. -/
def Obligations.SafetyCommandsMoveTheStream : Prop :=
  (∀ (s : State) (id : Nat) (c : Cmd), ReadyAs s id 0x70 c → byteAt c.params 0 = 1 → configureFail s c = none →
    exec (.safetyConfigure id) s = .next (
      let fs := partitionFrets s (cfString c.params) (cfFrets c.params)
      let u := modCmd c.id (fun c => { c with phase := .running }) (evictForeign c.func (cfString c.params)
        { s with saf := { s.saf with forming := fs, formCmd := some c.id } })
      if foreignRuns u fs then u else stageDone c.id [] 0 u)) ∧
  (∀ (s : State) (id : Nat), s.saf.formCmd = some id → foreignRuns s s.saf.forming = false →
    exec .partitionFormed s = .next (stageDone id [] 0 s)) ∧
  (∀ (s : State) (id : Nat) (c : Cmd), ReadyAs s id 0x70 c → byteAt c.params 0 = 2 → s.saf.state = .tested → s.saf.goldens ≠ [] →
    Answers (.safetyRun id) s (fun t => t.saf.state = .running ∧ t.pins.safeErrN = true ∧ t.pins.safeHb = false ∧
      t.saf.nextSeq = 0 ∧ t.saf.consec = 0 ∧ t.saf.runCmd = some c.id ∧
      t = modCmd c.id (fun c => { c with phase := .running }) { s with
        saf := { s.saf with state := .running, runCmd := some c.id, nextSeq := 0, consec := 0, frames := [], missed := false }
        pins := { s.pins with safeErrN := true, safeHb := false } })) ∧
  (∀ (s : State) (id r : Nat) (c : Cmd), ReadyAs s id 0x70 c → byteAt c.params 0 = 3 → s.saf.state = .running →
    s.saf.runCmd = some r → Answers (.safetyStop id) s (fun t =>
      t.saf.state = .tested ∧ t.pins.safeErrN = false ∧ t.pins.safeHb = false ∧ t.saf.runCmd = none ∧
      t = modCmd c.id (fun c => { c with aux := [r] }) (stageDone c.id [] 0 (stopStream (stageDone r [] 0 s))))) ∧
  (∀ (s : State) (id : Nat) (c : Cmd), ReadyAs s id 0x70 c → byteAt c.params 0 = 4 → s.saf.state = .latched →
    exec (.safetyClear id) s = .next (stageDone c.id [] 0 (dropFrames { s with saf := { s.saf with
      state := .configured, refsA := [], refsB := [] } }))) ∧
  (∀ (s : State) (id : Nat) (c : Cmd) (l : List (Bytes × Bytes)), ReadyAs s id 0x71 c → safIdle s = true →
    (inlineBind s).isSome = true → readGoldens s c (List.range (byteAt c.params 0)) = .ok l →
    exec (.safetyGoldenSet id) s = .next (stageDone c.id [] 0 s)) ∧
  (∀ (s : State) (id : Nat) (c : Cmd) (r : SelftestRun), ReadyAs s id 0x72 c → s.saf.state = .configured →
    (selftestFailure s r = none → exec (.safetySelftest id r) s = .next (stageDone c.id [] 0
      { s with saf := { s.saf with refsA := r.firstA, refsB := r.firstB } })) ∧
    (∀ b, selftestFailure s r = some b →
      exec (.safetySelftest id r) s = .next (failCmd c.id { status := 0x50, result := 2 ^ b } s)))

/-- A job that ends stores its vector in its frame and, on Channel A, frees its fret; the last of the four decides the
frame's verdict once the frame has ended. The deadline of an ended frame decides its verdict; the absence of a frame,
while the sequencer runs, publishes an invalid one and marks the next frame. A lockstep mismatch, a double-bit error
of the island's SRAM and a parity error of the Keaster array latch a RUNNING stream with cause 2, 3 and 4: the stream
is LATCHED, both safety pins are low, and the RUN command fails with SAFETY_FAULT. In another state they change
nothing. -/
def Obligations.SafetyEventsDecideAndLatch : Prop :=
  (∀ (s : State) (j : SafetyJob) (v : List Nat) (i : Nat) (f : SafFrame), jobFrame s j = some i → s.saf.frames[i]? = some f →
    exec (.safetyJobEnd j v) s = .next (
      let t := modFrameAt i (setJob j v) s
      let u := if j.keaster then t else { t with saf := { t.saf with
        jobs := t.saf.jobs.filter (fun x => !(x.frame == f.frameNo && x.golden == j.golden)) } }
      settleDispatch (if allEnded (setJob j v f) && !f.decided then decideFrame i u else pruneFrames u))) ∧
  (∀ (s : State) (i : Nat), s.saf.frames.findIdx? (fun f => f.ended && !f.decided) = some i →
    exec .frameDeadlineExpiry s = .next (decideFrame i s)) ∧
  (∀ s : State, sequencerRuns s = true → Answers .absentFrameTimeout s (fun t => t.saf.missed = true ∧
    t = (let u := publish { frameNo := 0, endNs := nowNs s, golden := s.saf.nextSeq % max 1 s.saf.goldens.length } false s
         { u with saf := { u.saf with missed := true } }))) ∧
  (∀ (s : State) (p a : Nat), p < 2 → a < 0x800000 →
    exec (.lockstepMismatch p) s = .next (latch 2 s) ∧ exec (.islandSramDoubleError a) s = .next (latch 3 s) ∧
    exec .keasterParityError s = .next (latch 4 s)) ∧
  (∀ (s : State) (k : Nat), s.saf.state = .running → (latch k s).saf.state = .latched ∧ (latch k s).saf.cause = k ∧
    (latch k s).pins.safeHb = false ∧ (latch k s).pins.safeErrN = false) ∧
  (∀ (s : State) (k : Nat), s.saf.state ≠ .running → latch k s = s)

/-- What COMMAND_COMPLETE changes for a command that still passes its checks: a POWER_HINT is recorded when its function
holds fewer than 8; PREFIX_ATTACH leaves every layer fill of its session at 64 tokens per block hit; PREFIX_DROP
removes exactly the function's entries that it names (all with a count of 0); CAMERA_BIND adds a bind under the lowest
free ID, which is its result, and CAMERA_UNBIND removes its bind; MODEL_PLACE puts its placement in force while its
image version still is; INSTALL_BEGIN adds an open install of its handle, port and length; INSTALL_COMMIT ends the
install and puts its image in force as the only one of the handle; INSTALL_CANCEL ends it; MODEL_RELEASE releases the
version it bound; CONFIGURE makes the stream CONFIGURED with the frets that were forming as its partition and no
references; GOLDEN_SET holds the inputs, drops the references and leaves TESTED; SELFTEST makes a CONFIGURED stream
TESTED. -/
def Obligations.CommitsChangeTheirUnits : Prop :=
  (∀ (s : State) (c : Cmd), c.opcode = 0x32 → hintsHeld s c.func < 8 →
    let h : PowerHint := { id := s.hints.next, func := c.func, start := c.accepted, leadUs := leAt c.desc 16 4,
                           durationUs := leAt c.desc 20 4, powerDw := leAt c.desc 24 2, strings := bf (byteAt c.desc 26) 3 0 }
    commitState c s = .ok { s with hints := { s.hints with next := h.id + 1, list := s.hints.list ++ [h] } }) ∧
  (∀ (s : State) (c : Cmd) (x : Session) (l : List (Nat × PrefixEntry)) (m : Bool), c.opcode = 0x43 →
    sessionOf s c.func c.session = some x → attachChain s c x (leAt c.params 16 2) 0 0 = .ok (l, m) →
    ∃ t, commitState c s = .ok t ∧ ∀ y ∈ t.atn.sessions, y.func = c.func → y.sid = c.session → ∀ v ∈ y.fills, v = 64 * l.length) ∧
  (∀ (s : State) (c : Cmd), c.opcode = 0x45 → ∃ t, commitState c s = .ok t ∧ t.atn.prefixes =
    s.atn.prefixes.filter (fun e => !(e.publisher == c.func && (leAt c.params 8 2 == 0 || c.aux.contains e.hash)))) ∧
  (∀ (s : State) (c : Cmd) (p : Bytes), c.opcode = 0x50 → bindCheck s c = .ok p → ∃ t, commitState c s = .ok t ∧
    t.cam.binds = s.cam.binds ++ [{ id := freeBind s, func := c.func, block := c.params, pipe := p }]) ∧
  (∀ (s : State) (c : Cmd) (b : Bind), c.opcode = 0x51 → bindOf s (byteAt c.params 0) = some b →
    ∃ t, commitState c s = .ok t ∧ bindOf t b.id = none) ∧
  (∀ (s : State) (c : Cmd) (m : Image), c.opcode = 0x23 → imageVersion s c.model c.bound.version = some m →
    m.inForce = true → m.released = false →
    ∃ t, commitState c s = .ok t ∧ ∃ p ∈ t.stream.placements, p.func = c.func ∧ p.handle = c.model ∧ p.version = c.bound.version ∧
      p.entries = (List.range (c.params.length / 8)).map (fun i => entryOf (slice c.params (8 * i) 8))) ∧
  (∀ (s : State) (c : Cmd) (r : Request), c.opcode = 0x60 → beginFail s c = none → beginRequest s c = some r →
    ∃ t, commitState c s = .ok t ∧ ∃ i ∈ t.wst.installs, i.xfer = s.wst.nextXfer ∧ i.handle = c.model ∧ i.port = portOf c.func ∧
      i.state = .open ∧ i.len = leAt c.params 0 8 ∧ i.manifest = r.manifest ∧ i.durable = [] ∧ i.buffer = []) ∧
  (∀ (s : State) (c : Cmd) (i : Install), c.opcode = 0x62 → installFor s c.model (portOf c.func) = some i →
    ∃ t, commitState c s = .ok t ∧ (∀ k ∈ t.wst.installs, k.xfer ≠ i.xfer) ∧
      (∃ m ∈ t.wst.images, m.id = i.image ∧ m.handle = i.handle ∧ m.inForce = true ∧ m.len = i.len ∧ m.cells = i.cells) ∧
      (∀ m ∈ t.wst.images, m.handle = i.handle → m.inForce = true → m.id = i.image)) ∧
  (∀ (s : State) (c : Cmd) (i : Install), c.opcode = 0x63 → installFor s c.model (portOf c.func) = some i →
    ∃ t, commitState c s = .ok t ∧ ∀ k ∈ t.wst.installs, k.xfer ≠ i.xfer) ∧
  (∀ (s : State) (c : Cmd) (m : Image), c.opcode = 0x64 → releaseFail s c = none → imageVersion s c.model c.bound.version = some m →
    ∃ t, commitState c s = .ok t ∧ ∀ x ∈ t.wst.images, x.id = m.id → x.released = true) ∧
  (∀ (s : State) (c : Cmd), c.opcode = 0x70 → byteAt c.params 0 = 1 → safIdle s = true → ∃ t, commitState c s = .ok t ∧
    t.saf.state = .configured ∧ t.saf.partition = s.saf.forming ∧ t.saf.config = c.params ∧ t.saf.refsA = [] ∧ t.saf.refsB = []) ∧
  (∀ (s : State) (c : Cmd) (l : List (Bytes × Bytes)), c.opcode = 0x71 → safIdle s = true →
    readGoldens s c (List.range (byteAt c.params 0)) = .ok l → ∃ t, commitState c s = .ok t ∧
    t.saf.goldens = l ∧ t.saf.refsA = [] ∧ t.saf.refsB = [] ∧ t.saf.state ≠ .tested) ∧
  (∀ (s : State) (c : Cmd), c.opcode = 0x72 → s.saf.state = .configured →
    commitState c s = .ok { s with saf := { s.saf with state := .tested } })

/-- A ready DOMAIN_SET that its checks pass puts its targets in force with new depths, settles the domains under wake
source 3 and runs until they have settled; one that a check stops fails so. A power-good of an enabled rail is
recorded and lets the second enables of DDR and FLASH follow; one that is missing during a start is reported for each
domain that waits for it, and no domain leaves its phase. A bring-up goes from the regulator phase (every power-good
in) to the clock phase, to the memory phase with its clocks running, to the logic phase once every prerequisite is ON,
to ON (unless a hot start holds it), with the boot, the mount or the failed restore that this brings. A LEAVING domain
whose work is done starts down (DDR and FLASH first suspend the installs, FLASH then writes its deltas or unmounts),
in register-save retention when its depth says so; it then loses its content, its clocks and, when it goes OFF, the
rails that no other domain uses. An idle AUTO domain that nothing wants starts to leave. The register's invalidate
forgets the training and chooses depths anew. The fret tests of a start quarantine those that failed and record full
function. -/
def Obligations.DomainsComeUpAndGoDown : Prop :=
  (∀ (s : State) (id : Nat) (c : Cmd), ReadyAs s id 0x67 c → domainSetFail s c = none →
    let u := settlePower (some (3, c.func)) (hostChanged (changedTargets s (portOf c.func) c.params)
      (chooseDepths (applyTargets (portOf c.func) c.params s)))
    exec (.domainSet id) s = .next (settleDispatch (settleDomainSets
      (modCmd c.id (fun c' => { c' with phase := .running, aux := [changedStates s u (portOf c.func)] }) u)))) ∧
  (∀ (s : State) (id : Nat) (c : Cmd) (e : Fail), ReadyAs s id 0x67 c → domainSetFail s c = some e →
    exec (.domainSet id) s = .next (failCmd c.id e s)) ∧
  (∀ (s : State) (r : Nat), r < 11 → bit s.pwr.railEnable r = true → Answers (.powerGood r) s (fun t =>
    let good := putBit s.pwr.railGood r true
    let follow (d : Nat) : Nat := if inPhase s d .regulator then
      ofBits ((enablesOf d).filter (fun e => e == (enablesOf d).headD 0 || bit good ((enablesOf d).headD 0))) else 0
    t = { s with pwr := { s.pwr with
      railGood := good, railEnable := s.pwr.railEnable ||| follow 2 ||| follow 3, pgMissing := t.pwr.pgMissing } })) ∧
  (∀ (s : State) (r : Nat), r < 11 → bit s.pwr.railEnable r = false → exec (.powerGood r) s = .next s) ∧
  (∀ (s : State) (r : Nat), r < 11 → bit s.pwr.railEnable r = true → bit s.pwr.railGood r = false → s.clk.started = true →
    s.clk.stage < 6 →
    let l := ofBits ((List.range 12).filter (fun d => inPhase s d .regulator && (enablesOf d).contains r))
    exec (.powerGoodTimeout r) s = .next { s with pwr := { s.pwr with pgMissing := s.pwr.pgMissing ||| l } }) ∧
  (∀ (s : State) (d : Nat), d < 13 → inPhase s d .regulator = true → railsGood s d = true →
    exec (.powerSwitchReady d) s = .next (modDomain d (fun x => { x with phase := .clock }) s)) ∧
  (∀ (s : State) (d : Nat), d < 13 → inPhase s d .clock = true →
    exec (.clockLock d) s = .next (startClocks d (modDomain d (fun x => { x with phase := .memory }) s))) ∧
  (∀ (s : State) (d : Nat) (m : MemoryPhase), d < 13 → inPhase s d .memory = true → (requires d).all (domOn s) = true →
    let u := lostBanks d m.lostBanks s
    exec (.memoryPhaseDone d m) s = .next (modDomain d (fun x => { x with phase := .logic })
      (if d = 2 ∧ (domainOf u 2).fromRet = false then trainDdr m u else u))) ∧
  (∀ (s : State) (d : Nat) (b : Bool), d < 13 → inPhase s d .logic = true → s.clk.hot = false →
    let r := (domainOf s d).fromRet && (domainOf s d).regSave && !b
    exec (.logicPhaseDone d b) s = .next (settleDispatch (verifiersSwitch (settlePower none
      (modDomain d (fun x => { x with state := .on, kept := 0, regSave := false })
        (domainUp d (if r then restoreFailed d s else s))))))) ∧
  (∀ (s : State) (d : Nat) (b : Bool), d < 13 → inPhase s d .logic = true → s.clk.hot = true →
    exec (.logicPhaseDone d b) s = .next s) ∧
  (∀ (s : State) (d : Nat), d < 13 → domSt s d = .leaving → (domainOf s d).goingDown = false → workDone s d = true →
    fwGap s = false → (lowState s d = 1 → savesRegisters s d = true → saveAreaBusy s = false) →
    let u := if d = 2 ∨ d = 3 then suspendInstalls s else s
    exec (.domainPowerDownStart d) s = .next (modDomain d (fun x => { x with
      goingDown := true, toRet := decide (lowState s d = 1), regSave := decide (lowState s d = 1) && savesRegisters s d,
      kept := if lowState s d = 1 then (combined s d).mask else 0 })
      (if d = 3 then (if lowState s d = 1 then flushDeltas u else unmountStore u) else u))) ∧
  (∀ (s : State) (d : Nat), d < 13 → domSt s d = .leaving → (domainOf s d).goingDown = true →
    let r := (domainOf s d).toRet
    let u := stopClocks d (modDomain d (fun x => { x with state := if x.toRet then .retention else .off, goingDown := false }) (domainDown d s))
    exec (.powerDownDone d) s = .next (settleAll none (if r then u else dropRails d u))) ∧
  (∀ (s : State) (d : Nat), d < 13 → domOn s d = true → isAuto s d = true → transitionsRun s = true → lowState s d < 2 →
    (domainOf s d).idleSince ≠ 0 → (heldDomains s (wantedDomains s)).contains d = false →
    exec (.autoIdleExpiry d) s = .next (settleAll none (startLeaving d s))) ∧
  (∀ (s : State) (f : Nat), Writable s f 7 → isPhys f = true →
    exec (.ddrTrainInvalidate f) s = .next (chooseDepths { s with pwr := { s.pwr with trainValid := false } })) ∧
  (∀ (s : State) (l : List Nat), s.clk.started = true → s.clk.stage < 6 → 3 ≤ s.clk.stage → s.wstMore.mounted = true →
    (List.range 13).all (fun d => (combined s d).code != 1 || domOn s d) = true →
    let u := (l.filter (fun i => decide (i < 48))).foldl (fun t i => quarantineFret i t) s
    exec (.startFretTestDone l) s = .next (settleDispatch { u with clk := { u.clk with
      stage := 6, fullUs := ((s.now - s.clk.startAt) / 384000) % 2 ^ 32 } }))

/-- A CAPO tick leaves every string a bubble fraction at or above both the cap's and the dip's, a cap fraction of at most
14/16, the window's estimate in front of the kept ones, and memory, commands, pins and registers alone. The program
budget never exceeds its register and is 0 in a dip or hold-off, and what waits is then granted its programs. The
AVSBus check scales the estimate, never below 1. A droop crossing stretches by 25 or 100 percent and counts its level;
a recovery clears every detector; a detector stuck at its second level, or one that fails its self-check, quarantines
its string. A temperature sample is kept with its peak and enters the levels that it reaches. The thermal cap is 15 W
under CRITICAL, falls by 5 W under THROTTLE to 15 W, and rises by 5 W after. A level ends with its event, TRIP never.
A warning crossing of a dip's rail begins a dip with a program budget of 0; other rails are only counted. The last
recovery begins the hold-off, whose end takes the clamp away and lets strings climb. A reset crossing quarantines the
string of rails 0 to 3, holds the island (6), holds power-on (7), faults FLASH (11, 12), resets a port (13 to 16),
ends camera frames (17), else resets the device with cause 3. -/
def Obligations.PowerThermalAndSupplyAct : Prop :=
  (∀ (s : State) (l : List StringPower) (o : Nat), Answers (.capoTick l o) s (fun t =>
    t.capo.bCap ≤ bubbleMax ∧ (∀ x ∈ t.capo.strings, t.capo.bCap ≤ x.bubble ∧ s.capo.bClamp ≤ x.bubble) ∧
    (∃ p i, t.capo.powers = (p, effCap s * 100, i) :: s.capo.powers.take 999) ∧
    t = { s with capo := t.capo, capoMore := { s.capoMore with events := t.capoMore.events }, free := t.free })) ∧
  (∀ s : State, Answers .pgmBudgetTick s (fun t => t.wst.pgmDiesEff ≤ s.wst.pgmDies ∧
    ((s.capo.dip || s.capo.holdoff) = true → t.wst.pgmDiesEff = 0) ∧
    t = grantPrograms { s with wst := { s.wst with pgmDiesEff := programBudget s } } ∧
    t.wst.journal = s.wst.journal ∧ t.wst.images = s.wst.images ∧ t = { s with wst := t.wst, wstMore := t.wstMore })) ∧
  (∀ (s : State) (m : Nat), s.capo.powers.length ≠ 0 → sumBy (fun x => x.2.2) s.capo.powers ≠ 0 →
    Answers (.avsCurrentCheck m) s (fun t => 1000 ≤ t.capoMore.scale ∧ t = { s with capoMore := { s.capoMore with
      scale := max 1000 (ceilDiv (m * s.capo.powers.length * 1000) (sumBy (fun x => x.2.2) s.capo.powers)) } })) ∧
  (∀ (s : State) (j d : Nat), j < 4 → d < 8 → exec (.droopCrossing j d 1) s = .next (modCapoString j (fun x => { x with
    detectors := modAt d (max 1) x.detectors, stretch := max x.stretch 25, l1 := wrapAdd 32 x.l1 1 }) s)) ∧
  (∀ (s : State) (j d : Nat), j < 4 → d < 8 → exec (.droopCrossing j d 2) s = .next (modCapoString j (fun x => { x with
    detectors := modAt d (max 2) x.detectors, stretch := max x.stretch 100, l2 := wrapAdd 32 x.l2 1 }) s)) ∧
  (∀ (s : State) (j : Nat), j < 4 → exec (.droopRecovery j) s =
    .next (modCapoString j (fun x => { x with detectors := List.replicate 8 0, stretch := 0 }) s)) ∧
  (∀ (s : State) (j d : Nat), j < 4 → d < 8 → (s.capo.strings.getD j {}).detectors.getD d 0 = 2 →
    exec (.droopStuck j d) s = .next (settleDispatch (quarantineString j 2 (capoEvent 32 s)))) ∧
  (∀ (s : State) (j d : Nat), j < 4 → d < 8 →
    exec (.droopSelfCheck [(j, d)]) s = .next (settleDispatch (quarantineString j 2 (capoEvent 32 s)))) ∧
  (∀ (s : State) (l : List (Nat × Nat)), exec (.droopSelfCheck l) s = .next (settleDispatch
    ((l.filter (fun x => decide (x.1 < 4 ∧ x.2 < 8))).foldl (fun t x => stuckDetector x.1 t) s))) ∧
  (∀ (s : State) (n : Nat) (v : Int), n < 63 →
    let read (x : Sensor) : Sensor := { read := true, temp := v, peak := if x.read then max x.peak v else v }
    let u : State := { s with
      capoMore := { s.capoMore with sensors := modAt n read s.capoMore.sensors }
      wstMore := { s.wstMore with minuteTemp := if 55 ≤ n then some (max v (s.wstMore.minuteTemp.getD v)) else s.wstMore.minuteTemp } }
    exec (.tempSample n v) s = .next ((levelsOf n).foldl (enterLevel n v) (holdStart u))) ∧
  (∀ s : State, criticalLevel s = true → exec .thermalCapStep s = .next (settleHints { s with capo := { s.capo with thermalCap := some 150 } })) ∧
  (∀ (s : State), criticalLevel s = false → bit s.capoMore.levels 2 = true → exec .thermalCapStep s =
    .next (settleHints { s with capo := { s.capo with thermalCap := some (max 150 (s.capo.thermalCap.getD s.capo.cap - 50)) } })) ∧
  (∀ (s : State) (n : Nat), criticalLevel s = false → bit s.capoMore.levels 2 = false → s.capo.thermalCap = some n →
    exec .thermalCapStep s = .next (settleHints { s with capo := { s.capo with thermalCap := if s.capo.cap ≤ n + 50 then none else some (n + 50) } })) ∧
  (∀ (s : State) (l : Nat), bit s.capoMore.levels l = true → l ≠ 4 → 1 ≤ l → l ≤ 10 →
    (levelSensors l).all (fun n => decide (sensorTemp s n + 50 ≤ levelTemp s l)) = true →
    Answers (.thermalLevelExit l) s (fun t => t.capoMore.levels = putBit s.capoMore.levels l false ∧ t.capo = s.capo)) ∧
  (∀ (s : State), exec (.thermalLevelExit 4) s = .next s) ∧
  (∀ (s : State) (r mv : Nat), r < 18 → dipRail r = true → Answers (.supplyWarningCrossing r mv) s (fun t =>
    t.capo.dip = true ∧ t.capo.holdoff = false ∧ t.capo.bClamp = dipClamp ∧ t.wst.pgmDiesEff = 0)) ∧
  (∀ (s : State) (r mv : Nat), r < 18 → dipRail r = false → exec (.supplyWarningCrossing r mv) s = .next (modRail r (fun x =>
    { x with below := true, resetHit := x.below && x.resetHit, now := mv, minMv := min x.minMv mv, warnings := satAdd 16 x.warnings 1 }) s)) ∧
  (∀ (s : State) (r mv m b : Nat), r < 18 → (railOf s r).below = true → dipRail r = true → s.capo.dip = true →
    railsBelow (modRail r (fun x => { x with below := false, resetHit := false, now := mv, minMv := min x.minMv m }) s) = false →
    Answers (.supplyRecovered r mv m b) s (fun t => t.capo.holdoff = true ∧ t.capo.dip = false ∧ t.capo.bClamp = s.capo.bClamp ∧
      t.capoMore.dipRail = r ∧ t.capoMore.dipDur = min 255 b ∧ t.capoMore.dipMin = m % 2 ^ 16)) ∧
  (∀ (s : State), s.capo.holdoff = true → Answers .dipHoldoffExpiry s (fun t => t.capo.holdoff = false ∧ t.capo.bClamp = 0 ∧
    (∀ x ∈ t.capo.strings, x.climbing = true) ∧ t.wstMore.suspended = [] ∧
    (s.capo.dip = true → t.wst.pgmDiesEff = 0))) ∧
  (∀ (s : State), s.capo.dip = false → exec .stormCapEnd s = .next (settleHints { s with capo := { s.capo with stormCap := false } })) ∧
  (∀ (s : State) (r mv : Nat), r < 18 →
    let u := modRail r (fun x => { x with resetHit := true, now := mv, minMv := min x.minMv mv, resets := satAdd 16 x.resets 1 }) s
    exec (.supplyResetCrossing r mv) s = .next (match r with
      | 0 | 1 | 2 | 3 => settleDispatch (quarantineString r 5 u)
      | 6 => islandReset u
      | 7 => holdPowerOn u
      | 11 | 12 => dispatch (settleStream (flashFault u))
      | 13 | 14 => portReset 0 u
      | 15 | 16 => portReset 1 u
      | 17 => endFrames true (u.cam.binds.map (fun b => b.id)) u
      | _ => warmReset 3 r u))

/-- A running clock off in two windows in a row is faulty, and so is every running clock of a PLL that loses lock: a
string's fault quarantines the string unless the root is lost too. AON_CLK off in two windows in a row fails with a
detector event and time runs on; RTC_CLK so makes the off time unknown. Valid supplies start the part cold with cause
1 and PERST_N as the hosts drive it; RESET_N, the keyed register write of an allowed port and the watchdog outside a
firmware gap restart a supplied part warm with causes 2, 4 and 5. These four keep the lowest security version and the
waiting commands. PERST_N holds its port in reset once; its release puts the port's targets ON and comes up under wake
source 4, as a hot reset does at once. A function-level reset takes the function, and with a physical function all
eight of its port; virtual functions that a VF change removes are reset. An engine reset that is allowed holds its
target, else it only sets the refusal; its end zeroes the target and returns it to service or quarantines it. -/
def Obligations.ClocksFailAndResetsStart : Prop :=
  (∀ (s : State) (l : List Nat),
    let now := ofBits (l.filter (fun k => decide (k < 14) && bit s.clk.running k))
    exec (.clockMonitorWindow l) s = .next (clockFaults ((maskBits 14 now).filter (bit s.clk.offWindows))
      { s with clk := { s.clk with offWindows := now } })) ∧
  (∀ (s : State) (k : Nat), k ≤ 3 → bit s.clk.running k = true → clockFaults [k] s = settleDispatch (quarantineString k 3 (noteFault k s))) ∧
  (∀ s : State, bit s.clk.running 9 = true → exec (.pllLossOfLock .ddr) s = .next (settleDispatch (loseDdr (noteFault 9 s)))) ∧
  (∀ (s : State) (p : Pll), exec (.pllLossOfLock p) s = .next (clockFaults ((pllClocks p).filter (bit s.clk.running)) s)) ∧
  (∀ s : State, s.clk.offAon = true → s.clk.aonFailed = false → Answers (.aonRtcMonitorWindow true false) s (fun t =>
    t.clk.aonFailed = true ∧ bit t.drone.events 0 = true ∧ t.now = s.now ∧ t.mem = s.mem)) ∧
  (∀ s : State, s.clk.offRtc = true → s.clk.rtcFailed = false → Answers (.aonRtcMonitorWindow false true) s (fun t =>
    t.clk.rtcFailed = true ∧ t.clk.offUnknown = true ∧ t.clk.aonFailed = s.clk.aonFailed ∧ t.mem = s.mem)) ∧
  (∀ s : State, exec (.aonRtcMonitorWindow false false) s = .next { s with clk := { s.clk with offAon := false, offRtc := false } }) ∧
  (∀ s : State, s.pins.supplied = false → Answers .suppliesValid s (fun t =>
    s.fwu.minSecVer ≤ t.fwu.minSecVer ∧ t.pending = s.pending ∧
    (let u := afterPowerOn s
     t = startDevice true { u with
       rst := { u.rst with cause := 1 }, port := keptPorts s, clk := { u.clk with running := 2 ^ 22 + 2 ^ 23 },
       pins := { u.pins with supplied := true } }))) ∧
  (∀ s : State, s.pins.supplied = true → Answers .resetNAssert s (fun t =>
    s.fwu.minSecVer ≤ t.fwu.minSecVer ∧ t.pending = s.pending ∧ t = startDevice false (afterWarm 2 0 s))) ∧
  (∀ (s : State) (f v : Nat), Writable s f 12 → isPhys f = true → bit v 0 = true → bf v 15 8 = 0x5A →
    bit s.rst.warmPorts (portOf f) = true → s.pins.supplied = true → Answers (.rstCtrlWarm f v) s (fun t =>
    s.fwu.minSecVer ≤ t.fwu.minSecVer ∧ t.pending = s.pending ∧ t = startDevice false (afterWarm 4 0 s))) ∧
  (∀ s : State, s.pins.supplied = true → fwGap s = false → Answers .pegWatchdogExpiry s (fun t =>
    s.fwu.minSecVer ≤ t.fwu.minSecVer ∧ t.pending = s.pending ∧ t = startDevice false (afterWarm 5 0 s))) ∧
  (∀ (s : State) (p : Nat), p < 2 → (portSt s p).perst = false → exec (.perstNAssert p) s =
    .next (settleAll none (modPort p (fun x => { x with perst := true }) (resetPort p s)))) ∧
  (∀ (s : State) (p : Nat), p < 2 → (portSt s p).perst = true → exec (.perstNRelease p) s =
    .next (settleAll (some (4, p)) (chooseDepths (targetsOnAll p (modPort p (fun x => { x with perst := false, wakeN := false }) s))))) ∧
  (∀ (s : State) (p : Nat), p < 2 → (portSt s p).perst = false → exec (.hotReset p) s =
    .next (settleAll (some (4, p)) (chooseDepths (targetsOnAll p (resetPort p s))))) ∧
  (∀ (s : State) (f : Nat), f < 16 → funcExists s f = true → exec (.functionLevelReset f) s =
    .next (settleAll none (resetFunctions (portOf f) 1 (if isPhys f then funcsOf (portOf f) else [f]) s))) ∧
  (∀ (s : State) (p n : Nat) (e : Bool), p < 2 →
    let u := modPort p (fun x => { x with vfEnable := e, numVfs := min 7 n }) s
    let gone := (funcsOf p).filter (fun f => funcExists s f && !funcExists u f)
    exec (.vfEnableChange p e n) s = .next (if gone = [] then u else settleAll none (resetFunctions p gone.length gone u))) ∧
  (∀ (s : State) (f v : Nat), Writable s f 12 → isPhys f = true → bit v 30 = false → bit v 9 = true →
    engineRefused s (bit v 8) (bf v 7 0) = false → exec (.rstEngineStart f v) s =
    .next (settleDispatch (startEngine { isString := bit v 8, index := bf v 7 0 } { s with rst := { s.rst with refused := false } }))) ∧
  (∀ (s : State) (f v : Nat), Writable s f 12 → isPhys f = true → bit v 30 = false → bit v 9 = true →
    engineRefused s (bit v 8) (bf v 7 0) = true → exec (.rstEngineStart f v) s =
    .next { s with rst := { s.rst with refused := true } }) ∧
  (∀ (s : State) (e : EngineReset), s.rst.engine = some e → e.isString = false → exec (.engineResetDone true) s = .next (settleDispatch
    (modFret e.index (fun x => { x with held := false, quarantined := false })
      (zeroFret e.index { s with rst := { s.rst with engine := none } })))) ∧
  (∀ (s : State) (e : EngineReset) (b : Bool), s.rst.engine = some e → e.isString = true →
    let u := modString e.index (fun x => { x with held := false, quarantined := !b })
      (zeroEngine e { s with rst := { s.rst with engine := none } })
    exec (.engineResetDone b) s = .next (settleDispatch ((engineFrets e).foldl (fun t i => modFret i (fun x =>
      { x with held := false, quarantined := x.quarantined && !b }) t) u)))

/-- A link of a port out of reset whose HOST domain is ON comes up at a speed from 1 to 5 and a width of 1, 2 or 4, and
the port takes configuration requests; recoveries are counted, and L1 is entered when ASPM allows it and left with its
wake. A correctable error, an unsupported request and a poisoned write only log in AER (and count the first); a failed
request of a ring takes the ring to ERROR with 2 for a fetch and 3 for a write; a failed read of a command's data
fails the command INTERNAL with the code; a fatal error logs and resets the port. A function that loses Bus Master
Enable, and one that enters D3hot, stops its requests. Unmasking a vector sends its pending message when nothing else
holds it, and else only clears the mask. A configuration request of a port that is not ready changes nothing; of a
function that does not exist it logs an unsupported request; else its write acts. A PTM dialogue counts towards valid
or against it, and a read of the stamp latches offset, rate and validity. A window read changes nothing when it
translates and records its fault otherwise; a window write stores its bytes, is dropped in the KV aperture, and a
closed window changes nothing. -/
def Obligations.LinksErrorsAndTheHostWindowAct : Prop :=
  (∀ (s : State) (p v w : Nat), p < 2 → (portSt s p).perst = false → domOn s (5 + p) = true → 1 ≤ v → v ≤ 5 →
    (w = 1 ∨ w = 2 ∨ w = 4) →
    let u := modPort p (fun x => { x with linkUp := true, l1 := false, speed := v, width := w, cfgReady := true }) s
    exec (.linkUp p v w) s = .next { u with clk := { u.clk with running := putBit u.clk.running (11 + p) true } }) ∧
  (∀ (s : State) (p : Nat), p < 2 → (portSt s p).linkUp = true → exec (.linkRecovery p) s =
    .next (modPort p (fun x => { x with l1 := false, recoveries := satAdd 16 x.recoveries 1 }) s)) ∧
  (∀ (s : State) (p : Nat), p < 2 → (portSt s p).linkUp = true → (portSt s p).aspmL1 = true → exec (.aspmL1Request p) s =
    .next (modPort p (fun x => { x with l1 := true }) s)) ∧
  (∀ (s : State) (p : Nat), p < 2 → (portSt s p).l1 = true → exec (.linkL1Exit p) s =
    .next (settleDispatch (settlePower none (wakeHost (modPort p (fun x => { x with l1 := false }) s) p)))) ∧
  (∀ (s : State) (p : Nat), p < 2 → exec (.pcieCorrectableError p) s =
    .next (modPort p (fun x => { x with aer := setAt 0 1 x.aer }) (modPort p (fun x => { x with corrected := wrapAdd 32 x.corrected 1 }) s))) ∧
  (∀ (s : State) (p : Nat), p < 2 → exec (.unsupportedRequest p) s = .next (modPort p (fun x => { x with aer := setAt 1 1 x.aer }) s)) ∧
  (∀ (s : State) (f b o : Nat), f < 16 → exec (.poisonedWrite f b o) s =
    .next (modPort (portOf f) (fun x => { x with aer := setAt 2 1 x.aer }) s)) ∧
  (∀ (s : State) (r f k : Nat), 1 ≤ k → k ≤ 4 → ringOwner s r = some f → ((ringOf s r).state = .active ∨ (ringOf s r).state = .draining) →
    (ringOf s r).typ ≠ 1 →
    let err := if (ringOf s r).typ = 0 then 2 else 3
    exec (.completionError (.ring r) k) s = .next (postBoth 0x0060 err 0 r
      (modRing r (fun g => { g with state := .error, err := err }) (logAer (portOf f) 2 s)))) ∧
  (∀ (s : State) (r f k : Nat), 1 ≤ k → k ≤ 4 → ringOwner s r = some f → (ringOf s r).typ = 1 →
    exec (.completionError (.ring r) k) s = .next (ringError r 3 (logAer (portOf f) 2 s))) ∧
  (∀ (s : State) (id k : Nat) (c : Cmd), 1 ≤ k → k ≤ 4 → cmdOf s id = some c → (c.phase = .ready ∨ c.phase = .running) →
    exec (.completionError (.command id) k) s = .next (settleDispatch
      (failCmd id { status := 0x7F, result := 6 * 2 ^ 28 + k } (logAer (portOf c.func) 2 s)))) ∧
  (∀ (s : State) (p : Nat), p < 2 → exec (.pcieFatalError p) s = .next (portReset p (logAer p 3 s))) ∧
  (∀ (s : State) (f : Nat), f < 16 → (funcCfg s f).busMaster = true → exec (.busMasterDisable f) s =
    .next (settleDispatch (stopRequests [f] (modFuncCfg f (fun x => { x with busMaster := false }) s)))) ∧
  (∀ (s : State) (f : Nat), f < 16 → (funcCfg s f).d3hot = false → exec (.d3hotEntry f) s =
    .next (settleDispatch (stopRequests (if isPhys f then funcsOf (portOf f) else [f]) (modFuncCfg f (fun x => { x with d3hot := true }) s)))) ∧
  (∀ (s : State) (f v : Nat), f < 16 → v < vectorCount f → (vectorOf s f v).pending = true → (funcCfg s f).msixMask = false →
    (funcCfg s f).msixEn = true → canMaster s f = true → Answers (.msixUnmask f v) s (fun t =>
    t.irq.sent = { func := f, vector := v, addr := (vectorOf s f v).addr, data := (vectorOf s f v).data } :: s.irq.sent ∧
    (vectorOf t f v).masked = false ∧ (vectorOf t f v).pending = false ∧ t = { s with irq := t.irq })) ∧
  (∀ (s : State) (f v : Nat), f < 16 → v < vectorCount f → (vectorOf s f v).pending = false → Answers (.msixUnmask f v) s (fun t =>
    t.irq.sent = s.irq.sent ∧ (vectorOf t f v).masked = false ∧ (vectorOf t f v).pending = false ∧ t = { s with irq := t.irq })) ∧
  (∀ (s : State) (f : Nat) (w : CfgWrite), f < 16 → (portSt s (portOf f)).cfgReady = false →
    exec (.configurationRequest f w) s = .next s) ∧
  (∀ (s : State) (f : Nat) (w : CfgWrite), f < 16 → (portSt s (portOf f)).cfgReady = true → funcExists s f = false →
    exec (.configurationRequest f w) s = .next (modPort (portOf f) (fun x => { x with aer := setAt 1 1 x.aer }) s)) ∧
  (∀ (s : State) (f : Nat) (w : CfgWrite), f < 16 → (portSt s (portOf f)).cfgReady = true → funcExists s f = true →
    exec (.configurationRequest f w) s = .next (settleDispatch (configWrite f w s))) ∧
  (∀ (s : State) (p : Nat), p < 2 → (portSt s p).ptmEnable = true → exec (.ptmDialogue p none) s = .next (modPort p (fun x =>
    { x with ptmFails := min 2 (x.ptmFails + 1), ptmOk := if x.ptmFails = 0 ∧ x.ptmOk = 2 then 2 else 0 }) s)) ∧
  (∀ (s : State) (p : Nat) (h : Int), p < 2 → s.port.ports.length = 2 → (portSt s p).ptmEnable = true → Answers (.ptmDialogue p (some h)) s (fun t =>
    (portSt t p).ptmH = h ∧ (portSt t p).ptmD = nowNs s ∧ (portSt t p).ptmOk = min 2 ((portSt s p).ptmOk + 1) ∧ (portSt t p).ptmFails = 0 ∧
    t = { s with port := t.port, free := s.free + 1 })) ∧
  (∀ (s : State) (f : Nat), f < 16 → exec (.hifPtmStampRead f) s = .next (modPort (portOf f) (fun x =>
    { x with latchOffset := x.ptmH - x.ptmD, latchRate := x.ptmRate, latchValid := x.ptmEnable && decide (x.ptmOk = 2), latched := 3 }) s)) ∧
  (∀ (s : State) (f o n : Nat) (b : Bytes), f < 16 → windowOpen s f = true → inBar4 s f o n = true →
    vaRead s f f (windowVa s f o) n 0 = .ok b → exec (.bar4WindowRead f o n) s = .next s) ∧
  (∀ (s : State) (f o n : Nat) (e : Fail), f < 16 → windowOpen s f = true → inBar4 s f o n = true →
    vaRead s f f (windowVa s f o) n 0 = .error e → exec (.bar4WindowRead f o n) s = .next (windowFailed f (windowVa s f o) false e s)) ∧
  (∀ (s : State) (f o : Nat) (b : Bytes) (l : List Seg), f < 16 → windowOpen s f = true → inBar4 s f o b.length = true →
    inAperture (windowVa s f o) = false → vaStage s f f (windowVa s f o) b 0 = .ok l →
    exec (.bar4WindowWrite f o b) s = .next (commitSegs l s)) ∧
  (∀ (s : State) (f o : Nat) (b : Bytes), f < 16 → (windowOpen s f = false ∨ inBar4 s f o b.length = false ∨ inAperture (windowVa s f o) = true) →
    exec (.bar4WindowWrite f o b) s = .next s)

/-- Every register write of a function answers and changes no host memory, no accepted command, no safety pin, no session,
no power domain's state and no interrupt message but one that an unmasking sends; outside WST_PGM_BUDGET and the two
registers of the migration cache it changes no device memory and no block of the weight store, and at these it only
zeroes device memory and changes no block's wear or retirement. An access that is not 4 or 8 bytes, naturally aligned,
changes nothing. A write of a physical function to a block that is served and unguarded does what the block's
registers say; to a block that is not served, or is guarded, it changes nothing; a virtual function reaches no block
of the physical functions. BOW_SLICE takes values from 50 to 2,000 and is unchanged by others; SAF_CTRL takes its
fields while it is unlocked (a safety function up to 15) and nothing once it is locked; a write of ones to CAPO_EVENTS
clears the bits, in either width at its low half; PEG_CLK_FAULT clears its bits by an 8-byte write and is unchanged by
a 4-byte one. -/
def Obligations.RegisterWritesObeyTheirAccess : Prop :=
  (∀ (s : State) (f o w v : Nat), f < 16 → ¬(o / 8 * 8 = 0x30050 ∨ o / 8 * 8 = 0x40108 ∨ o / 8 * 8 = 0x40110) →
    Answers (.registerWrite f o w v) s (fun t => t.mem = s.mem ∧ t.hif.cmds = s.hif.cmds ∧ t.pins = s.pins ∧ t.atn.sessions = s.atn.sessions ∧ t.wst.blocks = s.wst.blocks ∧
    t.pwr.domains = s.pwr.domains ∧ (t.irq.sent = s.irq.sent ∨ ∃ m, t.irq.sent = m :: s.irq.sent))) ∧
  (∀ (s : State) (f o w v : Nat), f < 16 → (o / 8 * 8 = 0x30050 ∨ o / 8 * 8 = 0x40108 ∨ o / 8 * 8 = 0x40110) →
    Answers (.registerWrite f o w v) s (fun t => t.mem.hostA = s.mem.hostA ∧ t.mem.hostB = s.mem.hostB ∧
    t.mem.dev.Sublist s.mem.dev ∧ t.hif.cmds = s.hif.cmds ∧ t.pins = s.pins ∧ t.atn.sessions = s.atn.sessions ∧
    t.pwr.domains = s.pwr.domains ∧ (t.irq.sent = s.irq.sent ∨ ∃ m, t.irq.sent = m :: s.irq.sent) ∧
    ∀ k, (blockOf t k).pe = (blockOf s k).pe ∧ ((blockOf s k).state = 8 → (blockOf t k).state = 8))) ∧
  (∀ (s : State) (f o w v : Nat), f < 16 → (w ≠ 4 ∧ w ≠ 8 ∨ o % w ≠ 0) → exec (.registerWrite f o w v) s = .next s) ∧
  (∀ (s : State) (f b o w v : Nat), isPhys f = true → Writable s f b → b ≤ 12 → o < 0x10000 → (w = 4 ∨ w = 8) → o % w = 0 →
    exec (.registerWrite f (0x10000 * (b + 1) + o) w v) s = .next (blockWrite f b
      { reg := 0x10000 * (b + 1) + o / 8 * 8, wide := w == 8, high := o % 8 == 4, value := v % 2 ^ (8 * w) } s)) ∧
  (∀ (s : State) (f b o w v : Nat), f < 16 → isPhys f = true → b ≤ 12 → o < 0x10000 → (regServed s f b = false ∨ regGuarded s f b = true) →
    exec (.registerWrite f (0x10000 * (b + 1) + o) w v) s = .next s) ∧
  (∀ (s : State) (f o w v : Nat), f < 16 → isPhys f = false → 0x10000 ≤ o → exec (.registerWrite f o w v) s = .next s) ∧
  (∀ (s : State) (f w v : Nat), isPhys f = true → Writable s f 0 → (w = 4 ∨ w = 8) →
    exec (.registerWrite f 0x10008 w v) s = .next (if 50 ≤ bf v 15 0 ∧ bf v 15 0 ≤ 2000
      then { s with bow := { s.bow with sliceUs := bf v 15 0 } } else s)) ∧
  (∀ (s : State) (f w v : Nat), isPhys f = true → Writable s f 9 → (w = 4 ∨ w = 8) →
    exec (.registerWrite f 0xA0008 w v) s = .next (if s.saf.lock then s else { s with saf := { s.saf with
      lock := bit v 16, enable := bit v 8, safetyFunc := if bf v 7 0 ≤ 15 then bf v 7 0 else s.saf.safetyFunc } })) ∧
  (∀ (s : State) (f w v : Nat), isPhys f = true → Writable s f 8 → (w = 4 ∨ w = 8) →
    exec (.registerWrite f 0x900A0 w v) s = .next { s with capoMore := { s.capoMore with events := clearBits s.capoMore.events (bf v 5 0) } }) ∧
  (∀ (s : State) (f v : Nat), isPhys f = true → Writable s f 7 →
    exec (.registerWrite f 0x80208 4 v) s = .next s ∧
    exec (.registerWrite f 0x80208 8 v) s = .next { s with clk := { s.clk with fault := clearBits s.clk.fault (bf v 24 0) } })
end

