-- ==== Sys2Proof/Laws/Memory.lean ====
section
/-! SUPPORT. Laws/Memory.lean: the laws of the sparse tables and of the three memories: reads after writes, and that every
write keeps the canonical form. -/

set_option Elab.async false

namespace Sys2Proof.Laws
open Sys2Proof Sys2Proof.Machine

variable {α : Type}

/-! ## Reading a table -/

theorem smGet_nil (d : α) (k : Nat) : smGet d [] k = d := rfl

theorem smGet_below {d : α} {m : SMap α} {lo k : Nat} (h : smRising lo m = true) (hk : k < lo) : smGet d m k = d := by
  induction m generalizing lo with
  | nil => rfl
  | cons p m ih =>
    obtain ⟨j, v⟩ := p
    simp only [smRising, Bool.and_eq_true, decide_eq_true_eq] at h
    rw [smGet, if_neg (by omega)]
    exact ih h.2 (by omega)

theorem smGet_put (d v : α) (k j : Nat) (m : SMap α) : smGet d (smPut k v m) j = if j = k then v else smGet d m j := by
  induction m with
  | nil => simp only [smPut, smGet]; split <;> split <;> simp_all
  | cons p m ih =>
    obtain ⟨i, w⟩ := p
    simp only [smPut]
    split
    · simp only [smGet, ih]; split <;> split <;> simp_all <;> omega
    · split <;> simp only [smGet]
      · rename_i e; subst e
        by_cases hj : i = j
        · simp [hj]
        · simp [hj, Ne.symm hj]
      · by_cases hk : k = j
        · simp [hk]
        · simp [hk, Ne.symm hk]

theorem smGet_del {d : α} {m : SMap α} {lo : Nat} (h : smRising lo m = true) (k j : Nat) :
    smGet d (smDel k m) j = if j = k then d else smGet d m j := by
  induction m generalizing lo with
  | nil => simp [smDel, smGet]
  | cons p m ih =>
    obtain ⟨i, w⟩ := p
    simp only [smRising, Bool.and_eq_true, decide_eq_true_eq] at h
    simp only [smDel]
    split
    · rename_i e; subst e
      split
      · rename_i e; subst e; exact smGet_below h.2 (by omega)
      · rw [smGet, if_neg (by omega)]
    · simp only [smGet, ih h.2]; split <;> split <;> simp_all <;> omega

theorem smRising_mono {m : SMap α} {lo lo' : Nat} (h : smRising lo m = true) (hl : lo' ≤ lo) : smRising lo' m = true := by
  cases m with
  | nil => rfl
  | cons p m =>
    simp only [smRising, Bool.and_eq_true, decide_eq_true_eq] at h ⊢
    exact ⟨by omega, h.2⟩

theorem smRising_put {m : SMap α} {lo k : Nat} (v : α) (h : smRising lo m = true) (hk : lo ≤ k) :
    smRising lo (smPut k v m) = true := by
  induction m generalizing lo with
  | nil => simp [smPut, smRising, hk]
  | cons p m ih =>
    obtain ⟨i, w⟩ := p
    simp only [smRising, Bool.and_eq_true, decide_eq_true_eq] at h
    simp only [smPut]
    split
    · simp only [smRising, Bool.and_eq_true, decide_eq_true_eq]; exact ⟨h.1, ih h.2 (by omega)⟩
    · split
      · rename_i e; subst e; simp only [smRising, Bool.and_eq_true, decide_eq_true_eq]; exact ⟨hk, h.2⟩
      · simp only [smRising, Bool.and_eq_true, decide_eq_true_eq]; exact ⟨hk, by omega, h.2⟩

theorem smRising_del {m : SMap α} {lo : Nat} (k : Nat) (h : smRising lo m = true) : smRising lo (smDel k m) = true := by
  induction m generalizing lo with
  | nil => rfl
  | cons p m ih =>
    obtain ⟨i, w⟩ := p
    simp only [smRising, Bool.and_eq_true, decide_eq_true_eq] at h
    simp only [smDel]
    split
    · exact smRising_mono h.2 (by omega)
    · simp only [smRising, Bool.and_eq_true, decide_eq_true_eq]; exact ⟨h.1, ih h.2⟩

theorem all_put {p : Nat × α → Bool} {m : SMap α} {k : Nat} {v : α} (h : m.all p = true) (hv : p (k, v) = true) :
    (smPut k v m).all p = true := by
  induction m with
  | nil => simp [smPut, hv]
  | cons q m ih =>
    obtain ⟨i, w⟩ := q
    simp only [List.all_cons, Bool.and_eq_true] at h
    simp only [smPut]
    split
    · simp only [List.all_cons, Bool.and_eq_true]; exact ⟨h.1, ih h.2⟩
    · split <;> simp only [List.all_cons, Bool.and_eq_true]
      · exact ⟨hv, h.2⟩
      · exact ⟨hv, h.1, h.2⟩

theorem all_del {p : Nat × α → Bool} {m : SMap α} (k : Nat) (h : m.all p = true) : (smDel k m).all p = true := by
  induction m with
  | nil => rfl
  | cons q m ih =>
    obtain ⟨i, w⟩ := q
    simp only [List.all_cons, Bool.and_eq_true] at h
    simp only [smDel]
    split
    · exact h.2
    · simp only [List.all_cons, Bool.and_eq_true]; exact ⟨h.1, ih h.2⟩

variable [DecidableEq α]

/-- Setting a key keeps the canonical form. -/
theorem smWf_set {d v : α} {k : Nat} {m : SMap α} (h : smWf d m = true) : smWf d (smSet d k v m) = true := by
  simp only [smWf, Bool.and_eq_true] at h ⊢
  unfold smSet
  split
  · exact ⟨smRising_del k h.1, all_del k h.2⟩
  · rename_i e; exact ⟨smRising_put v h.1 (Nat.zero_le k), all_put h.2 (by simpa using e)⟩

/-- A key read after a key is set. -/
theorem smGet_set {d v : α} {k : Nat} {m : SMap α} (h : smWf d m = true) (j : Nat) :
    smGet d (smSet d k v m) j = if j = k then v else smGet d m j := by
  simp only [smWf, Bool.and_eq_true] at h
  unfold smSet
  split
  · rename_i e; rw [smGet_del h.1, e]
  · exact smGet_put d v k j m

theorem smWf_filter {d : α} {m : SMap α} (p : Nat × α → Bool) (h : smWf d m = true) : smWf d (m.filter p) = true := by
  simp only [smWf, Bool.and_eq_true] at h ⊢
  constructor
  · have rising : ∀ lo : Nat, smRising lo m = true → smRising lo (m.filter p) = true := by
      have := h.2
      clear h this
      induction m with
      | nil => intro lo hl; exact hl
      | cons q m ih =>
        obtain ⟨i, w⟩ := q
        intro lo hl
        simp only [smRising, Bool.and_eq_true, decide_eq_true_eq] at hl
        simp only [List.filter_cons]
        split
        · simp only [smRising, Bool.and_eq_true, decide_eq_true_eq]; exact ⟨hl.1, ih _ hl.2⟩
        · exact smRising_mono (ih _ hl.2) (by omega)
    exact rising 0 h.1
  · simp only [List.all_eq_true, List.mem_filter] at h ⊢
    exact fun x hx => h.2 x hx.1

/-! ## Bytes -/

theorem cellsWf_set {a : Nat} {v : Byte} {m : List Host.Cell} (h : cellsWf m = true) : cellsWf (cellSet a v m) = true :=
  smWf_set h

theorem cellGet_set {a : Nat} {v : Byte} {m : List Host.Cell} (h : cellsWf m = true) (b : Nat) :
    cellGet (cellSet a v m) b = if b = a then v else cellGet m b := smGet_set h b

theorem cellsWf_write {a : Nat} {bs : Bytes} {m : List Host.Cell} (h : cellsWf m = true) :
    cellsWf (cellsWrite a bs m) = true := by
  induction bs generalizing a m with
  | nil => exact h
  | cons b bs ih => exact ih (cellsWf_set h)

/-- A byte outside the written range is unchanged. -/
theorem cellGet_write_out {a b : Nat} {bs : Bytes} {m : List Host.Cell} (h : cellsWf m = true)
    (hb : b < a ∨ a + bs.length ≤ b) : cellGet (cellsWrite a bs m) b = cellGet m b := by
  induction bs generalizing a m with
  | nil => rfl
  | cons x bs ih =>
    simp only [List.length_cons] at hb
    rw [cellsWrite, ih (cellsWf_set h) (by omega), cellGet_set h, if_neg (by omega)]

/-- A byte inside the written range is the one written. -/
theorem cellGet_write_in {a i : Nat} {bs : Bytes} {m : List Host.Cell} (h : cellsWf m = true) (hi : i < bs.length) :
    cellGet (cellsWrite a bs m) (a + i) = bs[i] := by
  induction bs generalizing a i m with
  | nil => simp at hi
  | cons x bs ih =>
    rw [cellsWrite]
    cases i with
    | zero =>
      rw [cellGet_write_out (cellsWf_set h) (by omega), cellGet_set h]; simp
    | succ i =>
      have := ih (a := a + 1) (i := i) (m := cellSet a x m) (cellsWf_set h) (by simpa using hi)
      rw [show a + (i + 1) = a + 1 + i by omega, this]; rfl

/-- Bytes written and then read. -/
theorem cellsRead_write {a : Nat} {bs : Bytes} {m : List Host.Cell} (h : cellsWf m = true) :
    cellsRead (cellsWrite a bs m) a bs.length = bs := by
  unfold cellsRead
  refine List.ext_getElem (by simp) fun i h1 h2 => ?_
  simp only [List.getElem_map, List.getElem_range]
  exact cellGet_write_in h h2

theorem cellsWf_zero {a n : Nat} {m : List Host.Cell} (h : cellsWf m = true) : cellsWf (cellsZero a n m) = true :=
  smWf_filter _ h

/-! ## The three memories -/

theorem memOf_with (m : Mem) (sp sq : Space) (f : List Host.Cell → List Host.Cell) :
    memOf (memWith m sp f) sq = if sq = sp then f (memOf m sp) else memOf m sq := by
  cases sp <;> cases sq <;> rfl

theorem Mem.wf_iff (m : Mem) : m.wf = true ↔ ∀ sp, cellsWf (memOf m sp) = true := by
  simp only [Machine.Mem.wf, Bool.and_eq_true]
  constructor
  · rintro ⟨⟨a, b⟩, c⟩ sp; cases sp
    · exact a
    · exact b
    · exact c
  · intro h; exact ⟨⟨h .hostA, h .hostB⟩, h .dev⟩

theorem Mem.wf_with {m : Mem} {sp : Space} {f : List Host.Cell → List Host.Cell} (h : m.wf = true)
    (hf : ∀ l, cellsWf l = true → cellsWf (f l) = true) : (memWith m sp f).wf = true := by
  rw [Mem.wf_iff] at h ⊢
  intro sq
  rw [memOf_with]
  split
  · exact hf _ (h sp)
  · exact h sq

theorem writeBytes_wf {sp : Space} {a : Nat} {bs : Bytes} {s : State} (h : s.mem.wf = true) :
    (writeBytes sp a bs s).mem.wf = true := Mem.wf_with h fun _ => cellsWf_write

theorem zeroDev_wf {a n : Nat} {s : State} (h : s.mem.wf = true) : (zeroDev a n s).mem.wf = true :=
  Mem.wf_with h fun _ => cellsWf_zero

/-- Bytes written to a space and then read from it. -/
theorem readBytes_write {sp : Space} {a : Nat} {bs : Bytes} {s : State} (h : s.mem.wf = true) :
    readBytes (writeBytes sp a bs s) sp a bs.length = bs := by
  unfold readBytes writeBytes
  rw [memOf_with, if_pos rfl]
  exact cellsRead_write ((Mem.wf_iff _).1 h sp)

/-- A byte outside what is written, or of another space, is unchanged. -/
theorem readByte_write_out {sp sq : Space} {a b : Nat} {bs : Bytes} {s : State} (h : s.mem.wf = true)
    (hb : sq ≠ sp ∨ b < a ∨ a + bs.length ≤ b) : readByte (writeBytes sp a bs s) sq b = readByte s sq b := by
  unfold readByte writeBytes
  rw [memOf_with]
  split
  · rename_i e; subst e
    exact cellGet_write_out ((Mem.wf_iff _).1 h sq) (hb.resolve_left (fun n => n rfl))
  · rfl

end Sys2Proof.Laws
end

