-- ==== Sys2Proof/Laws/Kept.lean ====
section
/-! SUPPORT. Laws/Kept.lean: what every operation of the block keeps, as one preorder on states, and how it composes.
The files Laws/Kept*.lean prove it once of each shared operation and of each meaning. -/

set_option Elab.async false

namespace Sys2Proof.Laws
open Sys2Proof Sys2Proof.Machine

theorem modAt_length {α : Type} (i : Nat) (f : α → α) (l : List α) : (modAt i f l).length = l.length := by
  induction l generalizing i with
  | nil => simp only [modAt]
  | cons x l ih => cases i with
    | zero => simp only [modAt, List.length_cons]
    | succ n => simp only [modAt, List.length_cons, ih]

theorem setAt_length {α : Type} (i : Nat) (v : α) (l : List α) : (setAt i v l).length = l.length := List.length_set

/-- The lengths of the fixed lists that a state holds. -/
def lengths (hif : Hif) (mmu : List Mmu) (atn : Atn) (bow : Bow) (wst : WstMore) (sec : Sec) (fwu : Fwu) (rst : Rst)
    (drone : Drone) (cam : Cam) (pwr : Pwr) (port : Ports) (capo : Capo) (more : CapoMore) (saf : SafMore) : List Nat :=
  [hif.funcs.length, mmu.length, atn.groups.length, atn.keys.length, atn.hits.length, atn.misses.length,
    atn.evictions.length, bow.frets.length, bow.strings.length, bow.prop.length, bow.pins.length, bow.quotas.length,
    bow.vport.length, bow.vfunc.length, wst.bstateSel.length, sec.conf.length, sec.wcopyBase.length, sec.wcopySize.length,
    fwu.slots.length, fwu.installSel.length, rst.portCount.length, rst.flr.length, drone.plans.length,
    drone.preroll.length, cam.ports.length, pwr.domains.length, port.ports.length, port.funcs.length,
    capo.strings.length, capo.tempSel.length, capo.supplySel.length, more.sensors.length, more.rails.length,
    saf.fwSel.length, saf.diagSel.length]

/-- The units stay when the lengths do. -/
theorem shaped_of_lengths {s t : State} (h : lengths t.hif t.mmu t.atn t.bow t.wstMore t.sec t.fwu t.rst t.drone t.cam t.pwr t.port t.capo t.capoMore t.safMore =
    lengths s.hif s.mmu s.atn s.bow s.wstMore s.sec s.fwu s.rst s.drone s.cam s.pwr s.port s.capo s.capoMore s.safMore) (w : Shaped s) : Shaped t := by
  simp only [lengths, List.cons.injEq, and_true] at h
  obtain ⟨h1, h2, h3, h4, h5, h6, h7, h8, h9, h10, h11, h12, h13, h14, h15, h16, h17, h18, h19, h20, h21, h22, h23, h24, h25, h26, h27, h28, h29, h30, h31, h32, h33, h34, h35⟩ := h
  exact ⟨h1.trans w.functions, h2.trans w.mmus, h3.trans w.groups, h4.trans w.keys, h5.trans w.hits, h6.trans w.misses, h7.trans w.evictions, h8.trans w.frets, h9.trans w.strings, h10.trans w.proposals, h11.trans w.hotPins, h12.trans w.quotas, h13.trans w.vport, h14.trans w.vfunc, h15.trans w.bstateSel, h16.trans w.conf, h17.trans w.wcopyBase, h18.trans w.wcopySize, h19.trans w.slots, h20.trans w.installSel, h21.trans w.portCount, h22.trans w.flr, h23.trans w.plans, h24.trans w.preroll, h25.trans w.cameras, h26.trans w.domains, h27.trans w.ports, h28.trans w.funcCfgs, h29.trans w.capoStrings, h30.trans w.tempSel, h31.trans w.supplySel, h32.trans w.sensors, h33.trans w.rails, h34.trans w.fwSel, h35.trans w.diagSel⟩

/-- What a change of state keeps: the queue, the part's identity, the canonical form of the memories, the rule of the
safety pins, the lowest firmware security version (never lowered), and device time (unless it restarts at 0). -/
structure Kept (s t : State) : Prop where
  pending : t.pending = s.pending
  variant : t.ident.variant = s.ident.variant
  stepping : t.ident.stepping = s.ident.stepping
  serial : t.ident.serial = s.ident.serial
  mem : s.mem.wf = true → t.mem.wf = true
  pins : PinsRule s → PinsRule t
  secVer : s.fwu.minSecVer ≤ t.fwu.minSecVer
  time : t.now = s.now ∨ t.now = 0
  shape : Shaped s → Shaped t

theorem Kept.refl (s : State) : Kept s s := ⟨rfl, rfl, rfl, rfl, id, id, Nat.le_refl _, .inl rfl, id⟩

theorem Kept.trans {s t u : State} (h : Kept s t) (k : Kept t u) : Kept s u :=
  ⟨k.pending.trans h.pending, k.variant.trans h.variant, k.stepping.trans h.stepping, k.serial.trans h.serial,
    fun w => k.mem (h.mem w), fun w => k.pins (h.pins w), Nat.le_trans h.secVer k.secVer,
    k.time.elim (fun e => h.time.elim (fun d => .inl (e.trans d)) (fun d => .inr (e.trans d))) .inr,
    fun w => k.shape (h.shape w)⟩

/-- A change that touches none of the fields that `Kept` speaks of. -/
theorem Kept.lit {s t : State} (h1 : t.pending = s.pending) (h2 : t.ident = s.ident) (h3 : t.mem = s.mem)
    (h4 : t.pins = s.pins) (h5 : t.saf.state = s.saf.state) (h6 : t.fwu.minSecVer = s.fwu.minSecVer)
    (h7 : t.now = s.now)
    (h8 : lengths t.hif t.mmu t.atn t.bow t.wstMore t.sec t.fwu t.rst t.drone t.cam t.pwr t.port t.capo t.capoMore t.safMore =
      lengths s.hif s.mmu s.atn s.bow s.wstMore s.sec s.fwu s.rst s.drone s.cam s.pwr s.port s.capo s.capoMore s.safMore) : Kept s t :=
  ⟨h1, by rw [h2], by rw [h2], by rw [h2], by rw [h3]; exact id, by unfold PinsRule; rw [h4, h5]; exact id,
    Nat.le_of_eq h6.symm, .inl h7, shaped_of_lengths h8⟩

theorem Kept.ite {s a b : State} {c : Prop} [Decidable c] (h : c → Kept s a) (k : ¬c → Kept s b) :
    Kept s (if c then a else b) := by split <;> simp_all

/-- An update of a state, its fields listed. -/
theorem Kept.set {s b : State} {x_hif : Hif} {x_irq : Irq} {x_mmu : List Mmu} {x_atn : Atn} {x_bow : Bow} {x_stream : Stream} {x_gcore : Gcore} {x_hints : Hints} {x_wst : Wst} {x_wstMore : WstMore} {x_sec : Sec} {x_fwu : Fwu} {x_rst : Rst} {x_drone : Drone} {x_cam : Cam} {x_pwr : Pwr} {x_port : Ports} {x_capo : Capo} {x_capoMore : CapoMore} {x_saf : Saf} {x_safMore : SafMore} {x_clk : Clk} {x_free : Nat}
    (h : Kept s b) (e : x_saf.state = b.saf.state) (g : x_fwu.minSecVer = b.fwu.minSecVer)
    (q : lengths x_hif x_mmu x_atn x_bow x_wstMore x_sec x_fwu x_rst x_drone x_cam x_pwr x_port x_capo x_capoMore x_safMore =
      lengths b.hif b.mmu b.atn b.bow b.wstMore b.sec b.fwu b.rst b.drone b.cam b.pwr b.port b.capo b.capoMore b.safMore) :
    Kept s (State.mk b.ident b.now b.mem x_hif x_irq x_mmu x_atn x_bow x_stream x_gcore x_hints x_wst x_wstMore x_sec x_fwu x_rst x_drone x_cam x_pwr x_port x_capo x_capoMore x_saf x_safMore x_clk b.pins x_free b.pending) :=
  h.trans (Kept.lit rfl rfl rfl rfl e g rfl q)

/-- An update that changes the stream's state, but never out of RUNNING. -/
theorem Kept.setSaf {s b : State} {x_hif : Hif} {x_irq : Irq} {x_mmu : List Mmu} {x_atn : Atn} {x_bow : Bow} {x_stream : Stream} {x_gcore : Gcore} {x_hints : Hints} {x_wst : Wst} {x_wstMore : WstMore} {x_sec : Sec} {x_fwu : Fwu} {x_rst : Rst} {x_drone : Drone} {x_cam : Cam} {x_pwr : Pwr} {x_port : Ports} {x_capo : Capo} {x_capoMore : CapoMore} {x_saf : Saf} {x_safMore : SafMore} {x_clk : Clk} {x_free : Nat}
    (h : Kept s b) (e : x_saf.state ≠ .running → b.saf.state ≠ .running) (g : x_fwu.minSecVer = b.fwu.minSecVer)
    (q : lengths x_hif x_mmu x_atn x_bow x_wstMore x_sec x_fwu x_rst x_drone x_cam x_pwr x_port x_capo x_capoMore x_safMore =
      lengths b.hif b.mmu b.atn b.bow b.wstMore b.sec b.fwu b.rst b.drone b.cam b.pwr b.port b.capo b.capoMore b.safMore) :
    Kept s (State.mk b.ident b.now b.mem x_hif x_irq x_mmu x_atn x_bow x_stream x_gcore x_hints x_wst x_wstMore x_sec x_fwu x_rst x_drone x_cam x_pwr x_port x_capo x_capoMore x_saf x_safMore x_clk b.pins x_free b.pending) :=
  h.trans ⟨rfl, rfl, rfl, rfl, id, fun w k => w (e k), Nat.le_of_eq g.symm, .inl rfl, shaped_of_lengths q⟩

/-- An update that changes the firmware's version too. -/
theorem Kept.setIdent {s b : State} {x_ident : Ident} {x_hif : Hif} {x_irq : Irq} {x_mmu : List Mmu} {x_atn : Atn} {x_bow : Bow} {x_stream : Stream} {x_gcore : Gcore} {x_hints : Hints} {x_wst : Wst} {x_wstMore : WstMore} {x_sec : Sec} {x_fwu : Fwu} {x_rst : Rst} {x_drone : Drone} {x_cam : Cam} {x_pwr : Pwr} {x_port : Ports} {x_capo : Capo} {x_capoMore : CapoMore} {x_saf : Saf} {x_safMore : SafMore} {x_clk : Clk} {x_free : Nat}
    (h : Kept s b) (v : x_ident.variant = b.ident.variant)
    (p : x_ident.stepping = b.ident.stepping) (n : x_ident.serial = b.ident.serial) (e : x_saf.state = b.saf.state) (g : x_fwu.minSecVer = b.fwu.minSecVer)
    (q : lengths x_hif x_mmu x_atn x_bow x_wstMore x_sec x_fwu x_rst x_drone x_cam x_pwr x_port x_capo x_capoMore x_safMore =
      lengths b.hif b.mmu b.atn b.bow b.wstMore b.sec b.fwu b.rst b.drone b.cam b.pwr b.port b.capo b.capoMore b.safMore) :
    Kept s (State.mk x_ident b.now b.mem x_hif x_irq x_mmu x_atn x_bow x_stream x_gcore x_hints x_wst x_wstMore x_sec x_fwu x_rst x_drone x_cam x_pwr x_port x_capo x_capoMore x_saf x_safMore x_clk b.pins x_free b.pending) :=
  h.trans ⟨rfl, v, p, n, id, by unfold PinsRule; simp only; rw [e]; exact id, Nat.le_of_eq g.symm, .inl rfl, shaped_of_lengths q⟩

/-- A fold of changes that each keep. -/
theorem Kept.foldl {α : Type} {f : State → α → State} {z s : State} {l : List α} (h : Kept z s)
    (k : ∀ s a, Kept s (f s a)) : Kept z (l.foldl f s) := by
  induction l generalizing s with
  | nil => exact h
  | cons a l ih => exact ih (h.trans (k s a))

theorem Kept.foldl1 {α β : Type} {f : State × β → α → State × β} {z : State} {r : State × β} {l : List α} (h : Kept z r.1)
    (k : ∀ r a, Kept r.1 (f r a).1) : Kept z (l.foldl f r).1 := by
  induction l generalizing r with
  | nil => exact h
  | cons a l ih => exact ih (h.trans (k r a))

/-- Every next state of an outcome is kept. -/
def KeptR (s : State) (r : Res) : Prop := ∀ t, r = .next t → Kept s t

theorem KeptR.next {s t : State} (h : Kept s t) : KeptR s (.next t) := fun _ e => by cases e; exact h
theorem KeptR.fault {s : State} {f : Fault} : KeptR s (.fault f) := fun _ e => by cases e
theorem KeptR.refused {s : State} {f : Refusal} : KeptR s (.refused f) := fun _ e => by cases e
theorem KeptR.ok {s t : State} (h : Kept s t) : KeptR s (ok t) := KeptR.next h
theorem KeptR.unit {n k : Nat} {s : State} {r : Res} (h : KeptR s r) : KeptR s (unit n k r) := by
  unfold Machine.unit; split
  · exact h
  · exact KeptR.fault
theorem KeptR.regWrite {f b : Nat} {s : State} {r : Res} (h : KeptR s r) : KeptR s (regWrite f b s r) := by
  unfold Machine.regWrite; refine KeptR.unit ?_; split
  · exact h
  · exact KeptR.ok (Kept.refl s)

theorem Kept.cut {s x y : State} (h : Kept s x) (k : Kept s x → Kept s y) : Kept s y := k h
theorem KeptR.cut {s x : State} {r : Res} (h : Kept s x) (k : Kept s x → KeptR s r) : KeptR s r := k h

theorem Kept.when {c : Bool} {f : State → State} {z s : State} (h : Kept z s) (k : Kept s (f s)) :
    Kept z (when c f s) := by
  unfold Machine.when; split
  · exact h.trans k
  · exact h

end Sys2Proof.Laws
end

