-- ==== Sys2Proof/Laws/State.lean ====
section
/-! SUPPORT. Laws/State.lean: what each shared update of the state leaves alone, field by field, and what the shared ways to
answer say. -/

set_option Elab.async false

namespace Sys2Proof.Laws
open Sys2Proof Sys2Proof.Machine

variable {s : State}

@[simp] theorem writeBytes_ident (sp : Space) (a : Nat) (bs : Bytes) : (writeBytes sp a bs s).ident = s.ident := rfl
@[simp] theorem writeBytes_now (sp : Space) (a : Nat) (bs : Bytes) : (writeBytes sp a bs s).now = s.now := rfl
@[simp] theorem writeBytes_hif (sp : Space) (a : Nat) (bs : Bytes) : (writeBytes sp a bs s).hif = s.hif := rfl
@[simp] theorem writeBytes_irq (sp : Space) (a : Nat) (bs : Bytes) : (writeBytes sp a bs s).irq = s.irq := rfl
@[simp] theorem writeBytes_mmu (sp : Space) (a : Nat) (bs : Bytes) : (writeBytes sp a bs s).mmu = s.mmu := rfl
@[simp] theorem writeBytes_atn (sp : Space) (a : Nat) (bs : Bytes) : (writeBytes sp a bs s).atn = s.atn := rfl
@[simp] theorem writeBytes_bow (sp : Space) (a : Nat) (bs : Bytes) : (writeBytes sp a bs s).bow = s.bow := rfl
@[simp] theorem writeBytes_stream (sp : Space) (a : Nat) (bs : Bytes) : (writeBytes sp a bs s).stream = s.stream := rfl
@[simp] theorem writeBytes_gcore (sp : Space) (a : Nat) (bs : Bytes) : (writeBytes sp a bs s).gcore = s.gcore := rfl
@[simp] theorem writeBytes_hints (sp : Space) (a : Nat) (bs : Bytes) : (writeBytes sp a bs s).hints = s.hints := rfl
@[simp] theorem writeBytes_wst (sp : Space) (a : Nat) (bs : Bytes) : (writeBytes sp a bs s).wst = s.wst := rfl
@[simp] theorem writeBytes_wstMore (sp : Space) (a : Nat) (bs : Bytes) : (writeBytes sp a bs s).wstMore = s.wstMore := rfl
@[simp] theorem writeBytes_sec (sp : Space) (a : Nat) (bs : Bytes) : (writeBytes sp a bs s).sec = s.sec := rfl
@[simp] theorem writeBytes_fwu (sp : Space) (a : Nat) (bs : Bytes) : (writeBytes sp a bs s).fwu = s.fwu := rfl
@[simp] theorem writeBytes_rst (sp : Space) (a : Nat) (bs : Bytes) : (writeBytes sp a bs s).rst = s.rst := rfl
@[simp] theorem writeBytes_drone (sp : Space) (a : Nat) (bs : Bytes) : (writeBytes sp a bs s).drone = s.drone := rfl
@[simp] theorem writeBytes_cam (sp : Space) (a : Nat) (bs : Bytes) : (writeBytes sp a bs s).cam = s.cam := rfl
@[simp] theorem writeBytes_pwr (sp : Space) (a : Nat) (bs : Bytes) : (writeBytes sp a bs s).pwr = s.pwr := rfl
@[simp] theorem writeBytes_port (sp : Space) (a : Nat) (bs : Bytes) : (writeBytes sp a bs s).port = s.port := rfl
@[simp] theorem writeBytes_capo (sp : Space) (a : Nat) (bs : Bytes) : (writeBytes sp a bs s).capo = s.capo := rfl
@[simp] theorem writeBytes_capoMore (sp : Space) (a : Nat) (bs : Bytes) : (writeBytes sp a bs s).capoMore = s.capoMore := rfl
@[simp] theorem writeBytes_saf (sp : Space) (a : Nat) (bs : Bytes) : (writeBytes sp a bs s).saf = s.saf := rfl
@[simp] theorem writeBytes_safMore (sp : Space) (a : Nat) (bs : Bytes) : (writeBytes sp a bs s).safMore = s.safMore := rfl
@[simp] theorem writeBytes_clk (sp : Space) (a : Nat) (bs : Bytes) : (writeBytes sp a bs s).clk = s.clk := rfl
@[simp] theorem writeBytes_pins (sp : Space) (a : Nat) (bs : Bytes) : (writeBytes sp a bs s).pins = s.pins := rfl
@[simp] theorem writeBytes_free (sp : Space) (a : Nat) (bs : Bytes) : (writeBytes sp a bs s).free = s.free := rfl
@[simp] theorem writeBytes_pending (sp : Space) (a : Nat) (bs : Bytes) : (writeBytes sp a bs s).pending = s.pending := rfl

@[simp] theorem zeroDev_ident (a n : Nat) : (zeroDev a n s).ident = s.ident := rfl
@[simp] theorem zeroDev_now (a n : Nat) : (zeroDev a n s).now = s.now := rfl
@[simp] theorem zeroDev_hif (a n : Nat) : (zeroDev a n s).hif = s.hif := rfl
@[simp] theorem zeroDev_irq (a n : Nat) : (zeroDev a n s).irq = s.irq := rfl
@[simp] theorem zeroDev_mmu (a n : Nat) : (zeroDev a n s).mmu = s.mmu := rfl
@[simp] theorem zeroDev_atn (a n : Nat) : (zeroDev a n s).atn = s.atn := rfl
@[simp] theorem zeroDev_bow (a n : Nat) : (zeroDev a n s).bow = s.bow := rfl
@[simp] theorem zeroDev_stream (a n : Nat) : (zeroDev a n s).stream = s.stream := rfl
@[simp] theorem zeroDev_gcore (a n : Nat) : (zeroDev a n s).gcore = s.gcore := rfl
@[simp] theorem zeroDev_hints (a n : Nat) : (zeroDev a n s).hints = s.hints := rfl
@[simp] theorem zeroDev_wst (a n : Nat) : (zeroDev a n s).wst = s.wst := rfl
@[simp] theorem zeroDev_wstMore (a n : Nat) : (zeroDev a n s).wstMore = s.wstMore := rfl
@[simp] theorem zeroDev_sec (a n : Nat) : (zeroDev a n s).sec = s.sec := rfl
@[simp] theorem zeroDev_fwu (a n : Nat) : (zeroDev a n s).fwu = s.fwu := rfl
@[simp] theorem zeroDev_rst (a n : Nat) : (zeroDev a n s).rst = s.rst := rfl
@[simp] theorem zeroDev_drone (a n : Nat) : (zeroDev a n s).drone = s.drone := rfl
@[simp] theorem zeroDev_cam (a n : Nat) : (zeroDev a n s).cam = s.cam := rfl
@[simp] theorem zeroDev_pwr (a n : Nat) : (zeroDev a n s).pwr = s.pwr := rfl
@[simp] theorem zeroDev_port (a n : Nat) : (zeroDev a n s).port = s.port := rfl
@[simp] theorem zeroDev_capo (a n : Nat) : (zeroDev a n s).capo = s.capo := rfl
@[simp] theorem zeroDev_capoMore (a n : Nat) : (zeroDev a n s).capoMore = s.capoMore := rfl
@[simp] theorem zeroDev_saf (a n : Nat) : (zeroDev a n s).saf = s.saf := rfl
@[simp] theorem zeroDev_safMore (a n : Nat) : (zeroDev a n s).safMore = s.safMore := rfl
@[simp] theorem zeroDev_clk (a n : Nat) : (zeroDev a n s).clk = s.clk := rfl
@[simp] theorem zeroDev_pins (a n : Nat) : (zeroDev a n s).pins = s.pins := rfl
@[simp] theorem zeroDev_free (a n : Nat) : (zeroDev a n s).free = s.free := rfl
@[simp] theorem zeroDev_pending (a n : Nat) : (zeroDev a n s).pending = s.pending := rfl

@[simp] theorem drawn_ident (n : Nat) : (drawn n s).ident = s.ident := rfl
@[simp] theorem drawn_now (n : Nat) : (drawn n s).now = s.now := rfl
@[simp] theorem drawn_mem (n : Nat) : (drawn n s).mem = s.mem := rfl
@[simp] theorem drawn_hif (n : Nat) : (drawn n s).hif = s.hif := rfl
@[simp] theorem drawn_irq (n : Nat) : (drawn n s).irq = s.irq := rfl
@[simp] theorem drawn_mmu (n : Nat) : (drawn n s).mmu = s.mmu := rfl
@[simp] theorem drawn_atn (n : Nat) : (drawn n s).atn = s.atn := rfl
@[simp] theorem drawn_bow (n : Nat) : (drawn n s).bow = s.bow := rfl
@[simp] theorem drawn_stream (n : Nat) : (drawn n s).stream = s.stream := rfl
@[simp] theorem drawn_gcore (n : Nat) : (drawn n s).gcore = s.gcore := rfl
@[simp] theorem drawn_hints (n : Nat) : (drawn n s).hints = s.hints := rfl
@[simp] theorem drawn_wst (n : Nat) : (drawn n s).wst = s.wst := rfl
@[simp] theorem drawn_wstMore (n : Nat) : (drawn n s).wstMore = s.wstMore := rfl
@[simp] theorem drawn_sec (n : Nat) : (drawn n s).sec = s.sec := rfl
@[simp] theorem drawn_fwu (n : Nat) : (drawn n s).fwu = s.fwu := rfl
@[simp] theorem drawn_rst (n : Nat) : (drawn n s).rst = s.rst := rfl
@[simp] theorem drawn_drone (n : Nat) : (drawn n s).drone = s.drone := rfl
@[simp] theorem drawn_cam (n : Nat) : (drawn n s).cam = s.cam := rfl
@[simp] theorem drawn_pwr (n : Nat) : (drawn n s).pwr = s.pwr := rfl
@[simp] theorem drawn_port (n : Nat) : (drawn n s).port = s.port := rfl
@[simp] theorem drawn_capo (n : Nat) : (drawn n s).capo = s.capo := rfl
@[simp] theorem drawn_capoMore (n : Nat) : (drawn n s).capoMore = s.capoMore := rfl
@[simp] theorem drawn_saf (n : Nat) : (drawn n s).saf = s.saf := rfl
@[simp] theorem drawn_safMore (n : Nat) : (drawn n s).safMore = s.safMore := rfl
@[simp] theorem drawn_clk (n : Nat) : (drawn n s).clk = s.clk := rfl
@[simp] theorem drawn_pins (n : Nat) : (drawn n s).pins = s.pins := rfl
@[simp] theorem drawn_pending (n : Nat) : (drawn n s).pending = s.pending := rfl

@[simp] theorem modHifFunc_ident (f : Nat) (g : HifFunc → HifFunc) : (modHifFunc f g s).ident = s.ident := rfl
@[simp] theorem modHifFunc_now (f : Nat) (g : HifFunc → HifFunc) : (modHifFunc f g s).now = s.now := rfl
@[simp] theorem modHifFunc_mem (f : Nat) (g : HifFunc → HifFunc) : (modHifFunc f g s).mem = s.mem := rfl
@[simp] theorem modHifFunc_irq (f : Nat) (g : HifFunc → HifFunc) : (modHifFunc f g s).irq = s.irq := rfl
@[simp] theorem modHifFunc_mmu (f : Nat) (g : HifFunc → HifFunc) : (modHifFunc f g s).mmu = s.mmu := rfl
@[simp] theorem modHifFunc_atn (f : Nat) (g : HifFunc → HifFunc) : (modHifFunc f g s).atn = s.atn := rfl
@[simp] theorem modHifFunc_bow (f : Nat) (g : HifFunc → HifFunc) : (modHifFunc f g s).bow = s.bow := rfl
@[simp] theorem modHifFunc_stream (f : Nat) (g : HifFunc → HifFunc) : (modHifFunc f g s).stream = s.stream := rfl
@[simp] theorem modHifFunc_gcore (f : Nat) (g : HifFunc → HifFunc) : (modHifFunc f g s).gcore = s.gcore := rfl
@[simp] theorem modHifFunc_hints (f : Nat) (g : HifFunc → HifFunc) : (modHifFunc f g s).hints = s.hints := rfl
@[simp] theorem modHifFunc_wst (f : Nat) (g : HifFunc → HifFunc) : (modHifFunc f g s).wst = s.wst := rfl
@[simp] theorem modHifFunc_wstMore (f : Nat) (g : HifFunc → HifFunc) : (modHifFunc f g s).wstMore = s.wstMore := rfl
@[simp] theorem modHifFunc_sec (f : Nat) (g : HifFunc → HifFunc) : (modHifFunc f g s).sec = s.sec := rfl
@[simp] theorem modHifFunc_fwu (f : Nat) (g : HifFunc → HifFunc) : (modHifFunc f g s).fwu = s.fwu := rfl
@[simp] theorem modHifFunc_rst (f : Nat) (g : HifFunc → HifFunc) : (modHifFunc f g s).rst = s.rst := rfl
@[simp] theorem modHifFunc_drone (f : Nat) (g : HifFunc → HifFunc) : (modHifFunc f g s).drone = s.drone := rfl
@[simp] theorem modHifFunc_cam (f : Nat) (g : HifFunc → HifFunc) : (modHifFunc f g s).cam = s.cam := rfl
@[simp] theorem modHifFunc_pwr (f : Nat) (g : HifFunc → HifFunc) : (modHifFunc f g s).pwr = s.pwr := rfl
@[simp] theorem modHifFunc_port (f : Nat) (g : HifFunc → HifFunc) : (modHifFunc f g s).port = s.port := rfl
@[simp] theorem modHifFunc_capo (f : Nat) (g : HifFunc → HifFunc) : (modHifFunc f g s).capo = s.capo := rfl
@[simp] theorem modHifFunc_capoMore (f : Nat) (g : HifFunc → HifFunc) : (modHifFunc f g s).capoMore = s.capoMore := rfl
@[simp] theorem modHifFunc_saf (f : Nat) (g : HifFunc → HifFunc) : (modHifFunc f g s).saf = s.saf := rfl
@[simp] theorem modHifFunc_safMore (f : Nat) (g : HifFunc → HifFunc) : (modHifFunc f g s).safMore = s.safMore := rfl
@[simp] theorem modHifFunc_clk (f : Nat) (g : HifFunc → HifFunc) : (modHifFunc f g s).clk = s.clk := rfl
@[simp] theorem modHifFunc_pins (f : Nat) (g : HifFunc → HifFunc) : (modHifFunc f g s).pins = s.pins := rfl
@[simp] theorem modHifFunc_free (f : Nat) (g : HifFunc → HifFunc) : (modHifFunc f g s).free = s.free := rfl
@[simp] theorem modHifFunc_pending (f : Nat) (g : HifFunc → HifFunc) : (modHifFunc f g s).pending = s.pending := rfl

@[simp] theorem modFuncCfg_ident (f : Nat) (g : FuncCfg → FuncCfg) : (modFuncCfg f g s).ident = s.ident := rfl
@[simp] theorem modFuncCfg_now (f : Nat) (g : FuncCfg → FuncCfg) : (modFuncCfg f g s).now = s.now := rfl
@[simp] theorem modFuncCfg_mem (f : Nat) (g : FuncCfg → FuncCfg) : (modFuncCfg f g s).mem = s.mem := rfl
@[simp] theorem modFuncCfg_hif (f : Nat) (g : FuncCfg → FuncCfg) : (modFuncCfg f g s).hif = s.hif := rfl
@[simp] theorem modFuncCfg_irq (f : Nat) (g : FuncCfg → FuncCfg) : (modFuncCfg f g s).irq = s.irq := rfl
@[simp] theorem modFuncCfg_mmu (f : Nat) (g : FuncCfg → FuncCfg) : (modFuncCfg f g s).mmu = s.mmu := rfl
@[simp] theorem modFuncCfg_atn (f : Nat) (g : FuncCfg → FuncCfg) : (modFuncCfg f g s).atn = s.atn := rfl
@[simp] theorem modFuncCfg_bow (f : Nat) (g : FuncCfg → FuncCfg) : (modFuncCfg f g s).bow = s.bow := rfl
@[simp] theorem modFuncCfg_stream (f : Nat) (g : FuncCfg → FuncCfg) : (modFuncCfg f g s).stream = s.stream := rfl
@[simp] theorem modFuncCfg_gcore (f : Nat) (g : FuncCfg → FuncCfg) : (modFuncCfg f g s).gcore = s.gcore := rfl
@[simp] theorem modFuncCfg_hints (f : Nat) (g : FuncCfg → FuncCfg) : (modFuncCfg f g s).hints = s.hints := rfl
@[simp] theorem modFuncCfg_wst (f : Nat) (g : FuncCfg → FuncCfg) : (modFuncCfg f g s).wst = s.wst := rfl
@[simp] theorem modFuncCfg_wstMore (f : Nat) (g : FuncCfg → FuncCfg) : (modFuncCfg f g s).wstMore = s.wstMore := rfl
@[simp] theorem modFuncCfg_sec (f : Nat) (g : FuncCfg → FuncCfg) : (modFuncCfg f g s).sec = s.sec := rfl
@[simp] theorem modFuncCfg_fwu (f : Nat) (g : FuncCfg → FuncCfg) : (modFuncCfg f g s).fwu = s.fwu := rfl
@[simp] theorem modFuncCfg_rst (f : Nat) (g : FuncCfg → FuncCfg) : (modFuncCfg f g s).rst = s.rst := rfl
@[simp] theorem modFuncCfg_drone (f : Nat) (g : FuncCfg → FuncCfg) : (modFuncCfg f g s).drone = s.drone := rfl
@[simp] theorem modFuncCfg_cam (f : Nat) (g : FuncCfg → FuncCfg) : (modFuncCfg f g s).cam = s.cam := rfl
@[simp] theorem modFuncCfg_pwr (f : Nat) (g : FuncCfg → FuncCfg) : (modFuncCfg f g s).pwr = s.pwr := rfl
@[simp] theorem modFuncCfg_capo (f : Nat) (g : FuncCfg → FuncCfg) : (modFuncCfg f g s).capo = s.capo := rfl
@[simp] theorem modFuncCfg_capoMore (f : Nat) (g : FuncCfg → FuncCfg) : (modFuncCfg f g s).capoMore = s.capoMore := rfl
@[simp] theorem modFuncCfg_saf (f : Nat) (g : FuncCfg → FuncCfg) : (modFuncCfg f g s).saf = s.saf := rfl
@[simp] theorem modFuncCfg_safMore (f : Nat) (g : FuncCfg → FuncCfg) : (modFuncCfg f g s).safMore = s.safMore := rfl
@[simp] theorem modFuncCfg_clk (f : Nat) (g : FuncCfg → FuncCfg) : (modFuncCfg f g s).clk = s.clk := rfl
@[simp] theorem modFuncCfg_pins (f : Nat) (g : FuncCfg → FuncCfg) : (modFuncCfg f g s).pins = s.pins := rfl
@[simp] theorem modFuncCfg_free (f : Nat) (g : FuncCfg → FuncCfg) : (modFuncCfg f g s).free = s.free := rfl
@[simp] theorem modFuncCfg_pending (f : Nat) (g : FuncCfg → FuncCfg) : (modFuncCfg f g s).pending = s.pending := rfl

@[simp] theorem modPort_ident (p : Nat) (g : Port → Port) : (modPort p g s).ident = s.ident := rfl
@[simp] theorem modPort_now (p : Nat) (g : Port → Port) : (modPort p g s).now = s.now := rfl
@[simp] theorem modPort_mem (p : Nat) (g : Port → Port) : (modPort p g s).mem = s.mem := rfl
@[simp] theorem modPort_hif (p : Nat) (g : Port → Port) : (modPort p g s).hif = s.hif := rfl
@[simp] theorem modPort_irq (p : Nat) (g : Port → Port) : (modPort p g s).irq = s.irq := rfl
@[simp] theorem modPort_mmu (p : Nat) (g : Port → Port) : (modPort p g s).mmu = s.mmu := rfl
@[simp] theorem modPort_atn (p : Nat) (g : Port → Port) : (modPort p g s).atn = s.atn := rfl
@[simp] theorem modPort_bow (p : Nat) (g : Port → Port) : (modPort p g s).bow = s.bow := rfl
@[simp] theorem modPort_stream (p : Nat) (g : Port → Port) : (modPort p g s).stream = s.stream := rfl
@[simp] theorem modPort_gcore (p : Nat) (g : Port → Port) : (modPort p g s).gcore = s.gcore := rfl
@[simp] theorem modPort_hints (p : Nat) (g : Port → Port) : (modPort p g s).hints = s.hints := rfl
@[simp] theorem modPort_wst (p : Nat) (g : Port → Port) : (modPort p g s).wst = s.wst := rfl
@[simp] theorem modPort_wstMore (p : Nat) (g : Port → Port) : (modPort p g s).wstMore = s.wstMore := rfl
@[simp] theorem modPort_sec (p : Nat) (g : Port → Port) : (modPort p g s).sec = s.sec := rfl
@[simp] theorem modPort_fwu (p : Nat) (g : Port → Port) : (modPort p g s).fwu = s.fwu := rfl
@[simp] theorem modPort_rst (p : Nat) (g : Port → Port) : (modPort p g s).rst = s.rst := rfl
@[simp] theorem modPort_drone (p : Nat) (g : Port → Port) : (modPort p g s).drone = s.drone := rfl
@[simp] theorem modPort_cam (p : Nat) (g : Port → Port) : (modPort p g s).cam = s.cam := rfl
@[simp] theorem modPort_pwr (p : Nat) (g : Port → Port) : (modPort p g s).pwr = s.pwr := rfl
@[simp] theorem modPort_capo (p : Nat) (g : Port → Port) : (modPort p g s).capo = s.capo := rfl
@[simp] theorem modPort_capoMore (p : Nat) (g : Port → Port) : (modPort p g s).capoMore = s.capoMore := rfl
@[simp] theorem modPort_saf (p : Nat) (g : Port → Port) : (modPort p g s).saf = s.saf := rfl
@[simp] theorem modPort_safMore (p : Nat) (g : Port → Port) : (modPort p g s).safMore = s.safMore := rfl
@[simp] theorem modPort_clk (p : Nat) (g : Port → Port) : (modPort p g s).clk = s.clk := rfl
@[simp] theorem modPort_pins (p : Nat) (g : Port → Port) : (modPort p g s).pins = s.pins := rfl
@[simp] theorem modPort_free (p : Nat) (g : Port → Port) : (modPort p g s).free = s.free := rfl
@[simp] theorem modPort_pending (p : Nat) (g : Port → Port) : (modPort p g s).pending = s.pending := rfl

@[simp] theorem modMmu_ident (f : Nat) (g : Mmu → Mmu) : (modMmu f g s).ident = s.ident := rfl
@[simp] theorem modMmu_now (f : Nat) (g : Mmu → Mmu) : (modMmu f g s).now = s.now := rfl
@[simp] theorem modMmu_mem (f : Nat) (g : Mmu → Mmu) : (modMmu f g s).mem = s.mem := rfl
@[simp] theorem modMmu_hif (f : Nat) (g : Mmu → Mmu) : (modMmu f g s).hif = s.hif := rfl
@[simp] theorem modMmu_irq (f : Nat) (g : Mmu → Mmu) : (modMmu f g s).irq = s.irq := rfl
@[simp] theorem modMmu_atn (f : Nat) (g : Mmu → Mmu) : (modMmu f g s).atn = s.atn := rfl
@[simp] theorem modMmu_bow (f : Nat) (g : Mmu → Mmu) : (modMmu f g s).bow = s.bow := rfl
@[simp] theorem modMmu_stream (f : Nat) (g : Mmu → Mmu) : (modMmu f g s).stream = s.stream := rfl
@[simp] theorem modMmu_gcore (f : Nat) (g : Mmu → Mmu) : (modMmu f g s).gcore = s.gcore := rfl
@[simp] theorem modMmu_hints (f : Nat) (g : Mmu → Mmu) : (modMmu f g s).hints = s.hints := rfl
@[simp] theorem modMmu_wst (f : Nat) (g : Mmu → Mmu) : (modMmu f g s).wst = s.wst := rfl
@[simp] theorem modMmu_wstMore (f : Nat) (g : Mmu → Mmu) : (modMmu f g s).wstMore = s.wstMore := rfl
@[simp] theorem modMmu_sec (f : Nat) (g : Mmu → Mmu) : (modMmu f g s).sec = s.sec := rfl
@[simp] theorem modMmu_fwu (f : Nat) (g : Mmu → Mmu) : (modMmu f g s).fwu = s.fwu := rfl
@[simp] theorem modMmu_rst (f : Nat) (g : Mmu → Mmu) : (modMmu f g s).rst = s.rst := rfl
@[simp] theorem modMmu_drone (f : Nat) (g : Mmu → Mmu) : (modMmu f g s).drone = s.drone := rfl
@[simp] theorem modMmu_cam (f : Nat) (g : Mmu → Mmu) : (modMmu f g s).cam = s.cam := rfl
@[simp] theorem modMmu_pwr (f : Nat) (g : Mmu → Mmu) : (modMmu f g s).pwr = s.pwr := rfl
@[simp] theorem modMmu_port (f : Nat) (g : Mmu → Mmu) : (modMmu f g s).port = s.port := rfl
@[simp] theorem modMmu_capo (f : Nat) (g : Mmu → Mmu) : (modMmu f g s).capo = s.capo := rfl
@[simp] theorem modMmu_capoMore (f : Nat) (g : Mmu → Mmu) : (modMmu f g s).capoMore = s.capoMore := rfl
@[simp] theorem modMmu_saf (f : Nat) (g : Mmu → Mmu) : (modMmu f g s).saf = s.saf := rfl
@[simp] theorem modMmu_safMore (f : Nat) (g : Mmu → Mmu) : (modMmu f g s).safMore = s.safMore := rfl
@[simp] theorem modMmu_clk (f : Nat) (g : Mmu → Mmu) : (modMmu f g s).clk = s.clk := rfl
@[simp] theorem modMmu_pins (f : Nat) (g : Mmu → Mmu) : (modMmu f g s).pins = s.pins := rfl
@[simp] theorem modMmu_free (f : Nat) (g : Mmu → Mmu) : (modMmu f g s).free = s.free := rfl
@[simp] theorem modMmu_pending (f : Nat) (g : Mmu → Mmu) : (modMmu f g s).pending = s.pending := rfl

@[simp] theorem modConf_ident (f : Nat) (g : Conf → Conf) : (modConf f g s).ident = s.ident := rfl
@[simp] theorem modConf_now (f : Nat) (g : Conf → Conf) : (modConf f g s).now = s.now := rfl
@[simp] theorem modConf_mem (f : Nat) (g : Conf → Conf) : (modConf f g s).mem = s.mem := rfl
@[simp] theorem modConf_hif (f : Nat) (g : Conf → Conf) : (modConf f g s).hif = s.hif := rfl
@[simp] theorem modConf_irq (f : Nat) (g : Conf → Conf) : (modConf f g s).irq = s.irq := rfl
@[simp] theorem modConf_mmu (f : Nat) (g : Conf → Conf) : (modConf f g s).mmu = s.mmu := rfl
@[simp] theorem modConf_atn (f : Nat) (g : Conf → Conf) : (modConf f g s).atn = s.atn := rfl
@[simp] theorem modConf_bow (f : Nat) (g : Conf → Conf) : (modConf f g s).bow = s.bow := rfl
@[simp] theorem modConf_stream (f : Nat) (g : Conf → Conf) : (modConf f g s).stream = s.stream := rfl
@[simp] theorem modConf_gcore (f : Nat) (g : Conf → Conf) : (modConf f g s).gcore = s.gcore := rfl
@[simp] theorem modConf_hints (f : Nat) (g : Conf → Conf) : (modConf f g s).hints = s.hints := rfl
@[simp] theorem modConf_wst (f : Nat) (g : Conf → Conf) : (modConf f g s).wst = s.wst := rfl
@[simp] theorem modConf_wstMore (f : Nat) (g : Conf → Conf) : (modConf f g s).wstMore = s.wstMore := rfl
@[simp] theorem modConf_fwu (f : Nat) (g : Conf → Conf) : (modConf f g s).fwu = s.fwu := rfl
@[simp] theorem modConf_rst (f : Nat) (g : Conf → Conf) : (modConf f g s).rst = s.rst := rfl
@[simp] theorem modConf_drone (f : Nat) (g : Conf → Conf) : (modConf f g s).drone = s.drone := rfl
@[simp] theorem modConf_cam (f : Nat) (g : Conf → Conf) : (modConf f g s).cam = s.cam := rfl
@[simp] theorem modConf_pwr (f : Nat) (g : Conf → Conf) : (modConf f g s).pwr = s.pwr := rfl
@[simp] theorem modConf_port (f : Nat) (g : Conf → Conf) : (modConf f g s).port = s.port := rfl
@[simp] theorem modConf_capo (f : Nat) (g : Conf → Conf) : (modConf f g s).capo = s.capo := rfl
@[simp] theorem modConf_capoMore (f : Nat) (g : Conf → Conf) : (modConf f g s).capoMore = s.capoMore := rfl
@[simp] theorem modConf_saf (f : Nat) (g : Conf → Conf) : (modConf f g s).saf = s.saf := rfl
@[simp] theorem modConf_safMore (f : Nat) (g : Conf → Conf) : (modConf f g s).safMore = s.safMore := rfl
@[simp] theorem modConf_clk (f : Nat) (g : Conf → Conf) : (modConf f g s).clk = s.clk := rfl
@[simp] theorem modConf_pins (f : Nat) (g : Conf → Conf) : (modConf f g s).pins = s.pins := rfl
@[simp] theorem modConf_free (f : Nat) (g : Conf → Conf) : (modConf f g s).free = s.free := rfl
@[simp] theorem modConf_pending (f : Nat) (g : Conf → Conf) : (modConf f g s).pending = s.pending := rfl

@[simp] theorem modRing_ident (r : Nat) (g : Ring → Ring) : (modRing r g s).ident = s.ident := rfl
@[simp] theorem modRing_now (r : Nat) (g : Ring → Ring) : (modRing r g s).now = s.now := rfl
@[simp] theorem modRing_mem (r : Nat) (g : Ring → Ring) : (modRing r g s).mem = s.mem := rfl
@[simp] theorem modRing_irq (r : Nat) (g : Ring → Ring) : (modRing r g s).irq = s.irq := rfl
@[simp] theorem modRing_mmu (r : Nat) (g : Ring → Ring) : (modRing r g s).mmu = s.mmu := rfl
@[simp] theorem modRing_atn (r : Nat) (g : Ring → Ring) : (modRing r g s).atn = s.atn := rfl
@[simp] theorem modRing_bow (r : Nat) (g : Ring → Ring) : (modRing r g s).bow = s.bow := rfl
@[simp] theorem modRing_stream (r : Nat) (g : Ring → Ring) : (modRing r g s).stream = s.stream := rfl
@[simp] theorem modRing_gcore (r : Nat) (g : Ring → Ring) : (modRing r g s).gcore = s.gcore := rfl
@[simp] theorem modRing_hints (r : Nat) (g : Ring → Ring) : (modRing r g s).hints = s.hints := rfl
@[simp] theorem modRing_wst (r : Nat) (g : Ring → Ring) : (modRing r g s).wst = s.wst := rfl
@[simp] theorem modRing_wstMore (r : Nat) (g : Ring → Ring) : (modRing r g s).wstMore = s.wstMore := rfl
@[simp] theorem modRing_sec (r : Nat) (g : Ring → Ring) : (modRing r g s).sec = s.sec := rfl
@[simp] theorem modRing_fwu (r : Nat) (g : Ring → Ring) : (modRing r g s).fwu = s.fwu := rfl
@[simp] theorem modRing_rst (r : Nat) (g : Ring → Ring) : (modRing r g s).rst = s.rst := rfl
@[simp] theorem modRing_drone (r : Nat) (g : Ring → Ring) : (modRing r g s).drone = s.drone := rfl
@[simp] theorem modRing_cam (r : Nat) (g : Ring → Ring) : (modRing r g s).cam = s.cam := rfl
@[simp] theorem modRing_pwr (r : Nat) (g : Ring → Ring) : (modRing r g s).pwr = s.pwr := rfl
@[simp] theorem modRing_port (r : Nat) (g : Ring → Ring) : (modRing r g s).port = s.port := rfl
@[simp] theorem modRing_capo (r : Nat) (g : Ring → Ring) : (modRing r g s).capo = s.capo := rfl
@[simp] theorem modRing_capoMore (r : Nat) (g : Ring → Ring) : (modRing r g s).capoMore = s.capoMore := rfl
@[simp] theorem modRing_saf (r : Nat) (g : Ring → Ring) : (modRing r g s).saf = s.saf := rfl
@[simp] theorem modRing_safMore (r : Nat) (g : Ring → Ring) : (modRing r g s).safMore = s.safMore := rfl
@[simp] theorem modRing_clk (r : Nat) (g : Ring → Ring) : (modRing r g s).clk = s.clk := rfl
@[simp] theorem modRing_pins (r : Nat) (g : Ring → Ring) : (modRing r g s).pins = s.pins := rfl
@[simp] theorem modRing_free (r : Nat) (g : Ring → Ring) : (modRing r g s).free = s.free := rfl
@[simp] theorem modRing_pending (r : Nat) (g : Ring → Ring) : (modRing r g s).pending = s.pending := rfl

@[simp] theorem modCmd_ident (k : Nat) (g : Cmd → Cmd) : (modCmd k g s).ident = s.ident := rfl
@[simp] theorem modCmd_now (k : Nat) (g : Cmd → Cmd) : (modCmd k g s).now = s.now := rfl
@[simp] theorem modCmd_mem (k : Nat) (g : Cmd → Cmd) : (modCmd k g s).mem = s.mem := rfl
@[simp] theorem modCmd_irq (k : Nat) (g : Cmd → Cmd) : (modCmd k g s).irq = s.irq := rfl
@[simp] theorem modCmd_mmu (k : Nat) (g : Cmd → Cmd) : (modCmd k g s).mmu = s.mmu := rfl
@[simp] theorem modCmd_atn (k : Nat) (g : Cmd → Cmd) : (modCmd k g s).atn = s.atn := rfl
@[simp] theorem modCmd_bow (k : Nat) (g : Cmd → Cmd) : (modCmd k g s).bow = s.bow := rfl
@[simp] theorem modCmd_stream (k : Nat) (g : Cmd → Cmd) : (modCmd k g s).stream = s.stream := rfl
@[simp] theorem modCmd_gcore (k : Nat) (g : Cmd → Cmd) : (modCmd k g s).gcore = s.gcore := rfl
@[simp] theorem modCmd_hints (k : Nat) (g : Cmd → Cmd) : (modCmd k g s).hints = s.hints := rfl
@[simp] theorem modCmd_wst (k : Nat) (g : Cmd → Cmd) : (modCmd k g s).wst = s.wst := rfl
@[simp] theorem modCmd_wstMore (k : Nat) (g : Cmd → Cmd) : (modCmd k g s).wstMore = s.wstMore := rfl
@[simp] theorem modCmd_sec (k : Nat) (g : Cmd → Cmd) : (modCmd k g s).sec = s.sec := rfl
@[simp] theorem modCmd_fwu (k : Nat) (g : Cmd → Cmd) : (modCmd k g s).fwu = s.fwu := rfl
@[simp] theorem modCmd_rst (k : Nat) (g : Cmd → Cmd) : (modCmd k g s).rst = s.rst := rfl
@[simp] theorem modCmd_drone (k : Nat) (g : Cmd → Cmd) : (modCmd k g s).drone = s.drone := rfl
@[simp] theorem modCmd_cam (k : Nat) (g : Cmd → Cmd) : (modCmd k g s).cam = s.cam := rfl
@[simp] theorem modCmd_pwr (k : Nat) (g : Cmd → Cmd) : (modCmd k g s).pwr = s.pwr := rfl
@[simp] theorem modCmd_port (k : Nat) (g : Cmd → Cmd) : (modCmd k g s).port = s.port := rfl
@[simp] theorem modCmd_capo (k : Nat) (g : Cmd → Cmd) : (modCmd k g s).capo = s.capo := rfl
@[simp] theorem modCmd_capoMore (k : Nat) (g : Cmd → Cmd) : (modCmd k g s).capoMore = s.capoMore := rfl
@[simp] theorem modCmd_saf (k : Nat) (g : Cmd → Cmd) : (modCmd k g s).saf = s.saf := rfl
@[simp] theorem modCmd_safMore (k : Nat) (g : Cmd → Cmd) : (modCmd k g s).safMore = s.safMore := rfl
@[simp] theorem modCmd_clk (k : Nat) (g : Cmd → Cmd) : (modCmd k g s).clk = s.clk := rfl
@[simp] theorem modCmd_pins (k : Nat) (g : Cmd → Cmd) : (modCmd k g s).pins = s.pins := rfl
@[simp] theorem modCmd_free (k : Nat) (g : Cmd → Cmd) : (modCmd k g s).free = s.free := rfl
@[simp] theorem modCmd_pending (k : Nat) (g : Cmd → Cmd) : (modCmd k g s).pending = s.pending := rfl

@[simp] theorem dropCmd_ident (k : Nat) : (dropCmd k s).ident = s.ident := rfl
@[simp] theorem dropCmd_now (k : Nat) : (dropCmd k s).now = s.now := rfl
@[simp] theorem dropCmd_mem (k : Nat) : (dropCmd k s).mem = s.mem := rfl
@[simp] theorem dropCmd_irq (k : Nat) : (dropCmd k s).irq = s.irq := rfl
@[simp] theorem dropCmd_mmu (k : Nat) : (dropCmd k s).mmu = s.mmu := rfl
@[simp] theorem dropCmd_atn (k : Nat) : (dropCmd k s).atn = s.atn := rfl
@[simp] theorem dropCmd_bow (k : Nat) : (dropCmd k s).bow = s.bow := rfl
@[simp] theorem dropCmd_stream (k : Nat) : (dropCmd k s).stream = s.stream := rfl
@[simp] theorem dropCmd_gcore (k : Nat) : (dropCmd k s).gcore = s.gcore := rfl
@[simp] theorem dropCmd_hints (k : Nat) : (dropCmd k s).hints = s.hints := rfl
@[simp] theorem dropCmd_wst (k : Nat) : (dropCmd k s).wst = s.wst := rfl
@[simp] theorem dropCmd_wstMore (k : Nat) : (dropCmd k s).wstMore = s.wstMore := rfl
@[simp] theorem dropCmd_sec (k : Nat) : (dropCmd k s).sec = s.sec := rfl
@[simp] theorem dropCmd_fwu (k : Nat) : (dropCmd k s).fwu = s.fwu := rfl
@[simp] theorem dropCmd_rst (k : Nat) : (dropCmd k s).rst = s.rst := rfl
@[simp] theorem dropCmd_drone (k : Nat) : (dropCmd k s).drone = s.drone := rfl
@[simp] theorem dropCmd_cam (k : Nat) : (dropCmd k s).cam = s.cam := rfl
@[simp] theorem dropCmd_pwr (k : Nat) : (dropCmd k s).pwr = s.pwr := rfl
@[simp] theorem dropCmd_port (k : Nat) : (dropCmd k s).port = s.port := rfl
@[simp] theorem dropCmd_capo (k : Nat) : (dropCmd k s).capo = s.capo := rfl
@[simp] theorem dropCmd_capoMore (k : Nat) : (dropCmd k s).capoMore = s.capoMore := rfl
@[simp] theorem dropCmd_saf (k : Nat) : (dropCmd k s).saf = s.saf := rfl
@[simp] theorem dropCmd_safMore (k : Nat) : (dropCmd k s).safMore = s.safMore := rfl
@[simp] theorem dropCmd_clk (k : Nat) : (dropCmd k s).clk = s.clk := rfl
@[simp] theorem dropCmd_pins (k : Nat) : (dropCmd k s).pins = s.pins := rfl
@[simp] theorem dropCmd_free (k : Nat) : (dropCmd k s).free = s.free := rfl
@[simp] theorem dropCmd_pending (k : Nat) : (dropCmd k s).pending = s.pending := rfl

@[simp] theorem modDomain_ident (d : Nat) (g : Domain → Domain) : (modDomain d g s).ident = s.ident := rfl
@[simp] theorem modDomain_now (d : Nat) (g : Domain → Domain) : (modDomain d g s).now = s.now := rfl
@[simp] theorem modDomain_mem (d : Nat) (g : Domain → Domain) : (modDomain d g s).mem = s.mem := rfl
@[simp] theorem modDomain_hif (d : Nat) (g : Domain → Domain) : (modDomain d g s).hif = s.hif := rfl
@[simp] theorem modDomain_irq (d : Nat) (g : Domain → Domain) : (modDomain d g s).irq = s.irq := rfl
@[simp] theorem modDomain_mmu (d : Nat) (g : Domain → Domain) : (modDomain d g s).mmu = s.mmu := rfl
@[simp] theorem modDomain_atn (d : Nat) (g : Domain → Domain) : (modDomain d g s).atn = s.atn := rfl
@[simp] theorem modDomain_bow (d : Nat) (g : Domain → Domain) : (modDomain d g s).bow = s.bow := rfl
@[simp] theorem modDomain_stream (d : Nat) (g : Domain → Domain) : (modDomain d g s).stream = s.stream := rfl
@[simp] theorem modDomain_gcore (d : Nat) (g : Domain → Domain) : (modDomain d g s).gcore = s.gcore := rfl
@[simp] theorem modDomain_hints (d : Nat) (g : Domain → Domain) : (modDomain d g s).hints = s.hints := rfl
@[simp] theorem modDomain_wst (d : Nat) (g : Domain → Domain) : (modDomain d g s).wst = s.wst := rfl
@[simp] theorem modDomain_wstMore (d : Nat) (g : Domain → Domain) : (modDomain d g s).wstMore = s.wstMore := rfl
@[simp] theorem modDomain_sec (d : Nat) (g : Domain → Domain) : (modDomain d g s).sec = s.sec := rfl
@[simp] theorem modDomain_fwu (d : Nat) (g : Domain → Domain) : (modDomain d g s).fwu = s.fwu := rfl
@[simp] theorem modDomain_rst (d : Nat) (g : Domain → Domain) : (modDomain d g s).rst = s.rst := rfl
@[simp] theorem modDomain_drone (d : Nat) (g : Domain → Domain) : (modDomain d g s).drone = s.drone := rfl
@[simp] theorem modDomain_cam (d : Nat) (g : Domain → Domain) : (modDomain d g s).cam = s.cam := rfl
@[simp] theorem modDomain_port (d : Nat) (g : Domain → Domain) : (modDomain d g s).port = s.port := rfl
@[simp] theorem modDomain_capo (d : Nat) (g : Domain → Domain) : (modDomain d g s).capo = s.capo := rfl
@[simp] theorem modDomain_capoMore (d : Nat) (g : Domain → Domain) : (modDomain d g s).capoMore = s.capoMore := rfl
@[simp] theorem modDomain_saf (d : Nat) (g : Domain → Domain) : (modDomain d g s).saf = s.saf := rfl
@[simp] theorem modDomain_safMore (d : Nat) (g : Domain → Domain) : (modDomain d g s).safMore = s.safMore := rfl
@[simp] theorem modDomain_clk (d : Nat) (g : Domain → Domain) : (modDomain d g s).clk = s.clk := rfl
@[simp] theorem modDomain_pins (d : Nat) (g : Domain → Domain) : (modDomain d g s).pins = s.pins := rfl
@[simp] theorem modDomain_free (d : Nat) (g : Domain → Domain) : (modDomain d g s).free = s.free := rfl
@[simp] theorem modDomain_pending (d : Nat) (g : Domain → Domain) : (modDomain d g s).pending = s.pending := rfl

@[simp] theorem modFret_ident (i : Nat) (g : Fret → Fret) : (modFret i g s).ident = s.ident := rfl
@[simp] theorem modFret_now (i : Nat) (g : Fret → Fret) : (modFret i g s).now = s.now := rfl
@[simp] theorem modFret_mem (i : Nat) (g : Fret → Fret) : (modFret i g s).mem = s.mem := rfl
@[simp] theorem modFret_hif (i : Nat) (g : Fret → Fret) : (modFret i g s).hif = s.hif := rfl
@[simp] theorem modFret_irq (i : Nat) (g : Fret → Fret) : (modFret i g s).irq = s.irq := rfl
@[simp] theorem modFret_mmu (i : Nat) (g : Fret → Fret) : (modFret i g s).mmu = s.mmu := rfl
@[simp] theorem modFret_atn (i : Nat) (g : Fret → Fret) : (modFret i g s).atn = s.atn := rfl
@[simp] theorem modFret_stream (i : Nat) (g : Fret → Fret) : (modFret i g s).stream = s.stream := rfl
@[simp] theorem modFret_gcore (i : Nat) (g : Fret → Fret) : (modFret i g s).gcore = s.gcore := rfl
@[simp] theorem modFret_hints (i : Nat) (g : Fret → Fret) : (modFret i g s).hints = s.hints := rfl
@[simp] theorem modFret_wst (i : Nat) (g : Fret → Fret) : (modFret i g s).wst = s.wst := rfl
@[simp] theorem modFret_wstMore (i : Nat) (g : Fret → Fret) : (modFret i g s).wstMore = s.wstMore := rfl
@[simp] theorem modFret_sec (i : Nat) (g : Fret → Fret) : (modFret i g s).sec = s.sec := rfl
@[simp] theorem modFret_fwu (i : Nat) (g : Fret → Fret) : (modFret i g s).fwu = s.fwu := rfl
@[simp] theorem modFret_rst (i : Nat) (g : Fret → Fret) : (modFret i g s).rst = s.rst := rfl
@[simp] theorem modFret_drone (i : Nat) (g : Fret → Fret) : (modFret i g s).drone = s.drone := rfl
@[simp] theorem modFret_cam (i : Nat) (g : Fret → Fret) : (modFret i g s).cam = s.cam := rfl
@[simp] theorem modFret_pwr (i : Nat) (g : Fret → Fret) : (modFret i g s).pwr = s.pwr := rfl
@[simp] theorem modFret_port (i : Nat) (g : Fret → Fret) : (modFret i g s).port = s.port := rfl
@[simp] theorem modFret_capo (i : Nat) (g : Fret → Fret) : (modFret i g s).capo = s.capo := rfl
@[simp] theorem modFret_capoMore (i : Nat) (g : Fret → Fret) : (modFret i g s).capoMore = s.capoMore := rfl
@[simp] theorem modFret_saf (i : Nat) (g : Fret → Fret) : (modFret i g s).saf = s.saf := rfl
@[simp] theorem modFret_safMore (i : Nat) (g : Fret → Fret) : (modFret i g s).safMore = s.safMore := rfl
@[simp] theorem modFret_clk (i : Nat) (g : Fret → Fret) : (modFret i g s).clk = s.clk := rfl
@[simp] theorem modFret_pins (i : Nat) (g : Fret → Fret) : (modFret i g s).pins = s.pins := rfl
@[simp] theorem modFret_free (i : Nat) (g : Fret → Fret) : (modFret i g s).free = s.free := rfl
@[simp] theorem modFret_pending (i : Nat) (g : Fret → Fret) : (modFret i g s).pending = s.pending := rfl

@[simp] theorem modString_ident (j : Nat) (g : StringSt → StringSt) : (modString j g s).ident = s.ident := rfl
@[simp] theorem modString_now (j : Nat) (g : StringSt → StringSt) : (modString j g s).now = s.now := rfl
@[simp] theorem modString_mem (j : Nat) (g : StringSt → StringSt) : (modString j g s).mem = s.mem := rfl
@[simp] theorem modString_hif (j : Nat) (g : StringSt → StringSt) : (modString j g s).hif = s.hif := rfl
@[simp] theorem modString_irq (j : Nat) (g : StringSt → StringSt) : (modString j g s).irq = s.irq := rfl
@[simp] theorem modString_mmu (j : Nat) (g : StringSt → StringSt) : (modString j g s).mmu = s.mmu := rfl
@[simp] theorem modString_atn (j : Nat) (g : StringSt → StringSt) : (modString j g s).atn = s.atn := rfl
@[simp] theorem modString_stream (j : Nat) (g : StringSt → StringSt) : (modString j g s).stream = s.stream := rfl
@[simp] theorem modString_gcore (j : Nat) (g : StringSt → StringSt) : (modString j g s).gcore = s.gcore := rfl
@[simp] theorem modString_hints (j : Nat) (g : StringSt → StringSt) : (modString j g s).hints = s.hints := rfl
@[simp] theorem modString_wst (j : Nat) (g : StringSt → StringSt) : (modString j g s).wst = s.wst := rfl
@[simp] theorem modString_wstMore (j : Nat) (g : StringSt → StringSt) : (modString j g s).wstMore = s.wstMore := rfl
@[simp] theorem modString_sec (j : Nat) (g : StringSt → StringSt) : (modString j g s).sec = s.sec := rfl
@[simp] theorem modString_fwu (j : Nat) (g : StringSt → StringSt) : (modString j g s).fwu = s.fwu := rfl
@[simp] theorem modString_rst (j : Nat) (g : StringSt → StringSt) : (modString j g s).rst = s.rst := rfl
@[simp] theorem modString_drone (j : Nat) (g : StringSt → StringSt) : (modString j g s).drone = s.drone := rfl
@[simp] theorem modString_cam (j : Nat) (g : StringSt → StringSt) : (modString j g s).cam = s.cam := rfl
@[simp] theorem modString_pwr (j : Nat) (g : StringSt → StringSt) : (modString j g s).pwr = s.pwr := rfl
@[simp] theorem modString_port (j : Nat) (g : StringSt → StringSt) : (modString j g s).port = s.port := rfl
@[simp] theorem modString_capo (j : Nat) (g : StringSt → StringSt) : (modString j g s).capo = s.capo := rfl
@[simp] theorem modString_capoMore (j : Nat) (g : StringSt → StringSt) : (modString j g s).capoMore = s.capoMore := rfl
@[simp] theorem modString_saf (j : Nat) (g : StringSt → StringSt) : (modString j g s).saf = s.saf := rfl
@[simp] theorem modString_safMore (j : Nat) (g : StringSt → StringSt) : (modString j g s).safMore = s.safMore := rfl
@[simp] theorem modString_clk (j : Nat) (g : StringSt → StringSt) : (modString j g s).clk = s.clk := rfl
@[simp] theorem modString_pins (j : Nat) (g : StringSt → StringSt) : (modString j g s).pins = s.pins := rfl
@[simp] theorem modString_free (j : Nat) (g : StringSt → StringSt) : (modString j g s).free = s.free := rfl
@[simp] theorem modString_pending (j : Nat) (g : StringSt → StringSt) : (modString j g s).pending = s.pending := rfl

@[simp] theorem tick_ident : (tick s).ident = s.ident := rfl
@[simp] theorem tick_mem : (tick s).mem = s.mem := rfl
@[simp] theorem tick_hif : (tick s).hif = s.hif := rfl
@[simp] theorem tick_irq : (tick s).irq = s.irq := rfl
@[simp] theorem tick_mmu : (tick s).mmu = s.mmu := rfl
@[simp] theorem tick_atn : (tick s).atn = s.atn := rfl
@[simp] theorem tick_bow : (tick s).bow = s.bow := rfl
@[simp] theorem tick_stream : (tick s).stream = s.stream := rfl
@[simp] theorem tick_gcore : (tick s).gcore = s.gcore := rfl
@[simp] theorem tick_hints : (tick s).hints = s.hints := rfl
@[simp] theorem tick_wst : (tick s).wst = s.wst := rfl
@[simp] theorem tick_wstMore : (tick s).wstMore = s.wstMore := rfl
@[simp] theorem tick_sec : (tick s).sec = s.sec := rfl
@[simp] theorem tick_fwu : (tick s).fwu = s.fwu := rfl
@[simp] theorem tick_rst : (tick s).rst = s.rst := rfl
@[simp] theorem tick_drone : (tick s).drone = s.drone := rfl
@[simp] theorem tick_cam : (tick s).cam = s.cam := rfl
@[simp] theorem tick_pwr : (tick s).pwr = s.pwr := rfl
@[simp] theorem tick_port : (tick s).port = s.port := rfl
@[simp] theorem tick_capo : (tick s).capo = s.capo := rfl
@[simp] theorem tick_capoMore : (tick s).capoMore = s.capoMore := rfl
@[simp] theorem tick_saf : (tick s).saf = s.saf := rfl
@[simp] theorem tick_safMore : (tick s).safMore = s.safMore := rfl
@[simp] theorem tick_clk : (tick s).clk = s.clk := rfl
@[simp] theorem tick_pins : (tick s).pins = s.pins := rfl
@[simp] theorem tick_free : (tick s).free = s.free := rfl
@[simp] theorem tick_pending : (tick s).pending = s.pending := rfl

@[simp] theorem modBind_ident (k : Nat) (g : Bind → Bind) : (modBind k g s).ident = s.ident := rfl
@[simp] theorem modBind_now (k : Nat) (g : Bind → Bind) : (modBind k g s).now = s.now := rfl
@[simp] theorem modBind_mem (k : Nat) (g : Bind → Bind) : (modBind k g s).mem = s.mem := rfl
@[simp] theorem modBind_hif (k : Nat) (g : Bind → Bind) : (modBind k g s).hif = s.hif := rfl
@[simp] theorem modBind_irq (k : Nat) (g : Bind → Bind) : (modBind k g s).irq = s.irq := rfl
@[simp] theorem modBind_mmu (k : Nat) (g : Bind → Bind) : (modBind k g s).mmu = s.mmu := rfl
@[simp] theorem modBind_atn (k : Nat) (g : Bind → Bind) : (modBind k g s).atn = s.atn := rfl
@[simp] theorem modBind_bow (k : Nat) (g : Bind → Bind) : (modBind k g s).bow = s.bow := rfl
@[simp] theorem modBind_stream (k : Nat) (g : Bind → Bind) : (modBind k g s).stream = s.stream := rfl
@[simp] theorem modBind_gcore (k : Nat) (g : Bind → Bind) : (modBind k g s).gcore = s.gcore := rfl
@[simp] theorem modBind_hints (k : Nat) (g : Bind → Bind) : (modBind k g s).hints = s.hints := rfl
@[simp] theorem modBind_wst (k : Nat) (g : Bind → Bind) : (modBind k g s).wst = s.wst := rfl
@[simp] theorem modBind_wstMore (k : Nat) (g : Bind → Bind) : (modBind k g s).wstMore = s.wstMore := rfl
@[simp] theorem modBind_sec (k : Nat) (g : Bind → Bind) : (modBind k g s).sec = s.sec := rfl
@[simp] theorem modBind_fwu (k : Nat) (g : Bind → Bind) : (modBind k g s).fwu = s.fwu := rfl
@[simp] theorem modBind_rst (k : Nat) (g : Bind → Bind) : (modBind k g s).rst = s.rst := rfl
@[simp] theorem modBind_drone (k : Nat) (g : Bind → Bind) : (modBind k g s).drone = s.drone := rfl
@[simp] theorem modBind_pwr (k : Nat) (g : Bind → Bind) : (modBind k g s).pwr = s.pwr := rfl
@[simp] theorem modBind_port (k : Nat) (g : Bind → Bind) : (modBind k g s).port = s.port := rfl
@[simp] theorem modBind_capo (k : Nat) (g : Bind → Bind) : (modBind k g s).capo = s.capo := rfl
@[simp] theorem modBind_capoMore (k : Nat) (g : Bind → Bind) : (modBind k g s).capoMore = s.capoMore := rfl
@[simp] theorem modBind_saf (k : Nat) (g : Bind → Bind) : (modBind k g s).saf = s.saf := rfl
@[simp] theorem modBind_safMore (k : Nat) (g : Bind → Bind) : (modBind k g s).safMore = s.safMore := rfl
@[simp] theorem modBind_clk (k : Nat) (g : Bind → Bind) : (modBind k g s).clk = s.clk := rfl
@[simp] theorem modBind_pins (k : Nat) (g : Bind → Bind) : (modBind k g s).pins = s.pins := rfl
@[simp] theorem modBind_free (k : Nat) (g : Bind → Bind) : (modBind k g s).free = s.free := rfl
@[simp] theorem modBind_pending (k : Nat) (g : Bind → Bind) : (modBind k g s).pending = s.pending := rfl

@[simp] theorem modCamPort_ident (p : Nat) (g : CamPort → CamPort) : (modCamPort p g s).ident = s.ident := rfl
@[simp] theorem modCamPort_now (p : Nat) (g : CamPort → CamPort) : (modCamPort p g s).now = s.now := rfl
@[simp] theorem modCamPort_mem (p : Nat) (g : CamPort → CamPort) : (modCamPort p g s).mem = s.mem := rfl
@[simp] theorem modCamPort_hif (p : Nat) (g : CamPort → CamPort) : (modCamPort p g s).hif = s.hif := rfl
@[simp] theorem modCamPort_irq (p : Nat) (g : CamPort → CamPort) : (modCamPort p g s).irq = s.irq := rfl
@[simp] theorem modCamPort_mmu (p : Nat) (g : CamPort → CamPort) : (modCamPort p g s).mmu = s.mmu := rfl
@[simp] theorem modCamPort_atn (p : Nat) (g : CamPort → CamPort) : (modCamPort p g s).atn = s.atn := rfl
@[simp] theorem modCamPort_bow (p : Nat) (g : CamPort → CamPort) : (modCamPort p g s).bow = s.bow := rfl
@[simp] theorem modCamPort_stream (p : Nat) (g : CamPort → CamPort) : (modCamPort p g s).stream = s.stream := rfl
@[simp] theorem modCamPort_gcore (p : Nat) (g : CamPort → CamPort) : (modCamPort p g s).gcore = s.gcore := rfl
@[simp] theorem modCamPort_hints (p : Nat) (g : CamPort → CamPort) : (modCamPort p g s).hints = s.hints := rfl
@[simp] theorem modCamPort_wst (p : Nat) (g : CamPort → CamPort) : (modCamPort p g s).wst = s.wst := rfl
@[simp] theorem modCamPort_wstMore (p : Nat) (g : CamPort → CamPort) : (modCamPort p g s).wstMore = s.wstMore := rfl
@[simp] theorem modCamPort_sec (p : Nat) (g : CamPort → CamPort) : (modCamPort p g s).sec = s.sec := rfl
@[simp] theorem modCamPort_fwu (p : Nat) (g : CamPort → CamPort) : (modCamPort p g s).fwu = s.fwu := rfl
@[simp] theorem modCamPort_rst (p : Nat) (g : CamPort → CamPort) : (modCamPort p g s).rst = s.rst := rfl
@[simp] theorem modCamPort_drone (p : Nat) (g : CamPort → CamPort) : (modCamPort p g s).drone = s.drone := rfl
@[simp] theorem modCamPort_pwr (p : Nat) (g : CamPort → CamPort) : (modCamPort p g s).pwr = s.pwr := rfl
@[simp] theorem modCamPort_port (p : Nat) (g : CamPort → CamPort) : (modCamPort p g s).port = s.port := rfl
@[simp] theorem modCamPort_capo (p : Nat) (g : CamPort → CamPort) : (modCamPort p g s).capo = s.capo := rfl
@[simp] theorem modCamPort_capoMore (p : Nat) (g : CamPort → CamPort) : (modCamPort p g s).capoMore = s.capoMore := rfl
@[simp] theorem modCamPort_saf (p : Nat) (g : CamPort → CamPort) : (modCamPort p g s).saf = s.saf := rfl
@[simp] theorem modCamPort_safMore (p : Nat) (g : CamPort → CamPort) : (modCamPort p g s).safMore = s.safMore := rfl
@[simp] theorem modCamPort_clk (p : Nat) (g : CamPort → CamPort) : (modCamPort p g s).clk = s.clk := rfl
@[simp] theorem modCamPort_pins (p : Nat) (g : CamPort → CamPort) : (modCamPort p g s).pins = s.pins := rfl
@[simp] theorem modCamPort_free (p : Nat) (g : CamPort → CamPort) : (modCamPort p g s).free = s.free := rfl
@[simp] theorem modCamPort_pending (p : Nat) (g : CamPort → CamPort) : (modCamPort p g s).pending = s.pending := rfl

@[simp] theorem modSession_ident (f k : Nat) (g : Session → Session) : (modSession f k g s).ident = s.ident := rfl
@[simp] theorem modSession_now (f k : Nat) (g : Session → Session) : (modSession f k g s).now = s.now := rfl
@[simp] theorem modSession_mem (f k : Nat) (g : Session → Session) : (modSession f k g s).mem = s.mem := rfl
@[simp] theorem modSession_hif (f k : Nat) (g : Session → Session) : (modSession f k g s).hif = s.hif := rfl
@[simp] theorem modSession_irq (f k : Nat) (g : Session → Session) : (modSession f k g s).irq = s.irq := rfl
@[simp] theorem modSession_mmu (f k : Nat) (g : Session → Session) : (modSession f k g s).mmu = s.mmu := rfl
@[simp] theorem modSession_bow (f k : Nat) (g : Session → Session) : (modSession f k g s).bow = s.bow := rfl
@[simp] theorem modSession_stream (f k : Nat) (g : Session → Session) : (modSession f k g s).stream = s.stream := rfl
@[simp] theorem modSession_gcore (f k : Nat) (g : Session → Session) : (modSession f k g s).gcore = s.gcore := rfl
@[simp] theorem modSession_hints (f k : Nat) (g : Session → Session) : (modSession f k g s).hints = s.hints := rfl
@[simp] theorem modSession_wst (f k : Nat) (g : Session → Session) : (modSession f k g s).wst = s.wst := rfl
@[simp] theorem modSession_wstMore (f k : Nat) (g : Session → Session) : (modSession f k g s).wstMore = s.wstMore := rfl
@[simp] theorem modSession_sec (f k : Nat) (g : Session → Session) : (modSession f k g s).sec = s.sec := rfl
@[simp] theorem modSession_fwu (f k : Nat) (g : Session → Session) : (modSession f k g s).fwu = s.fwu := rfl
@[simp] theorem modSession_rst (f k : Nat) (g : Session → Session) : (modSession f k g s).rst = s.rst := rfl
@[simp] theorem modSession_drone (f k : Nat) (g : Session → Session) : (modSession f k g s).drone = s.drone := rfl
@[simp] theorem modSession_cam (f k : Nat) (g : Session → Session) : (modSession f k g s).cam = s.cam := rfl
@[simp] theorem modSession_pwr (f k : Nat) (g : Session → Session) : (modSession f k g s).pwr = s.pwr := rfl
@[simp] theorem modSession_port (f k : Nat) (g : Session → Session) : (modSession f k g s).port = s.port := rfl
@[simp] theorem modSession_capo (f k : Nat) (g : Session → Session) : (modSession f k g s).capo = s.capo := rfl
@[simp] theorem modSession_capoMore (f k : Nat) (g : Session → Session) : (modSession f k g s).capoMore = s.capoMore := rfl
@[simp] theorem modSession_saf (f k : Nat) (g : Session → Session) : (modSession f k g s).saf = s.saf := rfl
@[simp] theorem modSession_safMore (f k : Nat) (g : Session → Session) : (modSession f k g s).safMore = s.safMore := rfl
@[simp] theorem modSession_clk (f k : Nat) (g : Session → Session) : (modSession f k g s).clk = s.clk := rfl
@[simp] theorem modSession_pins (f k : Nat) (g : Session → Session) : (modSession f k g s).pins = s.pins := rfl
@[simp] theorem modSession_free (f k : Nat) (g : Session → Session) : (modSession f k g s).free = s.free := rfl
@[simp] theorem modSession_pending (f k : Nat) (g : Session → Session) : (modSession f k g s).pending = s.pending := rfl

@[simp] theorem setPass_ident (p : Nat) (g : Pass → Pass) : (setPass p g s).ident = s.ident := rfl
@[simp] theorem setPass_now (p : Nat) (g : Pass → Pass) : (setPass p g s).now = s.now := rfl
@[simp] theorem setPass_mem (p : Nat) (g : Pass → Pass) : (setPass p g s).mem = s.mem := rfl
@[simp] theorem setPass_hif (p : Nat) (g : Pass → Pass) : (setPass p g s).hif = s.hif := rfl
@[simp] theorem setPass_irq (p : Nat) (g : Pass → Pass) : (setPass p g s).irq = s.irq := rfl
@[simp] theorem setPass_mmu (p : Nat) (g : Pass → Pass) : (setPass p g s).mmu = s.mmu := rfl
@[simp] theorem setPass_atn (p : Nat) (g : Pass → Pass) : (setPass p g s).atn = s.atn := rfl
@[simp] theorem setPass_bow (p : Nat) (g : Pass → Pass) : (setPass p g s).bow = s.bow := rfl
@[simp] theorem setPass_gcore (p : Nat) (g : Pass → Pass) : (setPass p g s).gcore = s.gcore := rfl
@[simp] theorem setPass_hints (p : Nat) (g : Pass → Pass) : (setPass p g s).hints = s.hints := rfl
@[simp] theorem setPass_wst (p : Nat) (g : Pass → Pass) : (setPass p g s).wst = s.wst := rfl
@[simp] theorem setPass_wstMore (p : Nat) (g : Pass → Pass) : (setPass p g s).wstMore = s.wstMore := rfl
@[simp] theorem setPass_sec (p : Nat) (g : Pass → Pass) : (setPass p g s).sec = s.sec := rfl
@[simp] theorem setPass_fwu (p : Nat) (g : Pass → Pass) : (setPass p g s).fwu = s.fwu := rfl
@[simp] theorem setPass_rst (p : Nat) (g : Pass → Pass) : (setPass p g s).rst = s.rst := rfl
@[simp] theorem setPass_drone (p : Nat) (g : Pass → Pass) : (setPass p g s).drone = s.drone := rfl
@[simp] theorem setPass_cam (p : Nat) (g : Pass → Pass) : (setPass p g s).cam = s.cam := rfl
@[simp] theorem setPass_pwr (p : Nat) (g : Pass → Pass) : (setPass p g s).pwr = s.pwr := rfl
@[simp] theorem setPass_port (p : Nat) (g : Pass → Pass) : (setPass p g s).port = s.port := rfl
@[simp] theorem setPass_capo (p : Nat) (g : Pass → Pass) : (setPass p g s).capo = s.capo := rfl
@[simp] theorem setPass_capoMore (p : Nat) (g : Pass → Pass) : (setPass p g s).capoMore = s.capoMore := rfl
@[simp] theorem setPass_saf (p : Nat) (g : Pass → Pass) : (setPass p g s).saf = s.saf := rfl
@[simp] theorem setPass_safMore (p : Nat) (g : Pass → Pass) : (setPass p g s).safMore = s.safMore := rfl
@[simp] theorem setPass_clk (p : Nat) (g : Pass → Pass) : (setPass p g s).clk = s.clk := rfl
@[simp] theorem setPass_pins (p : Nat) (g : Pass → Pass) : (setPass p g s).pins = s.pins := rfl
@[simp] theorem setPass_free (p : Nat) (g : Pass → Pass) : (setPass p g s).free = s.free := rfl
@[simp] theorem setPass_pending (p : Nat) (g : Pass → Pass) : (setPass p g s).pending = s.pending := rfl

@[simp] theorem stageDone_ident (k : Nat) (l : List Seg) (r : Nat) : (stageDone k l r s).ident = s.ident := rfl
@[simp] theorem stageDone_now (k : Nat) (l : List Seg) (r : Nat) : (stageDone k l r s).now = s.now := rfl
@[simp] theorem stageDone_mem (k : Nat) (l : List Seg) (r : Nat) : (stageDone k l r s).mem = s.mem := rfl
@[simp] theorem stageDone_irq (k : Nat) (l : List Seg) (r : Nat) : (stageDone k l r s).irq = s.irq := rfl
@[simp] theorem stageDone_mmu (k : Nat) (l : List Seg) (r : Nat) : (stageDone k l r s).mmu = s.mmu := rfl
@[simp] theorem stageDone_atn (k : Nat) (l : List Seg) (r : Nat) : (stageDone k l r s).atn = s.atn := rfl
@[simp] theorem stageDone_bow (k : Nat) (l : List Seg) (r : Nat) : (stageDone k l r s).bow = s.bow := rfl
@[simp] theorem stageDone_stream (k : Nat) (l : List Seg) (r : Nat) : (stageDone k l r s).stream = s.stream := rfl
@[simp] theorem stageDone_gcore (k : Nat) (l : List Seg) (r : Nat) : (stageDone k l r s).gcore = s.gcore := rfl
@[simp] theorem stageDone_hints (k : Nat) (l : List Seg) (r : Nat) : (stageDone k l r s).hints = s.hints := rfl
@[simp] theorem stageDone_wst (k : Nat) (l : List Seg) (r : Nat) : (stageDone k l r s).wst = s.wst := rfl
@[simp] theorem stageDone_wstMore (k : Nat) (l : List Seg) (r : Nat) : (stageDone k l r s).wstMore = s.wstMore := rfl
@[simp] theorem stageDone_sec (k : Nat) (l : List Seg) (r : Nat) : (stageDone k l r s).sec = s.sec := rfl
@[simp] theorem stageDone_fwu (k : Nat) (l : List Seg) (r : Nat) : (stageDone k l r s).fwu = s.fwu := rfl
@[simp] theorem stageDone_rst (k : Nat) (l : List Seg) (r : Nat) : (stageDone k l r s).rst = s.rst := rfl
@[simp] theorem stageDone_drone (k : Nat) (l : List Seg) (r : Nat) : (stageDone k l r s).drone = s.drone := rfl
@[simp] theorem stageDone_cam (k : Nat) (l : List Seg) (r : Nat) : (stageDone k l r s).cam = s.cam := rfl
@[simp] theorem stageDone_pwr (k : Nat) (l : List Seg) (r : Nat) : (stageDone k l r s).pwr = s.pwr := rfl
@[simp] theorem stageDone_port (k : Nat) (l : List Seg) (r : Nat) : (stageDone k l r s).port = s.port := rfl
@[simp] theorem stageDone_capo (k : Nat) (l : List Seg) (r : Nat) : (stageDone k l r s).capo = s.capo := rfl
@[simp] theorem stageDone_capoMore (k : Nat) (l : List Seg) (r : Nat) : (stageDone k l r s).capoMore = s.capoMore := rfl
@[simp] theorem stageDone_saf (k : Nat) (l : List Seg) (r : Nat) : (stageDone k l r s).saf = s.saf := rfl
@[simp] theorem stageDone_safMore (k : Nat) (l : List Seg) (r : Nat) : (stageDone k l r s).safMore = s.safMore := rfl
@[simp] theorem stageDone_clk (k : Nat) (l : List Seg) (r : Nat) : (stageDone k l r s).clk = s.clk := rfl
@[simp] theorem stageDone_pins (k : Nat) (l : List Seg) (r : Nat) : (stageDone k l r s).pins = s.pins := rfl
@[simp] theorem stageDone_free (k : Nat) (l : List Seg) (r : Nat) : (stageDone k l r s).free = s.free := rfl
@[simp] theorem stageDone_pending (k : Nat) (l : List Seg) (r : Nat) : (stageDone k l r s).pending = s.pending := rfl

/-! ## Answers -/

@[simp] theorem ok_eq (s : State) : ok s = .next s := rfl
theorem unit_eq {n k : Nat} {r : Res} (h : n < k) : unit n k r = r := if_pos h
theorem when_eq {c : Bool} {f : State → State} (h : c = true) : when c f s = f s := if_pos h
theorem regWrite_eq {f b : Nat} {r : Res} (h : Writable s f b) : regWrite f b s r = r := by
  unfold regWrite; rw [unit_eq h.1]; simp only [h.2.1, h.2.2, Bool.not_false, Bool.and_true, if_true]
theorem runReady_eq {id op : Nat} {c : Cmd} {f : Cmd → State → State} (h : ReadyAs s id op c) : runReady id op f s = f c s := by
  unfold runReady; rw [h.1]; exact if_pos ⟨h.2.1, h.2.2.1, h.2.2.2.1, h.2.2.2.2⟩
theorem Answers.intro {i : Instr} {P : State → Prop} {t : State} (h : exec i s = .next t) (p : P t) : Answers i s P := ⟨t, h, p⟩
theorem ringOp_eq {f r : Nat} {held : Bool} {g : Nat → State → State} (h : Selects s f r) (k : held = true ∨ r ∉ heldRings s) :
    ringOp f held g s = .next (g r s) := by
  unfold ringOp; rw [unit_eq h.1, ok_eq]
  simp only [h.2.1, h.2.2.1, h.2.2.2, Bool.true_and, Bool.and_true]
  rcases k with k | k <;> simp [k]

/-! ## Elements of a list -/

theorem getD_modAt {α : Type} {i : Nat} {f : α → α} {l : List α} {d : α} (h : i < l.length) :
    (modAt i f l).getD i d = f (l.getD i d) := by
  induction l generalizing i with
  | nil => simp at h
  | cons x l ih => cases i with
    | zero => simp [modAt]
    | succ n => simp only [modAt, List.getD_cons_succ]; exact ih (by simpa using h)
theorem getD_modAt_ne {α : Type} {i j : Nat} {f : α → α} {l : List α} {d : α} (h : j ≠ i) :
    (modAt i f l).getD j d = l.getD j d := by
  induction l generalizing i j with
  | nil => simp [modAt]
  | cons x l ih => cases i with
    | zero => cases j with
      | zero => exact absurd rfl h
      | succ m => simp [modAt]
    | succ n => cases j with
      | zero => simp [modAt]
      | succ m => simp only [modAt, List.getD_cons_succ]; exact ih (by omega)

end Sys2Proof.Laws
end

