-- ==== Sys2Proof/Laws/Frame.lean ====
section
/-! SUPPORT. Laws/Frame.lean: what scheduling work leaves alone. Each shared operation of the bow and of the stream engine
changes only the accepted commands, the bow, the stream engine, the general cores, device memory and the draws. -/

set_option Elab.async false

namespace Sys2Proof
open Sys2Proof.Machine Sys2Proof.Laws

variable {s t u : State}

theorem Machine.BowOnly.refl (s : State) : BowOnly s s := rfl

theorem Machine.BowOnly.trans (h : BowOnly s t) (k : BowOnly t u) : BowOnly s u := by
  unfold BowOnly at *; rw [k, h]

theorem Machine.BowOnly.foldl {α : Type} {f : State → α → State} {l : List α} (h : BowOnly s t) (k : ∀ s a, BowOnly s (f s a)) :
    BowOnly s (l.foldl f t) := by
  induction l generalizing t with
  | nil => exact h
  | cons a l ih => exact ih (h.trans (k t a))

theorem Laws.bowOnly_modCmd {i : Nat} {g : Cmd → Cmd} : BowOnly s (modCmd i g s) := rfl
theorem Laws.bowOnly_stageDone {i r : Nat} {l : List Seg} : BowOnly s (stageDone i l r s) := rfl
theorem Laws.bowOnly_drawn {n : Nat} : BowOnly s (drawn n s) := rfl
theorem Laws.bowOnly_zeroDev {a n : Nat} : BowOnly s (zeroDev a n s) := rfl
theorem Laws.bowOnly_writeDev {a : Nat} {b : Bytes} : BowOnly s (writeBytes .dev a b s) := rfl
theorem Laws.bowOnly_endThreads {i : Nat} : BowOnly s (endThreads i s) := rfl
theorem Laws.bowOnly_endRuns {i : Nat} : BowOnly s (endRuns i s) := rfl
theorem Laws.bowOnly_setPass {p : Nat} {g : Pass → Pass} : BowOnly s (setPass p g s) := rfl
theorem Laws.bowOnly_freeFrets {r : Run} : BowOnly s (freeFrets r s) := rfl
theorem Laws.bowOnly_charge {f p c : Nat} : BowOnly s (charge f p c s) := rfl
theorem Laws.bowOnly_releaseIn {p : Pass} : BowOnly s (releaseIn s p) := rfl

theorem Laws.bowOnly_joinLevel {f p : Nat} : BowOnly s (joinLevel f p s) := by unfold joinLevel; split <;> rfl
theorem Laws.bowOnly_startWork {c : Cmd} {l : List Seg} {r : Nat} {w : List Work} : BowOnly s (startWork c l r w s) := by
  unfold startWork; split
  · rfl
  · exact bowOnly_joinLevel.trans bowOnly_modCmd
theorem Laws.bowOnly_requeue {i : Nat} {r : Retry} : BowOnly s (requeue i r s) := by
  unfold requeue; split
  · rfl
  · exact bowOnly_joinLevel.trans bowOnly_modCmd
theorem Laws.bowOnly_rerunQuietly {r : Run} : BowOnly s (rerunQuietly r s) := by
  unfold rerunQuietly; exact (bowOnly_freeFrets.trans bowOnly_endThreads).trans bowOnly_requeue
theorem Laws.bowOnly_freeRun {b : Bool} {r : Run} : BowOnly s (freeRun b r s) := rfl
theorem Laws.bowOnly_leaveArray {i : Nat} {x : ArrayEnd} : BowOnly s (leaveArray i x s) := rfl
theorem Laws.bowOnly_leaveArrays {l : List Nat} {xs : List ArrayEnd} : BowOnly s (leaveArrays l xs s) :=
  BowOnly.foldl (BowOnly.refl s) (fun _ _ => bowOnly_leaveArray)
theorem Laws.bowOnly_clearArrays {l : List Nat} : BowOnly s (clearArrays l s) := BowOnly.foldl (BowOnly.refl s) (fun _ _ => rfl)
theorem Laws.bowOnly_leaveArea {r : List Nat} {l : Bytes} : BowOnly s (leaveArea r l s) := by
  unfold leaveArea; split
  · rfl
  · exact BowOnly.foldl (BowOnly.refl s) (fun _ _ => bowOnly_writeDev)
theorem Laws.bowOnly_leaveStages {r : Run} {p : List StagePlan} : BowOnly s (leaveStages r p s) :=
  BowOnly.foldl (BowOnly.refl s) (fun _ _ => bowOnly_leaveArrays.trans bowOnly_leaveArea)
theorem Laws.bowOnly_endSlice {r : Run} {n : Nat} : BowOnly s (endSlice r n s) := by
  unfold endSlice; split
  · exact bowOnly_freeFrets
  · rename_i c _
    extract_lets w k more s1
    have h : BowOnly s s1 := (((bowOnly_freeRun.trans bowOnly_leaveArrays).trans bowOnly_charge).trans bowOnly_leaveArea).trans bowOnly_leaveStages
    clear_value s1
    split
    · exact (h.trans bowOnly_joinLevel).trans bowOnly_modCmd
    · refine BowOnly.trans ?_ bowOnly_modCmd
      split
      · exact h
      · exact h.trans bowOnly_joinLevel
theorem Laws.bowOnly_evictHot {e : Nat} : BowOnly s (evictHot e s) := by
  unfold evictHot; split
  · rfl
  · exact (BowOnly.foldl (BowOnly.refl s) (fun _ _ => bowOnly_zeroDev)).trans rfl
theorem Laws.bowOnly_evictThen {o : Option Nat} {e : Nat} {next : State → State × Option (List Nat)}
    (h : ∀ {s : State}, BowOnly s (next s).1) : BowOnly s (evictThen o e next s).1 := by
  unfold evictThen; split
  · rfl
  · exact bowOnly_evictHot.trans h
theorem Laws.bowOnly_makeRoom {e need n : Nat} : BowOnly s (makeRoom e need n s).1 := by
  induction n generalizing s with
  | zero => rfl
  | succ n ih =>
    unfold makeRoom roomStep
    split
    · split
      · exact bowOnly_evictThen ih
      · rfl
    · exact bowOnly_evictThen ih
theorem Laws.bowOnly_startSwitch {e : Nat} : BowOnly s (startSwitch e s) := by
  unfold startSwitch; split
  · rfl
  · rename_i h _
    split
    · rfl
    · have m : BowOnly s (makeRoom e h.bytes (s.bow.hot.length + 1) s).1 := bowOnly_makeRoom
      split
      · rfl
      · rename_i q; rw [q] at m; exact m.trans rfl
theorem Laws.bowOnly_startSwitches : BowOnly s (startSwitches s) := by
  unfold startSwitches
  refine BowOnly.foldl (BowOnly.foldl (BowOnly.refl s) (fun _ _ => bowOnly_startSwitch)) (fun s e => ?_)
  split
  · rfl
  · split
    · exact bowOnly_startSwitch
    · rfl
theorem Laws.bowOnly_startThreads {c : Cmd} {l : List Nat} : BowOnly s (startThreads c l s) := by
  unfold startThreads; split
  · rfl
  · have h : BowOnly s (l.foldl (fun t i => writeBytes .dev (workBase i) (gcoreCode c) t) (endThreads c.id s)) :=
      BowOnly.foldl bowOnly_endThreads (fun _ _ => bowOnly_writeDev)
    exact h.trans rfl
theorem Laws.bowOnly_startSlice {c : Cmd} {i : Nat} : BowOnly s (startSlice c i s) := by
  unfold startSlice; split
  · rfl
  · refine BowOnly.trans ?_ bowOnly_startThreads; rfl
theorem Laws.bowOnly_modJob {n : Nat} {b : Bool} {g : SafJob → SafJob} : BowOnly s (modJob n b g s) := rfl
theorem Laws.bowOnly_dispatchAt {b : Bool} {i : Nat} : BowOnly s (dispatchAt b s i) := by
  unfold dispatchAt; split
  · rfl
  · split
    · rfl
    · exact bowOnly_startSlice
theorem Laws.bowOnly_unqueue {i : Nat} : BowOnly s (unqueue s i) := by
  unfold unqueue; split <;> rfl
theorem Laws.bowOnly_unqueueAll : BowOnly s (unqueueAll s) := by
  unfold unqueueAll; split
  · exact BowOnly.foldl (BowOnly.refl s) (fun _ _ => bowOnly_unqueue)
  · exact BowOnly.foldl (BowOnly.refl s) (fun _ _ => bowOnly_unqueue)
theorem Laws.bowOnly_dispatch : BowOnly s (dispatch s) := by
  unfold dispatch dispatchFrets
  refine BowOnly.foldl ((bowOnly_startSwitches.trans bowOnly_unqueueAll).trans (by exact rfl)) (fun s i => ?_)
  unfold dispatchOn; split
  · exact bowOnly_modJob
  · exact bowOnly_dispatchAt.trans bowOnly_dispatchAt

theorem Laws.bowOnly_addUsed {p : Nat} {f : Pass → List (Nat × Nat × Nat)} : BowOnly s (addUsed p f s) := rfl
theorem Laws.bowOnly_markUsed {c : Cmd} : BowOnly s (markUsed c s) := BowOnly.foldl (BowOnly.refl s) (fun _ _ => bowOnly_addUsed)
theorem Laws.bowOnly_sweepStrings : BowOnly s (sweepStrings s) := BowOnly.foldl (BowOnly.refl s) (fun _ _ => rfl)
theorem Laws.bowOnly_joinOrOpen {m : Member} {i : Image} {p : Placed} {f b k l n : Nat} {z : Bool} : BowOnly s (joinOrOpen m i f p b k l n z s).1 := by
  unfold joinOrOpen; split <;> rfl
theorem Laws.bowOnly_passForOperator {c : Cmd} {i : Image} {x : Config.TensorInfo} : BowOnly s (passForOperator c i x s).1 := by
  unfold passForOperator; simp only
  split
  · rfl
  · exact bowOnly_joinOrOpen
theorem Laws.bowOnly_bindStream {i : Nat} {m : Image} {x : Config.TensorInfo} : BowOnly s (bindStream i m x s) := by
  unfold bindStream; split
  · rfl
  · split
    · rfl
    · extract_lets e s1 r
      have h : BowOnly s s1 := by
        dsimp only [s1]; split <;> rfl
      have k : BowOnly s1 r.1 := bowOnly_passForOperator
      clear_value s1
      split
      · exact h
      · exact (h.trans k).trans bowOnly_modCmd
theorem Laws.bowOnly_streamHot {c : Cmd} : BowOnly s (streamHot c s) := by
  unfold streamHot; dsimp only; split
  · rfl
  · exact BowOnly.foldl bowOnly_modCmd (fun _ _ => bowOnly_bindStream)
theorem Laws.bowOnly_settleHot : BowOnly s (settleHot s) := by
  unfold settleHot
  exact BowOnly.foldl (BowOnly.foldl (BowOnly.refl s) (fun _ _ => bowOnly_evictHot)) (fun _ _ => bowOnly_streamHot)
theorem Laws.bowOnly_stream {x : Stream} (h : BowOnly s t) : BowOnly s { t with stream := x } := by
  unfold BowOnly at *; rw [h]
theorem Laws.bowOnly_settleStream : BowOnly s (settleStream s) := by
  unfold settleStream
  extract_lets s0 s1 s2 doneIds s3 left
  have h0 : BowOnly s s0 := bowOnly_sweepStrings.trans bowOnly_settleHot
  have h1 : BowOnly s s1 := BowOnly.foldl h0 (fun _ _ => bowOnly_markUsed)
  have h2 : BowOnly s s2 := BowOnly.foldl h1 (fun _ _ => bowOnly_releaseIn)
  refine Laws.bowOnly_stream ?_
  clear_value s2
  refine BowOnly.foldl h2 (fun t i => ?_)
  split
  · rfl
  · split
    · exact bowOnly_stageDone
    · rfl
theorem Laws.bowOnly_settleDispatch : BowOnly s (settleDispatch s) := bowOnly_settleStream.trans bowOnly_dispatch

theorem Laws.bowOnly_bindWeights {c : Cmd} {i : Image} {x : Config.TensorInfo} : BowOnly s (bindWeights c i x s) := by
  unfold bindWeights; simp only
  split
  · rfl
  · exact bowOnly_modCmd.trans bowOnly_bindStream
theorem Laws.bowOnly_bindStage {c : Cmd} {x : Stage} : BowOnly s (bindStage c x s) := by
  unfold bindStage; split
  · rfl
  · split
    · rfl
    · exact bowOnly_bindWeights

/-! Pins of the migration cache (02_memory_tiers R57, R80). -/

theorem Laws.bowOnly_setSlot {n : Nat} {v : Option MigSlot} : BowOnly s (setSlot n v s) := rfl
theorem Laws.bowOnly_drainSlot {n : Nat} : BowOnly s (drainSlot n s) := by unfold drainSlot; split <;> rfl
theorem Laws.bowOnly_pinRegion {r : Nat} : BowOnly s (pinRegion s r) := by
  unfold pinRegion; split
  · rfl
  · split
    · rfl
    · split <;> rfl
theorem Laws.bowOnly_makeSlots {rs : List Nat} {n : Nat} : BowOnly s (makeSlots rs n s) := by
  induction n generalizing s with
  | zero => rfl
  | succ n ih =>
    unfold makeSlots; split
    · rfl
    · split
      · rfl
      · exact bowOnly_drainSlot.trans ih
theorem Laws.bowOnly_pinMore : BowOnly s (pinMore s) := by
  unfold pinMore
  refine BowOnly.foldl (BowOnly.refl s) (fun t c => ?_)
  extract_lets rs t1 t2 loaded
  clear_value loaded
  have k : BowOnly t (makeSlots (pinning t c) (pinning t c).length ((pinning t c).foldl pinRegion t)) :=
    (BowOnly.foldl (BowOnly.refl t) (fun _ _ => bowOnly_pinRegion)).trans bowOnly_makeSlots
  split
  · exact BowOnly.trans k bowOnly_stageDone
  · exact k

/-! The erasure of a debug unlock (16_security R513). -/

theorem Laws.bowOnly_zeroFretWeights {i : Nat} : BowOnly s (zeroFretWeights i s) := rfl
theorem Laws.bowOnly_zeroBuffer {i : Nat} : BowOnly s (zeroBuffer i s) := rfl
theorem Laws.bowOnly_fold {α : Type} {f : State → α → State} {l : List α} (h : ∀ s a, BowOnly s (f s a)) : BowOnly s (l.foldl f s) :=
  BowOnly.foldl (BowOnly.refl s) h
theorem Laws.bowOnly_zeroWeightRegions : BowOnly s (zeroWeightRegions s) := by
  unfold zeroWeightRegions
  generalize List.range 48 = l
  generalize List.range 4 = m
  refine Laws.bowOnly_stream ?_
  refine BowOnly.trans ?_ (Laws.bowOnly_fold (fun _ _ => Laws.bowOnly_zeroBuffer))
  refine BowOnly.trans ?_ (Laws.bowOnly_fold (fun _ _ => Laws.bowOnly_zeroFretWeights))
  refine BowOnly.trans ?_ (Laws.bowOnly_fold (fun _ _ => bowOnly_evictHot))
  split
  · exact BowOnly.trans (Laws.bowOnly_fold (fun _ _ => bowOnly_zeroDev)) bowOnly_zeroDev
  · exact Laws.bowOnly_fold (fun _ _ => bowOnly_zeroDev)
theorem Laws.unlock_frame : (unlock s).sec.slots = [] ∧ (unlock s).sec.keysHeld = false ∧
    (unlock s).hif.rings = s.hif.rings ∧ (unlock s).pins = s.pins := by
  have k : BowOnly { s with sec := { s.sec with slots := [], keysHeld := false } } (zeroWeightRegions _) := Laws.bowOnly_zeroWeightRegions
  unfold unlock
  generalize zeroWeightRegions { s with sec := { s.sec with slots := [], keysHeld := false } } = u at k
  unfold BowOnly at k
  rw [k]
  exact ⟨rfl, rfl, rfl, rfl⟩

/-! Event records (05_command_rings R201 to R203): they touch memory, rings, the count of lost records and interrupts. -/

def Laws.EventOnly (s t : State) : Prop :=
  t = { s with mem := t.mem, hif := { s.hif with funcs := t.hif.funcs, rings := t.hif.rings }, irq := t.irq }

theorem Laws.EventOnly.refl (s : State) : EventOnly s s := rfl
theorem Laws.EventOnly.trans (h : EventOnly s t) (k : EventOnly t u) : EventOnly s u := by
  unfold EventOnly at *; rw [k, h]
theorem Laws.eventOnly_raiseVector {f v : Nat} : EventOnly s (raiseVector f v s) := by
  unfold raiseVector; split
  · rfl
  · split <;> rfl
theorem Laws.eventOnly_countEntry {f r : Nat} {b : Bool} : EventOnly s (countEntry f r b s) := by
  unfold countEntry; dsimp only; split
  · rfl
  · split
    · exact EventOnly.trans (t := modRing r (fun g => { g with sinceIrq := 0 }) s) rfl eventOnly_raiseVector
    · rfl
theorem Laws.eventOnly_writeEntry {f r : Nat} {b : Bytes} : EventOnly s (writeEntry f r b s) := by
  unfold writeEntry; dsimp only; split <;> rfl
theorem Laws.eventOnly_flushLost {f : Nat} : EventOnly s (flushLost f s) := by
  unfold flushLost; split
  · rfl
  · split
    · rfl
    · exact (EventOnly.trans (t := modHifFunc f (fun h => { h with dropped := 0 }) s) rfl eventOnly_writeEntry).trans eventOnly_countEntry
theorem Laws.eventOnly_postTo {f a b c d : Nat} : EventOnly s (postTo f a b c d s) := by
  unfold postTo; refine EventOnly.trans (t := flushLost f s) eventOnly_flushLost ?_
  dsimp only
  split
  · rfl
  · split
    · rfl
    · exact eventOnly_writeEntry.trans eventOnly_countEntry
theorem Laws.failCmd_only {i : Nat} {e : Fail} : failCmd i e s = { s with
    hif := { s.hif with cmds := (failCmd i e s).hif.cmds }, bow := (failCmd i e s).bow, gcore := (failCmd i e s).gcore,
    mmu := (failCmd i e s).mmu, safMore := (failCmd i e s).safMore, sec := (failCmd i e s).sec } := by
  unfold failCmd
  cases cmdOf s i with
  | none => rfl
  | some c =>
    unfold recordFail recordDenied
    rcases e with ⟨a, b, m, d, x⟩
    cases m <;> cases d <;> cases x <;> simp only [Bool.false_eq_true, if_false, if_true] <;> first | rfl | (split <;> rfl)

/-- What a latch does to a RUNNING stream (15_functional_safety R481, R482). -/
theorem Laws.latch_running {k : Nat} (h : s.saf.state = .running) : (latch k s).saf.state = .latched ∧ (latch k s).saf.cause = k ∧
    (latch k s).pins.safeHb = false ∧ (latch k s).pins.safeErrN = false := by
  unfold latch
  rw [if_neg (by simp [h])]
  simp only
  generalize hu : pinsLow _ = u
  have e : u.saf.state = .latched ∧ u.saf.cause = k ∧ u.pins.safeHb = false ∧ u.pins.safeErrN = false := by subst hu; exact ⟨rfl, rfl, rfl, rfl⟩
  have p : EventOnly u (postTo s.saf.safetyFunc 0x0040 4 k (runRing s) u) := eventOnly_postTo
  generalize postTo s.saf.safetyFunc 0x0040 4 k (runRing s) u = v at p
  have e2 : v.saf.state = .latched ∧ v.saf.cause = k ∧ v.pins.safeHb = false ∧ v.pins.safeErrN = false := by
    unfold EventOnly at p; rw [p]; exact e
  cases s.saf.runCmd with
  | none => exact e2
  | some id => simp only; rw [failCmd_only]; exact e2
theorem Laws.latch_else {k : Nat} (h : s.saf.state ≠ .running) : latch k s = s := by unfold latch; rw [if_pos h]

theorem Laws.getElem?_modAt {α : Type} {i : Nat} {f : α → α} {l : List α} {x : α} (h : l[i]? = some x) : (modAt i f l)[i]? = some (f x) := by
  induction l generalizing i with
  | nil => simp at h
  | cons y ys ih => cases i with
    | zero => simp at h; simp [modAt, h]
    | succ n => simp at h; simpa [modAt] using ih h

/-- Pins and copies leave the placements as they are. -/
theorem Laws.setSlot_placements {n : Nat} {v : Option MigSlot} : (setSlot n v s).stream.placements = s.stream.placements := rfl
theorem Laws.drainSlot_placements {n : Nat} : (drainSlot n s).stream.placements = s.stream.placements := by
  unfold drainSlot; split <;> rfl
theorem Laws.settlePins_placements : (settlePins s).stream.placements = s.stream.placements := by
  unfold settlePins
  generalize s.stream.mig.slots = l
  suffices h : ∀ u : State, (l.foldl (fun t p => match p.2 with
      | none => t
      | some x =>
        if x.draining then t
        else if x.pinned && !pinnedBy s x.region then
          (if keptOut s x.region then drainSlot p.1 t else setSlot p.1 (some { x with pinned := false }) t)
        else if !x.pinned && keptOut s x.region then drainSlot p.1 t else t) u).stream.placements = u.stream.placements from h s
  induction l with
  | nil => intro u; rfl
  | cons p l ih =>
    intro u; rw [List.foldl_cons, ih]
    split
    · rfl
    · repeat' split
      all_goals first | rfl | exact drainSlot_placements
theorem Laws.fillCopy_stream {m : Image} {es : List PlaceEntry} {w : WCopy} : (fillCopy m es s w).stream = s.stream := by
  unfold fillCopy; split <;> rfl

end Sys2Proof
end

