-- ==== Sys2Proof/Laws/Blocks.lean ====
section
/-! SUPPORT. Laws/Blocks.lean: the blocks of the weight store: what a change of one block leaves of it and of the others, and
the wear that relocations, retirement and levelling leave alone (03_weight_store R105, R114). -/

set_option Elab.async false

namespace Sys2Proof
open Sys2Proof.Machine Sys2Proof.Laws

variable {s t u : State}

theorem Laws.smFind_put {α : Type} (v : α) (k j : Nat) (m : SMap α) : smFind (smPut k v m) j = if j = k then some v else smFind m j := by
  induction m with
  | nil => simp only [smPut, smFind]; split <;> simp_all; intro a; omega
  | cons p m ih =>
    obtain ⟨i, w⟩ := p
    unfold smPut
    by_cases h1 : i < k
    · simp only [h1, if_true, smFind, ih]
      by_cases h2 : i = j
      · simp only [h2, if_true]; rw [if_neg (by omega)]
      · simp only [h2, if_false]
    · by_cases h2 : i = k
      · subst h2; simp only [Nat.lt_irrefl, if_false, if_true, smFind]
        by_cases h3 : i = j
        · simp only [h3, if_true]
        · rw [if_neg h3, if_neg (Ne.symm h3), if_neg h3]
      · simp only [h1, h2, if_false, smFind]
        by_cases h3 : k = j
        · simp only [h3, if_true]
        · rw [if_neg h3, if_neg (Ne.symm h3)]

theorem Laws.blockOf_congr {k : Nat} (h : t.wst.blocks = s.wst.blocks) (i : t.ident = s.ident) : blockOf t k = blockOf s k := by
  unfold blockOf madeBlock dieCount blocksPerDie; rw [h, i]

theorem Laws.blockOf_modBlock {k j : Nat} {g : Block → Block} :
    blockOf (modBlock k g s) j = if j = k then g (blockOf s k) else blockOf s j := by
  have e : madeBlock (modBlock k g s) j = madeBlock s j := rfl
  rw [blockOf, e]
  unfold modBlock
  simp only [smFind_put]
  split <;> rfl

theorem Laws.blockOf_wstEvent {n k : Nat} : blockOf (wstEvent n s) k = blockOf s k := by
  unfold wstEvent; dsimp only; split
  · exact blockOf_congr rfl rfl
  · unfold postBoth
    have h := (eventOnly_postTo (s := { s with wst := { s.wst with events := s.wst.events ||| n } }) (f := 0) (a := 0x0010) (b := 0)
      (c := clearBits n s.wst.events) (d := 0xFFFF)).trans (eventOnly_postTo (f := 8) (a := 0x0010) (b := 0) (c := clearBits n s.wst.events) (d := 0xFFFF))
    unfold EventOnly at h; rw [h]; exact blockOf_congr rfl rfl

theorem Laws.lowestFree_free {d k : Nat} (h : lowestFree s d = some k) : (blockOf s k).state = 0 := by
  unfold lowestFree at h
  have all : ∀ x ∈ freeBlocks s d, (blockOf s x).state = 0 := by
    intro x hx; unfold freeBlocks at hx; rw [List.mem_filter] at hx; simpa using hx.2
  generalize freeBlocks s d = l at h all
  have go : ∀ (l : List Nat) (b : Option Nat), (∀ x ∈ l, (blockOf s x).state = 0) → (∀ x, b = some x → (blockOf s x).state = 0) →
      ∀ x, l.foldl (fun b k => match b with
        | none => some k
        | some x => if (blockOf s k).pe < (blockOf s x).pe then some k else some x) b = some x → (blockOf s x).state = 0 := by
    intro l
    induction l with
    | nil => intro b _ hb x hx; exact hb x hx
    | cons y ys ih =>
      intro b hl hb x hx
      refine ih _ (fun z hz => hl z (List.mem_cons_of_mem _ hz)) ?_ x hx
      intro z hz
      have hy := hl y (List.mem_cons_self ..)
      cases b with
      | none => simp at hz; rw [← hz]; exact hy
      | some w =>
        simp only at hz
        split at hz
        · simp at hz; rw [← hz]; exact hy
        · simp at hz; rw [← hz]; exact hb w rfl
  exact go l none all (by simp) k h

theorem Laws.highestFree_free {d k : Nat} (h : highestFree s d = some k) : (blockOf s k).state = 0 := by
  unfold highestFree at h
  have all : ∀ x ∈ freeBlocks s d, (blockOf s x).state = 0 := by
    intro x hx; unfold freeBlocks at hx; rw [List.mem_filter] at hx; simpa using hx.2
  generalize freeBlocks s d = l at h all
  have go : ∀ (l : List Nat) (b : Option Nat), (∀ x ∈ l, (blockOf s x).state = 0) → (∀ x, b = some x → (blockOf s x).state = 0) →
      ∀ x, l.foldl (fun b k => match b with
        | none => some k
        | some x => if (blockOf s x).pe < (blockOf s k).pe then some k else some x) b = some x → (blockOf s x).state = 0 := by
    intro l
    induction l with
    | nil => intro b _ hb x hx; exact hb x hx
    | cons y ys ih =>
      intro b hl hb x hx
      refine ih _ (fun z hz => hl z (List.mem_cons_of_mem _ hz)) ?_ x hx
      intro z hz
      have hy := hl y (List.mem_cons_self ..)
      cases b with
      | none => simp at hz; rw [← hz]; exact hy
      | some w =>
        simp only at hz
        split at hz
        · simp at hz; rw [← hz]; exact hy
        · simp at hz; rw [← hz]; exact hb w rfl
  exact go l none all (by simp) k h

/-- A block that a relocation takes is free. -/
theorem Laws.destFor_free {r : Reloc} {d : Nat} (h : destFor s r = some d) : (blockOf s d).state = 0 := by
  unfold destFor at h
  split at h
  · cases h
  · split at h
    · exact highestFree_free h
    · exact lowestFree_free h

/-- Opening a destination changes no wear. -/
theorem Laws.openDest_pe {k d j : Nat} : (blockOf (openDest k d s) j).pe = (blockOf s j).pe := by
  unfold openDest
  simp only [blockOf_modBlock]
  have e : ∀ x, blockOf (modReloc k (fun r => { r with dest := some d }) s) x = blockOf s x := fun x => blockOf_congr rfl rfl
  simp only [e]
  split <;> split <;> simp_all

/-- Opening a destination leaves a block that is neither the destination nor holds data in its state. -/
theorem Laws.openDest_state {k d j : Nat} (h : j ≠ d) (g : holdsData (blockOf s j) = false) :
    (blockOf (openDest k d s) j).state = (blockOf s j).state := by
  unfold openDest
  simp only [blockOf_modBlock]
  have e : ∀ x, blockOf (modReloc k (fun r => { r with dest := some d }) s) x = blockOf s x := fun x => blockOf_congr rfl rfl
  simp only [e, if_neg h]
  by_cases c : j = k
  · subst c; simp [h, g]
  · simp [c]

theorem Laws.beginReloc_pe {n k j : Nat} : (blockOf (beginReloc n k s) j).pe = (blockOf s j).pe := by
  unfold beginReloc; split
  · rfl
  · split
    · rfl
    · split
      · rfl
      · exact openDest_pe

theorem Laws.beginReloc_state {n k j : Nat} (h : (blockOf s j).state = 8) : (blockOf (beginReloc n k s) j).state = 8 := by
  unfold beginReloc; split
  · exact h
  · split
    · exact h
    · split
      · exact h
      · rename_i d hd
        rw [openDest_state, h]
        · intro e; have := destFor_free hd; rw [← e, h] at this; omega
        · simp [holdsData, h]

theorem Laws.beginRelocs_pe {f : State → Nat} {l : List Nat} {j : Nat} {u : State} :
    (blockOf (l.foldl (fun t k => beginReloc (f u) k t) s) j).pe = (blockOf s j).pe := by
  induction l generalizing s with
  | nil => rfl
  | cons k l ih => exact (ih (s := beginReloc (f u) k s)).trans beginReloc_pe

theorem Laws.beginRelocs_state {f : State → Nat} {l : List Nat} {j : Nat} {u : State} (h : (blockOf s j).state = 8) :
    (blockOf (l.foldl (fun t k => beginReloc (f u) k t) s) j).state = 8 := by
  induction l generalizing s with
  | nil => exact h
  | cons k l ih => exact ih (beginReloc_state h)

theorem Laws.grantAppend_block {j : Nat} : blockOf (grantAppend s) j = blockOf s j := by
  unfold grantAppend; split
  · exact blockOf_congr rfl rfl
  · rfl

theorem Laws.journal_block {c : Change} {j : Nat} : blockOf (journal c s) j = blockOf s j := by
  unfold journal; rw [grantAppend_block]; exact blockOf_congr rfl rfl

theorem Laws.grantGranules_block {n j : Nat} : blockOf (grantGranules n s) j = blockOf s j := by
  induction n generalizing s with
  | zero => rfl
  | succ n ih =>
    unfold grantGranules; split
    · rfl
    · split
      · rw [ih]; exact blockOf_congr rfl rfl
      · rfl

theorem Laws.grantPrograms_pe {j : Nat} : (blockOf (grantPrograms s) j).pe = (blockOf s j).pe := by
  unfold grantPrograms
  dsimp only
  rw [grantGranules_block]
  refine (beginRelocs_pe (f := fwWaits) (u := grantAppend _)).trans ?_
  rw [grantAppend_block]
  exact beginRelocs_pe (f := fun _ => 0) (u := s)

theorem Laws.grantPrograms_state {j : Nat} (h : (blockOf s j).state = 8) : (blockOf (grantPrograms s) j).state = 8 := by
  unfold grantPrograms
  dsimp only
  rw [grantGranules_block]
  refine beginRelocs_state (f := fwWaits) (u := grantAppend _) ?_
  rw [grantAppend_block]
  exact beginRelocs_state (f := fun _ => 0) (u := s) h

/-- What a grant of programs changes: blocks, relocations and what is being programmed or appended (R130). -/
def Laws.GrantsOnly (s t : State) : Prop :=
  t = { s with
    wst := { s.wst with blocks := t.wst.blocks, relocs := t.wst.relocs, changed := t.wst.changed }
    wstMore := { s.wstMore with programming := t.wstMore.programming, appending := t.wstMore.appending } }

theorem Laws.GrantsOnly.trans (h : GrantsOnly s t) (k : GrantsOnly t u) : GrantsOnly s u := by
  unfold GrantsOnly at *; rw [k, h]
theorem Laws.grantsOnly_append : GrantsOnly s (grantAppend s) := by
  unfold grantAppend; split <;> rfl
theorem Laws.grantsOnly_begin {n k : Nat} : GrantsOnly s (beginReloc n k s) := by
  unfold beginReloc; split
  · rfl
  · split
    · rfl
    · split <;> rfl
theorem Laws.grantsOnly_begins {n : Nat} {l : List Nat} : GrantsOnly s (l.foldl (fun t k => beginReloc n k t) s) := by
  induction l generalizing s with
  | nil => rfl
  | cons k l ih => exact grantsOnly_begin.trans ih
theorem Laws.grantsOnly_granules {n : Nat} : GrantsOnly s (grantGranules n s) := by
  induction n generalizing s with
  | zero => rfl
  | succ n ih =>
    unfold grantGranules; split
    · rfl
    · split
      · exact GrantsOnly.trans (t := { s with wstMore := { s.wstMore with programming := _ } }) rfl ih
      · rfl
theorem Laws.grantsOnly_programs : GrantsOnly s (grantPrograms s) := by
  unfold grantPrograms
  exact ((grantsOnly_begins.trans grantsOnly_append).trans grantsOnly_begins).trans grantsOnly_granules

theorem Laws.patrolEnd_block {j : Nat} : blockOf (patrolEnd s) j = blockOf s j := by
  unfold patrolEnd; split
  · rfl
  · dsimp only; split
    · rw [blockOf_wstEvent]; exact blockOf_congr rfl rfl
    · exact blockOf_congr rfl rfl

theorem Laws.prunePatrol_block {j : Nat} : blockOf (prunePatrol s) j = blockOf s j := by
  unfold prunePatrol; split
  · rfl
  · rw [patrolEnd_block]; exact blockOf_congr rfl rfl

theorem Laws.queueReloc_pe {k p j : Nat} {a b : Bool} : (blockOf (queueReloc k p a b s) j).pe = (blockOf s j).pe := by
  unfold queueReloc; split
  · rfl
  · split
    · exact grantPrograms_pe.trans (congrArg Block.pe (blockOf_congr rfl rfl))
    · exact grantPrograms_pe.trans (congrArg Block.pe (blockOf_congr rfl rfl))

theorem Laws.queueReloc_state {k p j : Nat} {a b : Bool} (h : (blockOf s j).state = 8) : (blockOf (queueReloc k p a b s) j).state = 8 := by
  unfold queueReloc; split
  · exact h
  · split
    · exact grantPrograms_state ((congrArg Block.state (blockOf_congr rfl rfl)).trans h)
    · exact grantPrograms_state ((congrArg Block.state (blockOf_congr rfl rfl)).trans h)

theorem Laws.checkSpare_block {d j : Nat} : blockOf (checkSpare d s) j = blockOf s j := by
  unfold checkSpare; split
  · rfl
  · dsimp only; rw [blockOf_wstEvent]; exact blockOf_congr rfl rfl

/-- Retirement changes no wear, and the block that retires is RETIRED, unless it was so or was bad at manufacture. -/
theorem Laws.retireBlock_block {k j : Nat} : (blockOf (retireBlock k s) j).pe = (blockOf s j).pe ∧
    ((blockOf s k).state ≠ 9 → (blockOf (retireBlock k s) k).state = 8) := by
  unfold retireBlock
  dsimp only
  split
  · rename_i h; exact ⟨rfl, fun n => by rcases h with h | h; exact h; exact absurd h n⟩
  · simp only [prunePatrol_block, checkSpare_block]
    generalize hv : wstEvent 4 _ = v
    have e : ∀ x, blockOf v x = if x = k then { blockOf s k with state := 8 } else blockOf s x := by
      intro x; subst hv; rw [blockOf_wstEvent]
      refine Eq.trans (blockOf_congr (s := journal (.retire k) (modBlock k (fun b => { b with state := 8 }) s)) rfl rfl) ?_
      rw [journal_block, blockOf_modBlock]
    have p : ∀ x, (blockOf v x).pe = (blockOf s x).pe := by intro x; rw [e]; split <;> simp_all
    have q : (blockOf v k).state = 8 := by rw [e, if_pos rfl]
    split
    · exact ⟨queueReloc_pe.trans (p j), fun _ => queueReloc_state q⟩
    · exact ⟨p j, fun _ => q⟩

theorem Laws.levelDie_pe {d j : Nat} : (blockOf (levelDie d s) j).pe = (blockOf s j).pe := by
  unfold levelDie; dsimp only
  split
  · rfl
  · split
    · rfl
    · split
      · rfl
      · split
        · rfl
        · exact grantPrograms_pe.trans (congrArg Block.pe (blockOf_congr rfl rfl))

/-- Installs and images stand as they were. -/
def Laws.SameImages (s t : State) : Prop := t.wst.installs = s.wst.installs ∧ t.wst.images = s.wst.images

theorem Laws.SameImages.trans (h : SameImages s t) (k : SameImages t u) : SameImages s u := ⟨k.1.trans h.1, k.2.trans h.2⟩
theorem Laws.sameImages_foldl {α : Type} {f : State → α → State} {l : List α} (h : ∀ (u : State) (x : α), SameImages u (f u x)) :
    SameImages s (l.foldl f s) := by
  induction l generalizing s with
  | nil => exact ⟨rfl, rfl⟩
  | cons k l ih => exact (h s k).trans ih
theorem Laws.GrantsOnly.sameImages (h : GrantsOnly s t) : SameImages s t := by unfold GrantsOnly at h; rw [h]; exact ⟨rfl, rfl⟩
theorem Laws.wstEvent_sameImages {n : Nat} : SameImages s (wstEvent n s) := by
  unfold wstEvent; dsimp only; split
  · exact ⟨rfl, rfl⟩
  · unfold postBoth
    have h := (eventOnly_postTo (s := { s with wst := { s.wst with events := s.wst.events ||| n } }) (f := 0) (a := 0x0010) (b := 0)
      (c := clearBits n s.wst.events) (d := 0xFFFF)).trans (eventOnly_postTo (f := 8) (a := 0x0010) (b := 0) (c := clearBits n s.wst.events) (d := 0xFFFF))
    unfold EventOnly at h; rw [h]; exact ⟨rfl, rfl⟩
theorem Laws.journal_sameImages {c : Change} : SameImages s (journal c s) :=
  SameImages.trans (t := { s with wst := { s.wst with pending := s.wst.pending ++ [c] } }) ⟨rfl, rfl⟩ grantsOnly_append.sameImages
theorem Laws.queueReloc_sameImages {k p : Nat} {a b : Bool} : SameImages s (queueReloc k p a b s) := by
  unfold queueReloc; split
  · exact ⟨rfl, rfl⟩
  · split
    · exact SameImages.trans (t := modReloc k _ s) ⟨rfl, rfl⟩ grantsOnly_programs.sameImages
    · exact SameImages.trans (t := { s with wst := { s.wst with relocs := _ } }) ⟨rfl, rfl⟩ grantsOnly_programs.sameImages
theorem Laws.checkSpare_sameImages {d : Nat} : SameImages s (checkSpare d s) := by
  unfold checkSpare; split
  · exact ⟨rfl, rfl⟩
  · exact SameImages.trans (t := { s with wstMore := _ }) ⟨rfl, rfl⟩ wstEvent_sameImages
theorem Laws.prunePatrol_sameImages : SameImages s (prunePatrol s) := by
  unfold prunePatrol; split
  · exact ⟨rfl, rfl⟩
  · unfold patrolEnd; split
    · exact ⟨rfl, rfl⟩
    · dsimp only; split
      · exact SameImages.trans (t := { s with wst := { s.wst with running := _ }, wstMore := _ }) ⟨rfl, rfl⟩ wstEvent_sameImages
      · exact ⟨rfl, rfl⟩
theorem Laws.retireBlock_sameImages {k : Nat} : SameImages s (retireBlock k s) := by
  unfold retireBlock; dsimp only; split
  · exact ⟨rfl, rfl⟩
  · refine SameImages.trans ?_ prunePatrol_sameImages
    refine SameImages.trans ?_ checkSpare_sameImages
    have e : SameImages s (wstEvent 4 { journal (.retire k) (modBlock k (fun b => { b with state := 8 }) s) with
        wstMore := { (journal (.retire k) (modBlock k (fun b => { b with state := 8 }) s)).wstMore with
          retired := (journal (.retire k) (modBlock k (fun b => { b with state := 8 }) s)).wstMore.retired + 1 } }) :=
      (SameImages.trans (t := modBlock k (fun b => { b with state := 8 }) s) ⟨rfl, rfl⟩ journal_sameImages).trans
        (SameImages.trans (t := { journal (.retire k) (modBlock k (fun b => { b with state := 8 }) s) with wstMore := _ }) ⟨rfl, rfl⟩ wstEvent_sameImages)
    split
    · exact e.trans queueReloc_sameImages
    · exact e
theorem Laws.replaceBlock_sameImages {k : Nat} : SameImages s (replaceBlock k s) := by
  unfold replaceBlock; split
  · exact ⟨rfl, rfl⟩
  · split
    · exact ⟨rfl, rfl⟩
    · dsimp only; split <;> exact ⟨rfl, rfl⟩
theorem Laws.wearBlock_sameImages {k : Nat} : SameImages s (wearBlock k s) := by
  unfold wearBlock; dsimp only; split
  · exact (SameImages.trans (t := modBlock k (fun b => { b with pe := b.pe + 1 }) s) ⟨rfl, rfl⟩ replaceBlock_sameImages).trans retireBlock_sameImages
  · exact ⟨rfl, rfl⟩
/-- What a checkpoint leaves of the installs and the images (03_weight_store R102). -/
theorem Laws.checkpointed_sameImages : SameImages s (checkpointed s) := by
  unfold checkpointed; dsimp only; split
  · exact SameImages.trans (t := switchSegment s) (sameImages_foldl (fun _ _ => wearBlock_sameImages)) ⟨rfl, rfl⟩
  · exact ⟨rfl, rfl⟩

theorem Laws.reserveCopies_wst {cmd f : Nat} {m : Image} {hot : Bool} {b : Config.TensorInfo → Nat} {l : List Config.TensorInfo} :
    reserveCopies cmd f m hot b l s = some t → t.wst = s.wst := by
  induction l generalizing s with
  | nil => intro h; cases h; rfl
  | cons x l ih =>
    intro h; unfold reserveCopies at h; dsimp only at h; split at h
    · cases h
    · have e := ih h; exact e
theorem Laws.fillCopies_wst {m : Image} {es : List PlaceEntry} {l : List WCopy} : (l.foldl (fillCopy m es) s).wst = s.wst := by
  induction l generalizing s with
  | nil => rfl
  | cons w l ih => rw [List.foldl_cons, ih]; unfold fillCopy; split <;> rfl
/-- The reload of a pinned handle changes neither installs nor images (10_scheduling_sharing R362). -/
theorem Laws.reloadPinned_sameImages {m : Image} {e : Nat × List PlaceEntry} : SameImages s (reloadPinned m s e) := by
  unfold reloadPinned; dsimp only; split
  · exact ⟨rfl, rfl⟩
  · split
    · exact ⟨rfl, rfl⟩
    · rename_i h; split
      · exact ⟨rfl, rfl⟩
      · have k := reserveCopies_wst h
        have q : ∀ l : List WCopy, (l.foldl (fillCopy m e.2) (addHot s.hif.nextId e.1 m (hotBytes e.2 m) 0 _)).wst = s.wst :=
          fun l => fillCopies_wst.trans k
        exact ⟨congrArg Wst.installs (q _), congrArg Wst.images (q _)⟩

end Sys2Proof
end

