-- ==== Sys2Proof/Laws/KeptOps.lean ====
section
/-! SUPPORT. Laws/KeptOps.lean: every operation of Machine/Ops.lean keeps what `Kept` says. -/

set_option Elab.async false

namespace Sys2Proof.Laws
open Sys2Proof Sys2Proof.Machine

theorem modDomain_kept {z : State} {d : Nat} {g : Domain → Domain} {s : State} (kz : Kept z s) : Kept z (modDomain d g s) := by
  unfold modDomain
  repeat'
    first
    | (extract_lets -merge -useContext -underBinder +onlyGivenNames x; subst x)
    | with_reducible assumption
    | with_reducible apply Kept.refl
    | with_reducible rfl
    | split
    | with_reducible apply Kept.set
    | (simp only [lengths, modAt_length]; done)

theorem zeroDev_kept {z : State} {a n : Nat} {s : State} (h : Kept z s) : Kept z (zeroDev a n s) :=
  h.trans ⟨rfl, rfl, rfl, rfl, zeroDev_wf, id, Nat.le_refl _, .inl rfl, shaped_of_lengths rfl⟩

theorem setRing_kept {z : State} {r : Nat} {v : Ring} {s : State} (kz : Kept z s) : Kept z (setRing r v s) := by
  unfold setRing
  repeat'
    first
    | (extract_lets -merge -useContext -underBinder +onlyGivenNames x; subst x)
    | with_reducible assumption
    | with_reducible apply Kept.refl
    | with_reducible apply Kept.ite
    | intro _
    | with_reducible rfl
    | split
    | with_reducible apply Kept.set
    | (simp only [lengths]; done)

theorem modRing_kept {z : State} {r : Nat} {g : Ring → Ring} {s : State} (kz : Kept z s) : Kept z (modRing r g s) := by
  unfold modRing
  repeat'
    first
    | with_reducible assumption
    | with_reducible apply Kept.refl
    | with_reducible apply setRing_kept

theorem writeBytes_kept {z : State} {sp : Space} {a : Nat} {bs : Bytes} {s : State} (h : Kept z s) :
    Kept z (writeBytes sp a bs s) :=
  h.trans ⟨rfl, rfl, rfl, rfl, writeBytes_wf, id, Nat.le_refl _, .inl rfl, shaped_of_lengths rfl⟩

theorem modHifFunc_kept {z : State} {f : Nat} {g : HifFunc → HifFunc} {s : State} (kz : Kept z s) : Kept z (modHifFunc f g s) := by
  unfold modHifFunc
  repeat'
    first
    | (extract_lets -merge -useContext -underBinder +onlyGivenNames x; subst x)
    | with_reducible assumption
    | with_reducible apply Kept.refl
    | with_reducible apply Kept.ite
    | intro _
    | with_reducible rfl
    | split
    | with_reducible apply Kept.set
    | (simp only [lengths, modAt_length]; done)

theorem modCmd_kept {z : State} {id : Nat} {g : Cmd → Cmd} {s : State} (kz : Kept z s) : Kept z (modCmd id g s) := by
  unfold modCmd
  repeat'
    first
    | (extract_lets -merge -useContext -underBinder +onlyGivenNames x; subst x)
    | with_reducible assumption
    | with_reducible apply Kept.refl
    | with_reducible apply Kept.ite
    | intro _
    | with_reducible rfl
    | split
    | with_reducible apply Kept.set
    | (simp only [lengths]; done)

theorem modMmu_kept {z : State} {f : Nat} {g : Mmu → Mmu} {s : State} (kz : Kept z s) : Kept z (modMmu f g s) := by
  unfold modMmu
  repeat'
    first
    | with_reducible assumption
    | with_reducible apply Kept.refl
    | with_reducible rfl
    | split
    | with_reducible apply Kept.set
    | (simp only [lengths, modAt_length]; done)

theorem modConf_kept {z : State} {f : Nat} {g : Conf → Conf} {s : State} (kz : Kept z s) : Kept z (modConf f g s) := by
  unfold modConf
  repeat'
    first
    | (extract_lets -merge -useContext -underBinder +onlyGivenNames x; subst x)
    | with_reducible assumption
    | with_reducible apply Kept.refl
    | with_reducible rfl
    | split
    | with_reducible apply Kept.set
    | (simp only [lengths, modAt_length]; done)

theorem modFuncCfg_kept {z : State} {f : Nat} {g : FuncCfg → FuncCfg} {s : State} (kz : Kept z s) : Kept z (modFuncCfg f g s) := by
  unfold modFuncCfg
  repeat'
    first
    | (extract_lets -merge -useContext -underBinder +onlyGivenNames x; subst x)
    | with_reducible assumption
    | with_reducible apply Kept.refl
    | with_reducible rfl
    | split
    | with_reducible apply Kept.set
    | (simp only [lengths, modAt_length]; done)

theorem modPort_kept {z : State} {p : Nat} {g : Port → Port} {s : State} (kz : Kept z s) : Kept z (modPort p g s) := by
  unfold modPort
  repeat'
    first
    | (extract_lets -merge -useContext -underBinder +onlyGivenNames x; subst x)
    | with_reducible assumption
    | with_reducible apply Kept.refl
    | with_reducible rfl
    | split
    | with_reducible apply Kept.set
    | (simp only [lengths, modAt_length]; done)

theorem dropCmd_kept {z : State} {id : Nat} {s : State} (kz : Kept z s) : Kept z (dropCmd id s) := by
  unfold dropCmd
  repeat'
    first
    | (extract_lets -merge -useContext -underBinder +onlyGivenNames x; subst x)
    | with_reducible assumption
    | with_reducible apply Kept.refl
    | with_reducible apply Kept.ite
    | intro _
    | with_reducible rfl
    | split
    | with_reducible apply Kept.set
    | (simp only [lengths]; done)

theorem drawn_kept {z : State} {n : Nat} {s : State} (kz : Kept z s) : Kept z (drawn n s) := by
  unfold drawn
  repeat'
    first
    | with_reducible assumption
    | with_reducible apply Kept.refl
    | with_reducible rfl
    | split
    | with_reducible apply Kept.set

theorem modFret_kept {z : State} {i : Nat} {g : Fret → Fret} {s : State} (kz : Kept z s) : Kept z (modFret i g s) := by
  unfold modFret
  repeat'
    first
    | (extract_lets -merge -useContext -underBinder +onlyGivenNames x; subst x)
    | with_reducible assumption
    | with_reducible apply Kept.refl
    | with_reducible rfl
    | split
    | with_reducible apply Kept.set
    | (simp only [lengths, modAt_length]; done)

theorem modString_kept {z : State} {j : Nat} {g : StringSt → StringSt} {s : State} (kz : Kept z s) : Kept z (modString j g s) := by
  unfold modString
  repeat'
    first
    | (extract_lets -merge -useContext -underBinder +onlyGivenNames x; subst x)
    | with_reducible assumption
    | with_reducible apply Kept.refl
    | with_reducible rfl
    | split
    | with_reducible apply Kept.set
    | (simp only [lengths, modAt_length]; done)

end Sys2Proof.Laws
end

