-- ==== Sys2Proof/Laws/KeptMmu.lean ====
section
/-! SUPPORT. Laws/KeptMmu.lean: every operation of Machine/Mmu.lean keeps what `Kept` says. -/

set_option Elab.async false

namespace Sys2Proof.Laws
open Sys2Proof Sys2Proof.Machine

theorem sealUnit_kept {z : State} {f : Nat} {ub : Nat} {plain : Bytes} {s : State} (kz : Kept z s) : Kept z (sealUnit f ub plain s) := by
  unfold sealUnit
  repeat'
    first
    | (extract_lets -merge -useContext -underBinder +onlyGivenNames x; apply Kept.cut (x := x); rotate_left; intro hx; clear_value x; rotate_left; dsimp only [x]; clear x)
    | (extract_lets -merge -useContext -underBinder +onlyGivenNames x; subst x)
    | with_reducible assumption
    | with_reducible apply Kept.refl
    | with_reducible apply writeBytes_kept
    | with_reducible apply modConf_kept

theorem commitSeg_kept {z : State} {s : State} {g : Seg} (kz : Kept z s) : Kept z (commitSeg s g) := by
  unfold commitSeg
  repeat'
    first
    | (extract_lets -merge -useContext -underBinder +onlyGivenNames x; subst x)
    | with_reducible assumption
    | with_reducible apply Kept.refl
    | with_reducible apply writeBytes_kept
    | with_reducible apply sealUnit_kept
    | with_reducible apply Kept.ite
    | intro _
    | with_reducible rfl
    | split

theorem commitSegs_kept {z : State} {l : List Seg} {s : State} (kz : Kept z s) : Kept z (commitSegs l s) := by
  unfold commitSegs
  repeat'
    first
    | with_reducible assumption
    | with_reducible apply Kept.refl
    | with_reducible apply Kept.foldl
    | with_reducible apply commitSeg_kept
    | intro _

theorem recordMmu_kept {z : State} {f : Nat} {ring : Nat} {v : Nat × Nat × Nat × Bool} {s : State} (kz : Kept z s) : Kept z (recordMmu f ring v s) := by
  unfold recordMmu
  repeat'
    first
    | with_reducible assumption
    | with_reducible apply Kept.refl
    | with_reducible apply modMmu_kept

theorem recordDenied_kept {z : State} {v : Nat × Bool × Nat} {s : State} (kz : Kept z s) : Kept z (recordDenied v s) := by
  unfold recordDenied
  repeat'
    first
    | (extract_lets -merge -useContext -underBinder +onlyGivenNames x; subst x)
    | with_reducible assumption
    | with_reducible apply Kept.refl
    | with_reducible apply Kept.ite
    | intro _
    | with_reducible rfl
    | split
    | with_reducible apply Kept.set
    | (simp only [lengths]; done)

theorem recordFail_kept {z : State} {f : Nat} {ring : Nat} {e : Fail} {s : State} (kz : Kept z s) : Kept z (recordFail f ring e s) := by
  unfold recordFail
  repeat'
    first
    | (extract_lets -merge -useContext -underBinder +onlyGivenNames x; apply Kept.cut (x := x); rotate_left; intro hx; clear_value x; rotate_left; dsimp only [x]; clear x)
    | with_reducible assumption
    | with_reducible apply Kept.refl
    | with_reducible apply recordMmu_kept
    | with_reducible apply recordDenied_kept
    | with_reducible apply modConf_kept
    | with_reducible apply Kept.ite
    | intro _
    | with_reducible rfl
    | split

end Sys2Proof.Laws
end

