-- ==== Sys2Proof/Laws/KeptEvent.lean ====
section
/-! SUPPORT. Laws/KeptEvent.lean: every operation of Machine/Event.lean keeps what `Kept` says. -/

set_option Elab.async false

namespace Sys2Proof.Laws
open Sys2Proof Sys2Proof.Machine

theorem modVector_kept {z : State} {f : Nat} {v : Nat} {g : Vector → Vector} {s : State} (kz : Kept z s) : Kept z (modVector f v g s) := by
  unfold modVector
  repeat'
    first
    | (extract_lets -merge -useContext -underBinder +onlyGivenNames x; subst x)
    | with_reducible assumption
    | with_reducible apply Kept.refl
    | with_reducible rfl
    | split
    | with_reducible apply Kept.set

theorem sendMsg_kept {z : State} {f : Nat} {v : Nat} {s : State} (kz : Kept z s) : Kept z (sendMsg f v s) := by
  unfold sendMsg
  repeat'
    first
    | (extract_lets -merge -useContext -underBinder +onlyGivenNames x; subst x)
    | with_reducible assumption
    | with_reducible apply Kept.refl
    | with_reducible rfl
    | split
    | with_reducible apply Kept.set

theorem raiseVector_kept {z : State} {f : Nat} {v : Nat} {s : State} (kz : Kept z s) : Kept z (raiseVector f v s) := by
  unfold raiseVector
  repeat'
    first
    | with_reducible assumption
    | with_reducible apply Kept.refl
    | with_reducible apply modVector_kept
    | with_reducible apply sendMsg_kept
    | with_reducible apply Kept.ite
    | intro _

theorem writeEntry_kept {z : State} {f : Nat} {r : Nat} {rec : Bytes} {s : State} (kz : Kept z s) : Kept z (writeEntry f r rec s) := by
  unfold writeEntry
  repeat'
    first
    | (extract_lets -merge -useContext -underBinder +onlyGivenNames x; apply Kept.cut (x := x); rotate_left; intro hx; clear_value x; rotate_left; dsimp only [x]; clear x)
    | (extract_lets -merge -useContext -underBinder +onlyGivenNames x; subst x)
    | with_reducible assumption
    | with_reducible apply Kept.refl
    | with_reducible apply writeBytes_kept
    | with_reducible apply modRing_kept
    | with_reducible apply Kept.ite
    | intro _

theorem countEntry_kept {z : State} {f : Nat} {r : Nat} {irq : Bool} {s : State} (kz : Kept z s) : Kept z (countEntry f r irq s) := by
  unfold countEntry
  repeat'
    first
    | (extract_lets -merge -useContext -underBinder +onlyGivenNames x; subst x)
    | with_reducible assumption
    | with_reducible apply Kept.refl
    | with_reducible apply raiseVector_kept
    | with_reducible apply modRing_kept
    | with_reducible apply Kept.ite
    | intro _

theorem flushLost_kept {z : State} {f : Nat} {s : State} (kz : Kept z s) : Kept z (flushLost f s) := by
  unfold flushLost
  repeat'
    first
    | with_reducible assumption
    | with_reducible apply Kept.refl
    | with_reducible apply countEntry_kept
    | with_reducible apply writeEntry_kept
    | with_reducible apply modHifFunc_kept
    | with_reducible apply Kept.ite
    | intro _
    | with_reducible rfl
    | split

theorem dropEvent_kept {z : State} {f : Nat} {s : State} (kz : Kept z s) : Kept z (dropEvent f s) := by
  unfold dropEvent
  repeat'
    first
    | with_reducible assumption
    | with_reducible apply Kept.refl
    | with_reducible apply modHifFunc_kept

theorem postTo_kept {z : State} {f : Nat} {code : Nat} {detail : Nat} {info : Nat} {ring : Nat} {s : State} (kz : Kept z s) : Kept z (postTo f code detail info ring s) := by
  unfold postTo
  repeat'
    first
    | (extract_lets -merge -useContext -underBinder +onlyGivenNames x; apply Kept.cut (x := x); rotate_left; intro hx; clear_value x; rotate_left; dsimp only [x]; clear x)
    | with_reducible assumption
    | with_reducible apply Kept.refl
    | with_reducible apply flushLost_kept
    | with_reducible apply dropEvent_kept
    | with_reducible apply countEntry_kept
    | with_reducible apply writeEntry_kept
    | with_reducible apply Kept.ite
    | intro _
    | with_reducible rfl
    | split

theorem postBoth_kept {z : State} {code : Nat} {detail : Nat} {info : Nat} {ring : Nat} {s : State} (kz : Kept z s) : Kept z (postBoth code detail info ring s) := by
  unfold postBoth
  repeat'
    first
    | with_reducible assumption
    | with_reducible apply Kept.refl
    | with_reducible apply postTo_kept

theorem ringError_kept {z : State} {r : Nat} {err : Nat} {s : State} (kz : Kept z s) : Kept z (ringError r err s) := by
  unfold ringError
  repeat'
    first
    | (extract_lets -merge -useContext -underBinder +onlyGivenNames x; apply Kept.cut (x := x); rotate_left; intro hx; clear_value x; rotate_left; dsimp only [x]; clear x)
    | (extract_lets -merge -useContext -underBinder +onlyGivenNames x; subst x)
    | with_reducible assumption
    | with_reducible apply Kept.refl
    | with_reducible apply Kept.foldl
    | with_reducible apply modRing_kept
    | with_reducible apply postBoth_kept
    | with_reducible apply Kept.ite
    | intro _
    | with_reducible rfl
    | split
    | with_reducible apply Kept.set
    | (simp only [lengths, modAt_length, setAt_length, List.length_map, List.length_mapIdx]; done)

theorem endRuns_kept {z : State} {id : Nat} {s : State} (kz : Kept z s) : Kept z (endRuns id s) := by
  unfold endRuns
  repeat'
    first
    | (extract_lets -merge -useContext -underBinder +onlyGivenNames x; subst x)
    | with_reducible assumption
    | with_reducible apply Kept.refl
    | with_reducible apply Kept.ite
    | intro _
    | with_reducible rfl
    | split
    | with_reducible apply Kept.set
    | (simp only [lengths, List.length_map]; done)

theorem endThreads_kept {z : State} {id : Nat} {s : State} (kz : Kept z s) : Kept z (endThreads id s) := by
  unfold endThreads
  repeat'
    first
    | (extract_lets -merge -useContext -underBinder +onlyGivenNames x; subst x)
    | with_reducible assumption
    | with_reducible apply Kept.refl
    | with_reducible rfl
    | split
    | with_reducible apply Kept.set

theorem failCmd_kept {z : State} {id : Nat} {e : Fail} {s : State} (kz : Kept z s) : Kept z (failCmd id e s) := by
  unfold failCmd
  repeat'
    first
    | with_reducible assumption
    | with_reducible apply Kept.refl
    | with_reducible apply modCmd_kept
    | with_reducible apply recordFail_kept
    | with_reducible apply endThreads_kept
    | with_reducible apply endRuns_kept
    | with_reducible rfl
    | split

theorem stageDone_kept {z : State} {id : Nat} {segs : List Seg} {result : Nat} {s : State} (kz : Kept z s) : Kept z (stageDone id segs result s) := by
  unfold stageDone
  repeat'
    first
    | with_reducible assumption
    | with_reducible apply Kept.refl
    | with_reducible apply modCmd_kept

theorem complete_kept {z : State} {c : Cmd} {status : Nat} {result : Nat} {s : State} (kz : Kept z s) : Kept z (complete c status result s) := by
  unfold complete
  repeat'
    first
    | (extract_lets -merge -useContext -underBinder +onlyGivenNames x; apply Kept.cut (x := x); rotate_left; intro hx; clear_value x; rotate_left; dsimp only [x]; clear x)
    | with_reducible assumption
    | with_reducible apply Kept.refl
    | with_reducible apply countEntry_kept
    | with_reducible apply writeEntry_kept
    | with_reducible apply modRing_kept
    | with_reducible apply dropCmd_kept
    | with_reducible apply endThreads_kept
    | with_reducible apply endRuns_kept
    | with_reducible apply Kept.ite
    | intro _

theorem retire_kept {z : State} {id : Nat} {s : State} (kz : Kept z s) : Kept z (retire id s) := by
  unfold retire
  repeat'
    first
    | with_reducible assumption
    | with_reducible apply Kept.refl
    | with_reducible apply dropCmd_kept
    | with_reducible apply endThreads_kept
    | with_reducible apply endRuns_kept

end Sys2Proof.Laws
end

