-- ==== Sys2Proof/Laws/KeptBow.lean ====
section
/-! SUPPORT. Laws/KeptBow.lean: every operation of Machine/Bow.lean keeps what `Kept` says. -/

set_option Elab.async false

namespace Sys2Proof.Laws
open Sys2Proof Sys2Proof.Machine

theorem pinsLow_kept {z s : State} (h : Kept z s) : Kept z (pinsLow s) :=
  h.trans ⟨rfl, rfl, rfl, rfl, id, fun _ _ => ⟨rfl, rfl⟩, Nat.le_refl _, .inl rfl, shaped_of_lengths rfl⟩

theorem latch_kept {z : State} {cause : Nat} {s : State} (h : Kept z s) : Kept z (latch cause s) := by
  have lit : ∀ (x : Saf) (n : Nat), Kept s (pinsLow { s with saf := x, safMore := { s.safMore with events := n } }) := fun _ _ =>
    ⟨rfl, rfl, rfl, rfl, id, fun _ _ => ⟨rfl, rfl⟩, Nat.le_refl _, .inl rfl, shaped_of_lengths rfl⟩
  unfold latch
  refine Kept.ite (fun _ => h) (fun _ => ?_)
  extract_lets ring _ _ s1 s2
  have h2 : Kept z s2 := postTo_kept (h.trans (lit _ _))
  split
  · exact h2
  · exact failCmd_kept h2

theorem startThreads_kept {z : State} {c : Cmd} {fs : List Nat} {s : State} (kz : Kept z s) : Kept z (startThreads c fs s) := by
  unfold startThreads
  repeat'
    first
    | (extract_lets -merge -useContext -underBinder +onlyGivenNames x; apply Kept.cut (x := x); rotate_left; intro hx; clear_value x; rotate_left; dsimp only [x]; clear x)
    | (extract_lets -merge -useContext -underBinder +onlyGivenNames x; subst x)
    | with_reducible assumption
    | with_reducible apply Kept.refl
    | with_reducible apply Kept.foldl
    | with_reducible apply writeBytes_kept
    | with_reducible apply endThreads_kept
    | with_reducible apply modCmd_kept
    | with_reducible apply Kept.ite
    | intro _
    | with_reducible rfl
    | split
    | with_reducible apply Kept.set

theorem startSlice_kept {z : State} {c : Cmd} {i : Nat} {s : State} (kz : Kept z s) : Kept z (startSlice c i s) := by
  unfold startSlice
  repeat'
    first
    | (extract_lets -merge -useContext -underBinder +onlyGivenNames x; apply Kept.cut (x := x); rotate_left; intro hx; clear_value x; rotate_left; dsimp only [x]; clear x)
    | (extract_lets -merge -useContext -underBinder +onlyGivenNames x; subst x)
    | with_reducible assumption
    | with_reducible apply Kept.refl
    | with_reducible apply startThreads_kept
    | with_reducible apply drawn_kept
    | with_reducible apply modCmd_kept
    | with_reducible apply Kept.ite
    | intro _
    | with_reducible rfl
    | split
    | with_reducible apply Kept.set
    | (simp only [lengths, modAt_length, setAt_length, List.length_map, List.length_mapIdx]; done)

theorem modJob_kept {z : State} {frame : Nat} {golden : Bool} {g : SafJob → SafJob} {s : State} (kz : Kept z s) : Kept z (modJob frame golden g s) := by
  unfold modJob
  repeat'
    first
    | with_reducible assumption
    | with_reducible apply Kept.refl
    | with_reducible apply Kept.ite
    | intro _
    | with_reducible rfl
    | split
    | with_reducible apply Kept.set
    | (simp only [lengths, modAt_length, setAt_length, List.length_map, List.length_mapIdx]; done)

theorem requeueJobs_kept {z : State} {s : State} (kz : Kept z s) : Kept z (requeueJobs s) := by
  unfold requeueJobs
  repeat'
    first
    | with_reducible assumption
    | with_reducible apply Kept.refl
    | with_reducible apply Kept.ite
    | intro _
    | with_reducible rfl
    | split
    | with_reducible apply Kept.set
    | (simp only [lengths, modAt_length, setAt_length, List.length_map, List.length_mapIdx]; done)

theorem dispatchAt_kept {z : State} {edge : Bool} {s : State} {i : Nat} (kz : Kept z s) : Kept z (dispatchAt edge s i) := by
  unfold dispatchAt
  repeat'
    first
    | with_reducible assumption
    | with_reducible apply Kept.refl
    | with_reducible apply startSlice_kept
    | with_reducible apply Kept.ite
    | intro _
    | with_reducible rfl
    | split
    | with_reducible apply Kept.set
    | (simp only [lengths, modAt_length, setAt_length, List.length_map, List.length_mapIdx]; done)

theorem dispatchOn_kept {z : State} {s : State} {i : Nat} (kz : Kept z s) : Kept z (dispatchOn s i) := by
  unfold dispatchOn
  repeat'
    first
    | with_reducible assumption
    | with_reducible apply Kept.refl
    | with_reducible apply modJob_kept
    | with_reducible apply dispatchAt_kept
    | with_reducible apply Kept.ite
    | intro _
    | with_reducible rfl
    | split
    | with_reducible apply Kept.set
    | (simp only [lengths, modAt_length, setAt_length, List.length_map, List.length_mapIdx]; done)

theorem unqueue_kept {z : State} {s : State} {i : Nat} (kz : Kept z s) : Kept z (unqueue s i) := by
  unfold unqueue
  repeat'
    first
    | with_reducible assumption
    | with_reducible apply Kept.refl
    | with_reducible apply modCmd_kept
    | with_reducible apply modFret_kept
    | with_reducible apply Kept.ite
    | intro _
    | with_reducible rfl
    | split
    | with_reducible apply Kept.set
    | (simp only [lengths, modAt_length, setAt_length, List.length_map, List.length_mapIdx]; done)

theorem unqueueAll_kept {z : State} {s : State} (kz : Kept z s) : Kept z (unqueueAll s) := by
  unfold unqueueAll
  repeat'
    first
    | with_reducible assumption
    | with_reducible apply Kept.refl
    | with_reducible apply Kept.foldl
    | with_reducible apply unqueue_kept
    | with_reducible apply Kept.ite
    | intro _
    | with_reducible rfl
    | split
    | with_reducible apply Kept.set
    | (simp only [lengths, modAt_length, setAt_length, List.length_map, List.length_mapIdx]; done)

theorem dispatchFrets_kept {z : State} {s : State} (kz : Kept z s) : Kept z (dispatchFrets s) := by
  unfold dispatchFrets
  repeat'
    first
    | with_reducible assumption
    | with_reducible apply Kept.refl
    | with_reducible apply Kept.foldl
    | with_reducible apply dispatchOn_kept
    | with_reducible apply requeueJobs_kept
    | with_reducible apply unqueueAll_kept
    | with_reducible apply Kept.ite
    | intro _
    | with_reducible rfl
    | split
    | with_reducible apply Kept.set
    | (simp only [lengths, modAt_length, setAt_length, List.length_map, List.length_mapIdx]; done)

theorem charge_kept {z : State} {f : Nat} {prio : Nat} {c : Nat} {s : State} (kz : Kept z s) : Kept z (charge f prio c s) := by
  unfold charge
  repeat'
    first
    | (extract_lets -merge -useContext -underBinder +onlyGivenNames x; subst x)
    | with_reducible assumption
    | with_reducible apply Kept.refl
    | with_reducible rfl
    | split
    | with_reducible apply Kept.set
    | (simp only [lengths, modAt_length]; done)

theorem joinLevel_kept {z : State} {f : Nat} {prio : Nat} {s : State} (kz : Kept z s) : Kept z (joinLevel f prio s) := by
  unfold joinLevel
  repeat'
    first
    | (extract_lets -merge -useContext -underBinder +onlyGivenNames x; subst x)
    | with_reducible assumption
    | with_reducible apply Kept.refl
    | with_reducible apply Kept.foldl
    | with_reducible apply Kept.ite
    | intro _
    | with_reducible rfl
    | split
    | with_reducible apply Kept.set
    | (simp only [lengths, setAt_length]; done)

theorem startWork_kept {z : State} {c : Cmd} {segs : List Seg} {result : Nat} {work : List Work} {s : State} (kz : Kept z s) : Kept z (startWork c segs result work s) := by
  unfold startWork
  repeat'
    first
    | with_reducible assumption
    | with_reducible apply Kept.refl
    | with_reducible apply stageDone_kept
    | with_reducible apply modCmd_kept
    | with_reducible apply joinLevel_kept
    | with_reducible apply Kept.ite
    | intro _
    | with_reducible rfl
    | split
    | with_reducible apply Kept.set
    | (simp only [lengths, modAt_length, setAt_length, List.length_map, List.length_mapIdx]; done)

theorem freeRun_kept {z : State} {stays : Bool} {r : Run} {s : State} (kz : Kept z s) : Kept z (freeRun stays r s) := by
  unfold freeRun
  repeat'
    first
    | with_reducible assumption
    | with_reducible apply Kept.refl
    | with_reducible apply Kept.ite
    | intro _
    | with_reducible rfl
    | split
    | with_reducible apply Kept.set
    | (simp only [lengths, modAt_length, setAt_length, List.length_map, List.length_mapIdx]; done)

theorem freeFrets_kept {z : State} {r : Run} {s : State} (kz : Kept z s) : Kept z (freeFrets r s) := by
  unfold freeFrets
  repeat'
    first
    | with_reducible assumption
    | with_reducible apply Kept.refl
    | with_reducible apply freeRun_kept
    | with_reducible apply Kept.ite
    | intro _
    | with_reducible rfl
    | split
    | with_reducible apply Kept.set
    | (simp only [lengths, modAt_length, setAt_length, List.length_map, List.length_mapIdx]; done)

theorem leaveArray_kept {z : State} {i : Nat} {x : ArrayEnd} {s : State} (kz : Kept z s) : Kept z (leaveArray i x s) := by
  unfold leaveArray
  repeat'
    first
    | with_reducible assumption
    | with_reducible apply Kept.refl
    | with_reducible apply Kept.foldl
    | with_reducible apply modFret_kept
    | with_reducible apply Kept.ite
    | intro _
    | with_reducible rfl
    | split
    | with_reducible apply Kept.set
    | (simp only [lengths, modAt_length, setAt_length, List.length_map, List.length_mapIdx]; done)

theorem leaveArrays_kept {z : State} {fs : List Nat} {xs : List ArrayEnd} {s : State} (kz : Kept z s) : Kept z (leaveArrays fs xs s) := by
  unfold leaveArrays
  repeat'
    first
    | with_reducible assumption
    | with_reducible apply Kept.refl
    | with_reducible apply Kept.foldl
    | with_reducible apply leaveArray_kept
    | with_reducible apply Kept.ite
    | intro _
    | with_reducible rfl
    | split
    | with_reducible apply Kept.set
    | (simp only [lengths, modAt_length, setAt_length, List.length_map, List.length_mapIdx]; done)

theorem clearArrays_kept {z : State} {fs : List Nat} {s : State} (kz : Kept z s) : Kept z (clearArrays fs s) := by
  unfold clearArrays
  repeat'
    first
    | with_reducible assumption
    | with_reducible apply Kept.refl
    | with_reducible apply Kept.foldl
    | with_reducible apply modFret_kept
    | with_reducible apply Kept.ite
    | intro _
    | with_reducible rfl
    | split
    | with_reducible apply Kept.set
    | (simp only [lengths, modAt_length, setAt_length, List.length_map, List.length_mapIdx]; done)

theorem leaveArea_kept {z : State} {fs : List Nat} {bs : Bytes} {s : State} (kz : Kept z s) : Kept z (leaveArea fs bs s) := by
  unfold leaveArea
  repeat'
    first
    | with_reducible assumption
    | with_reducible apply Kept.refl
    | with_reducible apply Kept.foldl
    | with_reducible apply writeBytes_kept
    | with_reducible apply Kept.ite
    | intro _
    | with_reducible rfl
    | split
    | with_reducible apply Kept.set
    | (simp only [lengths, modAt_length, setAt_length, List.length_map, List.length_mapIdx]; done)

theorem leaveStages_kept {z : State} {r : Run} {plan : List StagePlan} {s : State} (kz : Kept z s) : Kept z (leaveStages r plan s) := by
  unfold leaveStages
  repeat'
    first
    | with_reducible assumption
    | with_reducible apply Kept.refl
    | with_reducible apply Kept.foldl
    | with_reducible apply leaveArea_kept
    | with_reducible apply leaveArrays_kept
    | with_reducible apply Kept.ite
    | intro _
    | with_reducible rfl
    | split
    | with_reducible apply Kept.set
    | (simp only [lengths, modAt_length, setAt_length, List.length_map, List.length_mapIdx]; done)

theorem endSlice_kept {z : State} {r : Run} {cycles : Nat} {s : State} (kz : Kept z s) : Kept z (endSlice r cycles s) := by
  unfold endSlice
  repeat'
    first
    | (extract_lets -merge -useContext -underBinder +onlyGivenNames x; apply Kept.cut (x := x); rotate_left; intro hx; clear_value x; rotate_left; dsimp only [x]; clear x)
    | (extract_lets -merge -useContext -underBinder +onlyGivenNames x; subst x)
    | with_reducible assumption
    | with_reducible apply Kept.refl
    | with_reducible apply freeFrets_kept
    | with_reducible apply leaveStages_kept
    | with_reducible apply leaveArea_kept
    | with_reducible apply charge_kept
    | with_reducible apply leaveArrays_kept
    | with_reducible apply freeRun_kept
    | with_reducible apply joinLevel_kept
    | with_reducible apply modCmd_kept
    | with_reducible apply Kept.ite
    | intro _
    | with_reducible rfl
    | split
    | with_reducible apply Kept.set
    | (simp only [lengths, modAt_length, setAt_length, List.length_map, List.length_mapIdx]; done)

theorem requeue_kept {z : State} {id : Nat} {r : Retry} {s : State} (kz : Kept z s) : Kept z (requeue id r s) := by
  unfold requeue
  repeat'
    first
    | with_reducible assumption
    | with_reducible apply Kept.refl
    | with_reducible apply modCmd_kept
    | with_reducible apply joinLevel_kept
    | with_reducible apply Kept.ite
    | intro _
    | with_reducible rfl
    | split
    | with_reducible apply Kept.set
    | (simp only [lengths, modAt_length, setAt_length, List.length_map, List.length_mapIdx]; done)

theorem zeroFretWeights_kept {z : State} {i : Nat} {s : State} (kz : Kept z s) : Kept z (zeroFretWeights i s) := by
  unfold zeroFretWeights
  repeat'
    first
    | (extract_lets -merge -useContext -underBinder +onlyGivenNames x; apply Kept.cut (x := x); rotate_left; intro hx; clear_value x; rotate_left; dsimp only [x]; clear x)
    | with_reducible assumption
    | with_reducible apply Kept.refl
    | with_reducible apply zeroDev_kept

theorem zeroFret_kept {z : State} {i : Nat} {s : State} (kz : Kept z s) : Kept z (zeroFret i s) := by
  unfold zeroFret
  repeat'
    first
    | with_reducible assumption
    | with_reducible apply Kept.refl
    | with_reducible apply zeroDev_kept

theorem zeroBuffer_kept {z : State} {j : Nat} {s : State} (kz : Kept z s) : Kept z (zeroBuffer j s) := by
  unfold zeroBuffer
  repeat'
    first
    | with_reducible assumption
    | with_reducible apply Kept.refl
    | with_reducible apply zeroDev_kept

theorem evictHot_kept {z : State} {e : Nat} {s : State} (kz : Kept z s) : Kept z (evictHot e s) := by
  unfold evictHot
  repeat'
    first
    | (extract_lets -merge -useContext -underBinder +onlyGivenNames x; apply Kept.cut (x := x); rotate_left; intro hx; clear_value x; rotate_left; dsimp only [x]; clear x)
    | (extract_lets -merge -useContext -underBinder +onlyGivenNames x; subst x)
    | with_reducible assumption
    | with_reducible apply Kept.refl
    | with_reducible apply Kept.foldl
    | with_reducible apply zeroDev_kept
    | with_reducible apply Kept.ite
    | intro _
    | with_reducible rfl
    | split
    | with_reducible apply Kept.set
    | (simp only [lengths]; done)

theorem evictString_kept {z : State} {j : Nat} {s : State} (kz : Kept z s) : Kept z (evictString j s) := by
  unfold evictString
  repeat'
    first
    | with_reducible assumption
    | with_reducible apply Kept.refl
    | with_reducible apply Kept.foldl
    | with_reducible apply evictHot_kept
    | intro _

theorem evictThen_keptP {z : State} {own : Option Nat} {e : Nat} {next : State → State × Option (List Nat)} {s t : State}
    {v : Option (List Nat)} (h : Kept z s) (k : ∀ {s t : State}, Kept z s → next s = (t, v) → Kept z t)
    (e_ : evictThen own e next s = (t, v)) : Kept z t := by
  unfold evictThen at e_
  split at e_
  · cases e_; exact h
  · exact k (evictHot_kept h) e_

theorem roomStep_keptP {z : State} {e need : Nat} {next : State → State × Option (List Nat)} {s t : State}
    {v : Option (List Nat)} (h : Kept z s) (k : ∀ {s t : State}, Kept z s → next s = (t, v) → Kept z t)
    (e_ : roomStep e need next s = (t, v)) : Kept z t := by
  unfold roomStep at e_
  split at e_
  · split at e_
    · exact evictThen_keptP h k e_
    · cases e_; exact h
  · exact evictThen_keptP h k e_

theorem makeRoom_keptP {z : State} {e need fuel : Nat} {s t : State} {v : Option (List Nat)} (h : Kept z s)
    (e_ : makeRoom e need fuel s = (t, v)) : Kept z t := by
  induction fuel generalizing s t with
  | zero => cases e_; exact h
  | succ n ih => exact roomStep_keptP h (fun k e => ih k e) e_

theorem startSwitch_kept {z : State} {e : Nat} {s : State} (kz : Kept z s) : Kept z (startSwitch e s) := by
  unfold startSwitch
  repeat'
    first
    | (extract_lets -merge -useContext -underBinder +onlyGivenNames x; subst x)
    | with_reducible assumption
    | with_reducible apply Kept.refl
    | with_reducible apply makeRoom_kept1
    | (with_reducible apply makeRoom_keptP; rotate_left; assumption)
    | with_reducible apply Kept.ite
    | intro _
    | with_reducible rfl
    | split
    | with_reducible apply Kept.set
    | (simp only [lengths]; done)

theorem startSwitches_kept {z : State} {s : State} (kz : Kept z s) : Kept z (startSwitches s) := by
  unfold startSwitches
  repeat'
    first
    | with_reducible assumption
    | with_reducible apply Kept.refl
    | with_reducible apply Kept.foldl
    | with_reducible apply startSwitch_kept
    | with_reducible apply Kept.ite
    | intro _
    | with_reducible rfl
    | split

theorem dispatch_kept {z : State} {s : State} (kz : Kept z s) : Kept z (dispatch s) := by
  unfold dispatch
  repeat'
    first
    | with_reducible assumption
    | with_reducible apply Kept.refl
    | with_reducible apply dispatchFrets_kept
    | with_reducible apply startSwitches_kept

theorem rerunQuietly_kept {z : State} {r : Run} {s : State} (kz : Kept z s) : Kept z (rerunQuietly r s) := by
  unfold rerunQuietly
  repeat'
    first
    | with_reducible assumption
    | with_reducible apply Kept.refl
    | with_reducible apply requeue_kept
    | with_reducible apply endThreads_kept
    | with_reducible apply freeFrets_kept

theorem dropSaved_kept {z : State} {c : Cmd} {idx : Nat} {s : State} (kz : Kept z s) : Kept z (dropSaved c idx s) := by
  unfold dropSaved
  repeat'
    first
    | with_reducible assumption
    | with_reducible apply Kept.refl
    | with_reducible apply modCmd_kept
    | with_reducible apply Kept.ite
    | intro _
    | with_reducible rfl
    | split
    | with_reducible apply Kept.set
    | (simp only [lengths, modAt_length, setAt_length, List.length_map, List.length_mapIdx]; done)

theorem faultSlice_kept {z : State} {i : Nat} {sram : Bool} {r : Run} {s : State} (kz : Kept z s) : Kept z (faultSlice i sram r s) := by
  unfold faultSlice
  repeat'
    first
    | (extract_lets -merge -useContext -underBinder +onlyGivenNames x; apply Kept.cut (x := x); rotate_left; intro hx; clear_value x; rotate_left; dsimp only [x]; clear x)
    | (extract_lets -merge -useContext -underBinder +onlyGivenNames x; subst x)
    | with_reducible assumption
    | with_reducible apply Kept.refl
    | with_reducible apply freeFrets_kept
    | with_reducible apply dropSaved_kept
    | with_reducible apply clearArrays_kept
    | with_reducible apply endThreads_kept
    | with_reducible apply failCmd_kept
    | with_reducible apply postTo_kept
    | with_reducible apply requeue_kept
    | with_reducible apply Kept.ite
    | intro _
    | with_reducible rfl
    | split
    | with_reducible apply Kept.set
    | (simp only [lengths, modAt_length, setAt_length, List.length_map, List.length_mapIdx]; done)

theorem partMoved_kept {z : State} {s : State} (kz : Kept z s) : Kept z (partMoved s) := by
  unfold partMoved
  repeat'
    first
    | (extract_lets -merge -useContext -underBinder +onlyGivenNames x; subst x)
    | with_reducible assumption
    | with_reducible apply Kept.refl
    | with_reducible rfl
    | split
    | with_reducible apply Kept.set
    | (simp only [lengths]; done)

theorem clearForPartition_kept {z : State} {fs : List Nat} {s : State} (kz : Kept z s) : Kept z (clearForPartition fs s) := by
  unfold clearForPartition
  repeat'
    first
    | with_reducible assumption
    | with_reducible apply Kept.refl
    | with_reducible apply Kept.foldl
    | with_reducible apply rerunQuietly_kept
    | intro _

theorem partitionReplace_kept {z : State} {i : Nat} {s : State} (kz : Kept z s) : Kept z (partitionReplace i s) := by
  unfold partitionReplace
  repeat'
    first
    | (extract_lets -merge -useContext -underBinder +onlyGivenNames x; subst x)
    | with_reducible assumption
    | with_reducible apply Kept.refl
    | with_reducible apply partMoved_kept
    | with_reducible apply clearForPartition_kept
    | with_reducible apply Kept.ite
    | intro _
    | with_reducible rfl
    | split
    | with_reducible apply Kept.set

theorem partitionMove_kept {z : State} {j : Nat} {s : State} (kz : Kept z s) : Kept z (partitionMove j s) := by
  unfold partitionMove
  repeat'
    first
    | (extract_lets -merge -useContext -underBinder +onlyGivenNames x; subst x)
    | with_reducible assumption
    | with_reducible apply Kept.refl
    | with_reducible apply latch_kept
    | with_reducible apply partMoved_kept
    | with_reducible apply clearForPartition_kept
    | with_reducible apply Kept.ite
    | intro _
    | with_reducible rfl
    | split
    | with_reducible apply Kept.set

theorem quarantineString_kept {z : State} {j : Nat} {cause : Nat} {s : State} (kz : Kept z s) : Kept z (quarantineString j cause s) := by
  unfold quarantineString
  repeat'
    first
    | (extract_lets -merge -useContext -underBinder +onlyGivenNames x; apply Kept.cut (x := x); rotate_left; intro hx; clear_value x; rotate_left; dsimp only [x]; clear x)
    | (extract_lets -merge -useContext -underBinder +onlyGivenNames x; subst x)
    | with_reducible assumption
    | with_reducible apply Kept.refl
    | with_reducible apply Kept.foldl
    | with_reducible apply modString_kept
    | with_reducible apply postBoth_kept
    | with_reducible apply faultSlice_kept
    | with_reducible apply zeroBuffer_kept
    | with_reducible apply zeroFretWeights_kept
    | with_reducible apply evictString_kept
    | with_reducible apply partitionMove_kept
    | with_reducible apply Kept.ite
    | intro _

theorem quarantineFret_kept {z : State} {i : Nat} {s : State} (kz : Kept z s) : Kept z (quarantineFret i s) := by
  unfold quarantineFret
  repeat'
    first
    | (extract_lets -merge -useContext -underBinder +onlyGivenNames x; apply Kept.cut (x := x); rotate_left; intro hx; clear_value x; rotate_left; dsimp only [x]; clear x)
    | (extract_lets -merge -useContext -underBinder +onlyGivenNames x; subst x)
    | with_reducible assumption
    | with_reducible apply Kept.refl
    | with_reducible apply modFret_kept
    | with_reducible apply zeroFretWeights_kept
    | with_reducible apply postBoth_kept
    | with_reducible apply partitionReplace_kept
    | with_reducible apply quarantineString_kept
    | with_reducible apply Kept.ite
    | intro _

theorem faultJob_kept {z : State} {i : Nat} {s : State} (kz : Kept z s) : Kept z (faultJob i s) := by
  unfold faultJob
  repeat'
    first
    | (extract_lets -merge -useContext -underBinder +onlyGivenNames x; apply Kept.cut (x := x); rotate_left; intro hx; clear_value x; rotate_left; dsimp only [x]; clear x)
    | (extract_lets -merge -useContext -underBinder +onlyGivenNames x; subst x)
    | with_reducible assumption
    | with_reducible apply Kept.refl
    | with_reducible apply postTo_kept
    | with_reducible apply modJob_kept
    | with_reducible apply Kept.ite
    | intro _
    | with_reducible rfl
    | split
    | with_reducible apply Kept.set
    | (simp only [lengths, modAt_length, setAt_length, List.length_map, List.length_mapIdx]; done)

theorem strike_kept {z : State} {i : Nat} {sram : Bool} {x : Struck} {s : State} (kz : Kept z s) : Kept z (strike i sram x s) := by
  unfold strike
  repeat'
    first
    | with_reducible assumption
    | with_reducible apply Kept.refl
    | with_reducible apply faultJob_kept
    | with_reducible apply faultSlice_kept
    | with_reducible apply Kept.ite
    | intro _
    | with_reducible rfl
    | split
    | with_reducible apply Kept.set
    | (simp only [lengths, modAt_length, setAt_length, List.length_map, List.length_mapIdx]; done)

theorem fretFaulted_kept {z : State} {i : Nat} {sram : Bool} {struck : List Struck} {s : State} (kz : Kept z s) : Kept z (fretFaulted i sram struck s) := by
  unfold fretFaulted
  repeat'
    first
    | (extract_lets -merge -useContext -underBinder +onlyGivenNames x; apply Kept.cut (x := x); rotate_left; intro hx; clear_value x; rotate_left; dsimp only [x]; clear x)
    | (extract_lets -merge -useContext -underBinder +onlyGivenNames x; subst x)
    | with_reducible assumption
    | with_reducible apply Kept.refl
    | with_reducible apply Kept.foldl
    | with_reducible apply modFret_kept
    | with_reducible apply strike_kept
    | with_reducible apply quarantineFret_kept
    | with_reducible apply Kept.ite
    | intro _
    | with_reducible rfl
    | split
    | with_reducible apply Kept.set
    | (simp only [lengths, modAt_length, setAt_length, List.length_map, List.length_mapIdx]; done)

theorem killSlice_kept {z : State} {p : Run × Cmd} {s : State} (kz : Kept z s) : Kept z (killSlice p s) := by
  unfold killSlice
  repeat'
    first
    | (extract_lets -merge -useContext -underBinder +onlyGivenNames x; apply Kept.cut (x := x); rotate_left; intro hx; clear_value x; rotate_left; dsimp only [x]; clear x)
    | (extract_lets -merge -useContext -underBinder +onlyGivenNames x; subst x)
    | with_reducible assumption
    | with_reducible apply Kept.refl
    | with_reducible apply endThreads_kept
    | with_reducible apply freeFrets_kept
    | with_reducible apply failCmd_kept
    | with_reducible apply requeue_kept
    | with_reducible apply Kept.ite
    | intro _
    | with_reducible rfl
    | split
    | with_reducible apply Kept.set
    | (simp only [lengths]; done)

theorem preempt_kept {z : State} {w : Cmd} {s : State} (kz : Kept z s) : Kept z (preempt w s) := by
  unfold preempt
  repeat'
    first
    | (extract_lets -merge -useContext -underBinder +onlyGivenNames x; apply Kept.cut (x := x); rotate_left; intro hx; clear_value x; rotate_left; dsimp only [x]; clear x)
    | (extract_lets -merge -useContext -underBinder +onlyGivenNames x; subst x)
    | with_reducible assumption
    | with_reducible apply Kept.refl
    | with_reducible apply killSlice_kept
    | with_reducible apply startSlice_kept
    | with_reducible apply Kept.ite
    | intro _
    | with_reducible rfl
    | split
    | with_reducible apply Kept.set
    | (simp only [lengths, modAt_length, setAt_length, List.length_map, List.length_mapIdx]; done)

end Sys2Proof.Laws
end

