-- ==== Sys2Proof/Laws/KeptStream.lean ====
section
/-! SUPPORT. Laws/KeptStream.lean: every operation of Machine/Stream.lean keeps what `Kept` says. -/

set_option Elab.async false

namespace Sys2Proof.Laws
open Sys2Proof Sys2Proof.Machine

theorem setPass_kept {z : State} {p : Nat} {g : Pass → Pass} {s : State} (kz : Kept z s) : Kept z (setPass p g s) := by
  unfold setPass
  repeat'
    first
    | (extract_lets -merge -useContext -underBinder +onlyGivenNames x; subst x)
    | with_reducible assumption
    | with_reducible apply Kept.refl
    | with_reducible apply Kept.ite
    | intro _
    | with_reducible rfl
    | split
    | with_reducible apply Kept.set

theorem countRegion_kept {z : State} {n : Nat} {r : Nat} {s : State} (kz : Kept z s) : Kept z (countRegion n r s) := by
  unfold countRegion
  repeat'
    first
    | (extract_lets -merge -useContext -underBinder +onlyGivenNames x; apply Kept.cut (x := x); rotate_left; intro hx; clear_value x; rotate_left; dsimp only [x]; clear x)
    | (extract_lets -merge -useContext -underBinder +onlyGivenNames x; subst x)
    | with_reducible assumption
    | with_reducible apply Kept.refl
    | with_reducible apply Kept.ite
    | intro _
    | with_reducible rfl
    | split
    | with_reducible apply Kept.set
    | (simp only [lengths, modAt_length, setAt_length, List.length_map, List.length_mapIdx]; done)

theorem countReadsOf_kept {z : State} {gs : List Nat} {s : State} (kz : Kept z s) : Kept z (countReadsOf gs s) := by
  unfold countReadsOf
  repeat'
    first
    | with_reducible assumption
    | with_reducible apply Kept.refl
    | with_reducible apply Kept.foldl
    | with_reducible apply countRegion_kept
    | with_reducible apply Kept.ite
    | intro _
    | with_reducible rfl
    | split
    | with_reducible apply Kept.set
    | (simp only [lengths, modAt_length, setAt_length, List.length_map, List.length_mapIdx]; done)

theorem addUsed_kept {z : State} {p : Nat} {f : Pass → List (Nat × Nat × Nat)} {s : State} (kz : Kept z s) : Kept z (addUsed p f s) := by
  unfold addUsed
  repeat'
    first
    | with_reducible assumption
    | with_reducible apply Kept.refl
    | with_reducible apply setPass_kept
    | with_reducible apply Kept.ite
    | intro _
    | with_reducible rfl
    | split
    | with_reducible apply Kept.set
    | (simp only [lengths, modAt_length, setAt_length, List.length_map, List.length_mapIdx]; done)

theorem markUsed_kept {z : State} {c : Cmd} {s : State} (kz : Kept z s) : Kept z (markUsed c s) := by
  unfold markUsed
  repeat'
    first
    | (extract_lets -merge -useContext -underBinder +onlyGivenNames x; apply Kept.cut (x := x); rotate_left; intro hx; clear_value x; rotate_left; dsimp only [x]; clear x)
    | (extract_lets -merge -useContext -underBinder +onlyGivenNames x; subst x)
    | with_reducible assumption
    | with_reducible apply Kept.refl
    | with_reducible apply Kept.foldl
    | with_reducible apply addUsed_kept
    | with_reducible apply Kept.ite
    | intro _
    | with_reducible rfl
    | split
    | with_reducible apply Kept.set
    | (simp only [lengths, modAt_length, setAt_length, List.length_map, List.length_mapIdx]; done)

theorem markAccepted_kept {z : State} {c : Cmd} {s : State} (kz : Kept z s) : Kept z (markAccepted c s) := by
  unfold markAccepted
  repeat'
    first
    | (extract_lets -merge -useContext -underBinder +onlyGivenNames x; apply Kept.cut (x := x); rotate_left; intro hx; clear_value x; rotate_left; dsimp only [x]; clear x)
    | (extract_lets -merge -useContext -underBinder +onlyGivenNames x; subst x)
    | with_reducible assumption
    | with_reducible apply Kept.refl
    | with_reducible apply Kept.foldl
    | with_reducible apply setPass_kept
    | with_reducible apply Kept.ite
    | intro _
    | with_reducible rfl
    | split
    | with_reducible apply Kept.set
    | (simp only [lengths, modAt_length, setAt_length, List.length_map, List.length_mapIdx]; done)

theorem markWaiting_kept {z : State} {f : Nat} {session : Nat} {s : State} (kz : Kept z s) : Kept z (markWaiting f session s) := by
  unfold markWaiting
  repeat'
    first
    | with_reducible assumption
    | with_reducible apply Kept.refl
    | with_reducible apply Kept.foldl
    | with_reducible apply markAccepted_kept
    | with_reducible apply Kept.ite
    | intro _
    | with_reducible rfl
    | split
    | with_reducible apply Kept.set
    | (simp only [lengths, modAt_length, setAt_length, List.length_map, List.length_mapIdx]; done)

theorem markDiscarded_kept {z : State} {c : Cmd} {s : State} (kz : Kept z s) : Kept z (markDiscarded c s) := by
  unfold markDiscarded
  repeat'
    first
    | with_reducible assumption
    | with_reducible apply Kept.refl
    | with_reducible apply Kept.foldl
    | with_reducible apply addUsed_kept
    | with_reducible apply Kept.ite
    | intro _
    | with_reducible rfl
    | split
    | with_reducible apply Kept.set
    | (simp only [lengths, modAt_length, setAt_length, List.length_map, List.length_mapIdx]; done)

theorem releaseIn_kept {z : State} {s : State} {p : Pass} (kz : Kept z s) : Kept z (releaseIn s p) := by
  unfold releaseIn
  repeat'
    first
    | with_reducible assumption
    | with_reducible apply Kept.refl
    | with_reducible apply setPass_kept

theorem dropStringParts_kept {z : State} {j : Nat} {s : State} (kz : Kept z s) : Kept z (dropStringParts j s) := by
  unfold dropStringParts
  repeat'
    first
    | with_reducible assumption
    | with_reducible apply Kept.refl
    | with_reducible apply Kept.ite
    | intro _
    | with_reducible rfl
    | split
    | with_reducible apply Kept.set
    | (simp only [lengths, modAt_length, setAt_length, List.length_map, List.length_mapIdx]; done)

theorem sweepStrings_kept {z : State} {s : State} (kz : Kept z s) : Kept z (sweepStrings s) := by
  unfold sweepStrings
  repeat'
    first
    | with_reducible assumption
    | with_reducible apply Kept.refl
    | with_reducible apply Kept.foldl
    | with_reducible apply dropStringParts_kept
    | with_reducible apply Kept.ite
    | intro _
    | with_reducible rfl
    | split
    | with_reducible apply Kept.set
    | (simp only [lengths, modAt_length, setAt_length, List.length_map, List.length_mapIdx]; done)

theorem openPass_kept {z : State} {m : Member} {img : Image} {f : Nat} {pl : Placed} {budget : Nat} {mask : Nat} {first : Nat} {last : Nat} {safety : Bool} {s : State} (kz : Kept z s) : Kept z (openPass m img f pl budget mask first last safety s) := by
  unfold openPass
  repeat'
    first
    | (extract_lets -merge -useContext -underBinder +onlyGivenNames x; subst x)
    | with_reducible assumption
    | with_reducible apply Kept.refl
    | with_reducible rfl
    | split
    | with_reducible apply Kept.set

theorem joinPass_kept {z : State} {m : Member} {p : Nat} {s : State} (kz : Kept z s) : Kept z (joinPass m p s) := by
  unfold joinPass
  repeat'
    first
    | with_reducible assumption
    | with_reducible apply Kept.refl
    | with_reducible apply setPass_kept
    | with_reducible apply Kept.ite
    | intro _
    | with_reducible rfl
    | split
    | with_reducible apply Kept.set
    | (simp only [lengths, modAt_length, setAt_length, List.length_map, List.length_mapIdx]; done)

theorem joinOrOpen_kept1 {z : State} {m : Member} {img : Image} {f : Nat} {pl : Placed} {budget : Nat} {mask : Nat} {first : Nat} {last : Nat} {safety : Bool} {s : State} (kz : Kept z s) : Kept z (joinOrOpen m img f pl budget mask first last safety s).1 := by
  unfold joinOrOpen
  repeat'
    first
    | with_reducible assumption
    | with_reducible apply Kept.refl
    | with_reducible apply joinPass_kept
    | with_reducible apply openPass_kept
    | with_reducible apply Kept.ite
    | intro _
    | with_reducible rfl
    | split
    | with_reducible apply Kept.set
    | (simp only [lengths, modAt_length, setAt_length, List.length_map, List.length_mapIdx]; done)

theorem joinOrOpen_keptP {z : State} {m : Member} {img : Image} {f : Nat} {pl : Placed} {budget : Nat} {mask : Nat} {first : Nat} {last : Nat} {safety : Bool} {s : State} {t_ : State} {v_ : Nat} (kz : Kept z s) (e_ : joinOrOpen m img f pl budget mask first last safety s = (t_, v_)) : Kept z t_ := by
  have k := joinOrOpen_kept1 (m := m) (img := img) (f := f) (pl := pl) (budget := budget) (mask := mask) (first := first) (last := last) (safety := safety) (s := s) kz
  rw [e_] at k
  exact k

theorem failPassWith_kept {z : State} {p : Nat} {i : Nat} {e : Fail} {s : State} (kz : Kept z s) : Kept z (failPassWith p i e s) := by
  unfold failPassWith
  repeat'
    first
    | (extract_lets -merge -useContext -underBinder +onlyGivenNames x; apply Kept.cut (x := x); rotate_left; intro hx; clear_value x; rotate_left; dsimp only [x]; clear x)
    | (extract_lets -merge -useContext -underBinder +onlyGivenNames x; subst x)
    | with_reducible assumption
    | with_reducible apply Kept.refl
    | with_reducible apply Kept.foldl
    | with_reducible apply failCmd_kept
    | with_reducible apply setPass_kept
    | with_reducible apply Kept.ite
    | intro _
    | with_reducible rfl
    | split
    | with_reducible apply Kept.set
    | (simp only [lengths, modAt_length, setAt_length, List.length_map, List.length_mapIdx]; done)

theorem failPass_kept {z : State} {p : Nat} {i : Nat} {status : Nat} {s : State} (kz : Kept z s) : Kept z (failPass p i status s) := by
  unfold failPass
  repeat'
    first
    | (extract_lets -merge -useContext -underBinder +onlyGivenNames x; apply Kept.cut (x := x); rotate_left; intro hx; clear_value x; rotate_left; dsimp only [x]; clear x)
    | (extract_lets -merge -useContext -underBinder +onlyGivenNames x; subst x)
    | with_reducible assumption
    | with_reducible apply Kept.refl
    | with_reducible apply failPassWith_kept
    | with_reducible apply Kept.ite
    | intro _
    | with_reducible rfl
    | split
    | with_reducible apply Kept.set
    | (simp only [lengths, modAt_length, setAt_length, List.length_map, List.length_mapIdx]; done)

theorem passForOperator_kept1 {z : State} {c : Cmd} {img : Image} {t : Config.TensorInfo} {s : State} (kz : Kept z s) : Kept z (passForOperator c img t s).1 := by
  unfold passForOperator
  repeat'
    first
    | (extract_lets -merge -useContext -underBinder +onlyGivenNames x; apply Kept.cut (x := x); rotate_left; intro hx; clear_value x; rotate_left; dsimp only [x]; clear x)
    | (extract_lets -merge -useContext -underBinder +onlyGivenNames x; subst x)
    | with_reducible assumption
    | with_reducible apply Kept.refl
    | with_reducible apply joinOrOpen_kept1
    | (with_reducible apply joinOrOpen_keptP; rotate_left; assumption)
    | with_reducible apply Kept.ite
    | intro _
    | with_reducible rfl
    | split
    | with_reducible apply Kept.set
    | (simp only [lengths, modAt_length, setAt_length, List.length_map, List.length_mapIdx]; done)

theorem passForOperator_keptP {z : State} {c : Cmd} {img : Image} {t : Config.TensorInfo} {s : State} {t_ : State} {v_ : Nat} (kz : Kept z s) (e_ : passForOperator c img t s = (t_, v_)) : Kept z t_ := by
  have k := passForOperator_kept1 (c := c) (img := img) (t := t) (s := s) kz
  rw [e_] at k
  exact k

theorem bindStream_kept {z : State} {id : Nat} {img : Image} {x : Config.TensorInfo} {s : State} (kz : Kept z s) : Kept z (bindStream id img x s) := by
  unfold bindStream
  repeat'
    first
    | (extract_lets -merge -useContext -underBinder +onlyGivenNames x; apply Kept.cut (x := x); rotate_left; intro hx; clear_value x; rotate_left; dsimp only [x]; clear x)
    | (extract_lets -merge -useContext -underBinder +onlyGivenNames x; subst x)
    | with_reducible assumption
    | with_reducible apply Kept.refl
    | with_reducible apply passForOperator_kept1
    | (with_reducible apply passForOperator_keptP; rotate_left; assumption)
    | with_reducible apply modCmd_kept
    | with_reducible apply Kept.ite
    | intro _
    | with_reducible rfl
    | split
    | with_reducible apply Kept.set
    | (simp only [lengths, modAt_length, setAt_length, List.length_map, List.length_mapIdx]; done)

theorem rebind_kept {z : State} {c : Cmd} {p : Nat} {handle : Nat} {version : Nat} {s : State} (kz : Kept z s) : Kept z (rebind c p handle version s) := by
  unfold rebind
  repeat'
    first
    | with_reducible assumption
    | with_reducible apply Kept.refl
    | with_reducible apply Kept.foldl
    | with_reducible apply bindStream_kept
    | with_reducible apply modCmd_kept
    | with_reducible apply Kept.ite
    | intro _
    | with_reducible rfl
    | split
    | with_reducible apply Kept.set
    | (simp only [lengths, modAt_length, setAt_length, List.length_map, List.length_mapIdx]; done)

theorem streamHot_kept {z : State} {c : Cmd} {s : State} (kz : Kept z s) : Kept z (streamHot c s) := by
  unfold streamHot
  repeat'
    first
    | (extract_lets -merge -useContext -underBinder +onlyGivenNames x; apply Kept.cut (x := x); rotate_left; intro hx; clear_value x; rotate_left; dsimp only [x]; clear x)
    | (extract_lets -merge -useContext -underBinder +onlyGivenNames x; subst x)
    | with_reducible assumption
    | with_reducible apply Kept.refl
    | with_reducible apply Kept.foldl
    | with_reducible apply bindStream_kept
    | with_reducible apply modCmd_kept
    | with_reducible apply Kept.ite
    | intro _
    | with_reducible rfl
    | split
    | with_reducible apply Kept.set
    | (simp only [lengths, modAt_length, setAt_length, List.length_map, List.length_mapIdx]; done)

theorem settleHot_kept {z : State} {s : State} (kz : Kept z s) : Kept z (settleHot s) := by
  unfold settleHot
  repeat'
    first
    | (extract_lets -merge -useContext -underBinder +onlyGivenNames x; apply Kept.cut (x := x); rotate_left; intro hx; clear_value x; rotate_left; dsimp only [x]; clear x)
    | (extract_lets -merge -useContext -underBinder +onlyGivenNames x; subst x)
    | with_reducible assumption
    | with_reducible apply Kept.refl
    | with_reducible apply Kept.foldl
    | with_reducible apply evictHot_kept
    | with_reducible apply streamHot_kept
    | with_reducible apply Kept.ite
    | intro _
    | with_reducible rfl
    | split
    | with_reducible apply Kept.set
    | (simp only [lengths, modAt_length, setAt_length, List.length_map, List.length_mapIdx]; done)

theorem settleStream_kept {z : State} {s : State} (kz : Kept z s) : Kept z (settleStream s) := by
  unfold settleStream
  repeat'
    first
    | (extract_lets -merge -useContext -underBinder +onlyGivenNames x; apply Kept.cut (x := x); rotate_left; intro hx; clear_value x; rotate_left; dsimp only [x]; clear x)
    | (extract_lets -merge -useContext -underBinder +onlyGivenNames x; subst x)
    | with_reducible assumption
    | with_reducible apply Kept.refl
    | with_reducible apply Kept.foldl
    | with_reducible apply settleHot_kept
    | with_reducible apply sweepStrings_kept
    | with_reducible apply markUsed_kept
    | with_reducible apply releaseIn_kept
    | with_reducible apply stageDone_kept
    | with_reducible apply Kept.ite
    | intro _
    | with_reducible rfl
    | split
    | with_reducible apply Kept.set
    | (simp only [lengths, modAt_length, setAt_length, List.length_map, List.length_mapIdx]; done)

theorem settleDispatch_kept {z : State} {s : State} (kz : Kept z s) : Kept z (settleDispatch s) := by
  unfold settleDispatch
  repeat'
    first
    | with_reducible assumption
    | with_reducible apply Kept.refl
    | with_reducible apply dispatch_kept
    | with_reducible apply settleStream_kept
    | with_reducible apply Kept.ite
    | intro _
    | with_reducible rfl
    | split
    | with_reducible apply Kept.set
    | (simp only [lengths, modAt_length, setAt_length, List.length_map, List.length_mapIdx]; done)

theorem discardPass_kept {z : State} {x : Pass} {s : State} (kz : Kept z s) : Kept z (discardPass x s) := by
  unfold discardPass
  repeat'
    first
    | (extract_lets -merge -useContext -underBinder +onlyGivenNames x; apply Kept.cut (x := x); rotate_left; intro hx; clear_value x; rotate_left; dsimp only [x]; clear x)
    | (extract_lets -merge -useContext -underBinder +onlyGivenNames x; subst x)
    | with_reducible assumption
    | with_reducible apply Kept.refl
    | with_reducible apply Kept.foldl
    | with_reducible apply rebind_kept
    | with_reducible apply Kept.ite
    | intro _
    | with_reducible rfl
    | split
    | with_reducible apply Kept.set
    | (simp only [lengths, modAt_length, setAt_length, List.length_map, List.length_mapIdx]; done)

theorem leavePasses_kept {z : State} {id : Nat} {s : State} (kz : Kept z s) : Kept z (leavePasses id s) := by
  unfold leavePasses
  repeat'
    first
    | (extract_lets -merge -useContext -underBinder +onlyGivenNames x; apply Kept.cut (x := x); rotate_left; intro hx; clear_value x; rotate_left; dsimp only [x]; clear x)
    | (extract_lets -merge -useContext -underBinder +onlyGivenNames x; subst x)
    | with_reducible assumption
    | with_reducible apply Kept.refl
    | with_reducible apply Kept.foldl
    | with_reducible apply discardPass_kept
    | with_reducible apply Kept.ite
    | intro _
    | with_reducible rfl
    | split
    | with_reducible apply Kept.set
    | (simp only [lengths, modAt_length, setAt_length, List.length_map, List.length_mapIdx]; done)

theorem runReady_kept {z : State} {id : Nat} {opcode : Nat} {f : Cmd → State → State} {s : State} (h_f : ∀ (a0 : Cmd) (y : State), Kept y (f a0 y)) (kz : Kept z s) : Kept z (runReady id opcode f s) := by
  unfold runReady
  repeat'
    first
    | with_reducible assumption
    | with_reducible apply Kept.refl
    | with_reducible apply h_f
    | (with_reducible refine Kept.trans ?_ (h_f ..))
    | with_reducible apply Kept.ite
    | intro _
    | with_reducible rfl
    | split

theorem runStreamModel_kept {z : State} {c : Cmd} {s : State} (kz : Kept z s) : Kept z (runStreamModel c s) := by
  unfold runStreamModel
  repeat'
    first
    | (extract_lets -merge -useContext -underBinder +onlyGivenNames x; apply Kept.cut (x := x); rotate_left; intro hx; clear_value x; rotate_left; dsimp only [x]; clear x)
    | (extract_lets -merge -useContext -underBinder +onlyGivenNames x; subst x)
    | with_reducible assumption
    | with_reducible apply Kept.refl
    | with_reducible apply failCmd_kept
    | with_reducible apply joinOrOpen_kept1
    | (with_reducible apply joinOrOpen_keptP; rotate_left; assumption)
    | with_reducible apply settleStream_kept
    | with_reducible apply markWaiting_kept
    | with_reducible apply modCmd_kept
    | with_reducible apply Kept.ite
    | intro _
    | with_reducible rfl
    | split
    | with_reducible apply Kept.set
    | (simp only [lengths, modAt_length, setAt_length, List.length_map, List.length_mapIdx]; done)

theorem execStreamModel_keptR {id : Nat} {s : State} : KeptR s (execStreamModel id s) := by
  unfold execStreamModel
  repeat'
    first
    | with_reducible assumption
    | with_reducible apply Kept.refl
    | with_reducible apply KeptR.unit
    | with_reducible apply KeptR.regWrite
    | with_reducible apply KeptR.ok
    | with_reducible apply KeptR.next
    | with_reducible apply KeptR.fault
    | with_reducible apply runReady_kept
    | with_reducible apply runStreamModel_kept
    | intro _

theorem execPassStart_keptR {pass : Nat} {s : State} : KeptR s (execPassStart pass s) := by
  unfold execPassStart
  repeat'
    first
    | with_reducible assumption
    | with_reducible apply Kept.refl
    | with_reducible apply KeptR.unit
    | with_reducible apply KeptR.regWrite
    | with_reducible apply KeptR.ok
    | with_reducible apply KeptR.next
    | with_reducible apply KeptR.fault
    | with_reducible apply KeptR.refused
    | with_reducible apply setPass_kept
    | with_reducible apply Kept.ite
    | intro _
    | with_reducible rfl
    | split
    | with_reducible apply Kept.set
    | (simp only [lengths, modAt_length, setAt_length, List.length_map, List.length_mapIdx]; done)

theorem issueUnit_kept {z : State} {p : Pass} {i : Nat} {u : PassUnit} {s : State} (kz : Kept z s) : Kept z (issueUnit p i u s) := by
  unfold issueUnit
  repeat'
    first
    | (extract_lets -merge -useContext -underBinder +onlyGivenNames x; apply Kept.cut (x := x); rotate_left; intro hx; clear_value x; rotate_left; dsimp only [x]; clear x)
    | (extract_lets -merge -useContext -underBinder +onlyGivenNames x; subst x)
    | with_reducible assumption
    | with_reducible apply Kept.refl
    | with_reducible apply setPass_kept
    | with_reducible apply countReadsOf_kept
    | with_reducible apply Kept.ite
    | intro _
    | with_reducible rfl
    | split
    | with_reducible apply Kept.set
    | (simp only [lengths, modAt_length, setAt_length, List.length_map, List.length_mapIdx]; done)

theorem refusePass_kept {z : State} {p : Pass} {i : Nat} {e : Fail} {s : State} (kz : Kept z s) : Kept z (refusePass p i e s) := by
  unfold refusePass
  repeat'
    first
    | with_reducible assumption
    | with_reducible apply Kept.refl
    | with_reducible apply failPassWith_kept
    | with_reducible apply recordFail_kept
    | with_reducible apply Kept.ite
    | intro _
    | with_reducible rfl
    | split
    | with_reducible apply Kept.set
    | (simp only [lengths, modAt_length, setAt_length, List.length_map, List.length_mapIdx]; done)

theorem execUnitFetchIssue_keptR {pass : Nat} {s : State} : KeptR s (execUnitFetchIssue pass s) := by
  unfold execUnitFetchIssue
  repeat'
    first
    | with_reducible assumption
    | with_reducible apply Kept.refl
    | with_reducible apply KeptR.unit
    | with_reducible apply KeptR.regWrite
    | with_reducible apply KeptR.ok
    | with_reducible apply KeptR.next
    | with_reducible apply KeptR.fault
    | with_reducible apply KeptR.refused
    | with_reducible apply dispatch_kept
    | with_reducible apply settleStream_kept
    | with_reducible apply refusePass_kept
    | with_reducible apply failPass_kept
    | with_reducible apply issueUnit_kept
    | with_reducible apply Kept.ite
    | intro _
    | with_reducible rfl
    | split
    | with_reducible apply Kept.set
    | (simp only [lengths, modAt_length, setAt_length, List.length_map, List.length_mapIdx]; done)

theorem execUnitPartArrive_keptR {pass : Nat} {unit_ : Nat} {fromStore : Bool} {s : State} : KeptR s (execUnitPartArrive pass unit_ fromStore s) := by
  unfold execUnitPartArrive
  repeat'
    first
    | with_reducible assumption
    | with_reducible apply Kept.refl
    | with_reducible apply KeptR.unit
    | with_reducible apply KeptR.regWrite
    | with_reducible apply KeptR.ok
    | with_reducible apply KeptR.next
    | with_reducible apply KeptR.fault
    | with_reducible apply dispatch_kept
    | with_reducible apply settleStream_kept
    | with_reducible apply setPass_kept

theorem execLateBudgetExpiry_keptR {pass : Nat} {unit_ : Nat} {s : State} : KeptR s (execLateBudgetExpiry pass unit_ s) := by
  unfold execLateBudgetExpiry
  repeat'
    first
    | with_reducible assumption
    | with_reducible apply Kept.refl
    | with_reducible apply KeptR.unit
    | with_reducible apply KeptR.regWrite
    | with_reducible apply KeptR.ok
    | with_reducible apply KeptR.next
    | with_reducible apply KeptR.fault
    | with_reducible apply Kept.when
    | with_reducible apply dispatch_kept
    | with_reducible apply settleStream_kept
    | with_reducible apply failPass_kept

theorem execChunkDecodeDone_keptR {pass : Nat} {unit_ : Nat} {string : Nat} {base : Nat} {chunk : Bytes} {rebuilt : Bool} {s : State} : KeptR s (execChunkDecodeDone pass unit_ string base chunk rebuilt s) := by
  unfold execChunkDecodeDone
  repeat'
    first
    | with_reducible assumption
    | with_reducible apply Kept.refl
    | with_reducible apply KeptR.unit
    | with_reducible apply KeptR.regWrite
    | with_reducible apply KeptR.ok
    | with_reducible apply KeptR.next
    | with_reducible apply KeptR.fault
    | with_reducible apply writeBytes_kept
    | with_reducible apply dispatch_kept
    | with_reducible apply settleStream_kept
    | with_reducible apply failPass_kept
    | with_reducible apply Kept.ite
    | intro _
    | with_reducible rfl
    | split

theorem rerunUsers_kept {z : State} {handle : Nat} {version : Nat} {uses : Nat × Nat → Bool} {s : State} (kz : Kept z s) : Kept z (rerunUsers handle version uses s) := by
  unfold rerunUsers
  repeat'
    first
    | (extract_lets -merge -useContext -underBinder +onlyGivenNames x; apply Kept.cut (x := x); rotate_left; intro hx; clear_value x; rotate_left; dsimp only [x]; clear x)
    | (extract_lets -merge -useContext -underBinder +onlyGivenNames x; subst x)
    | with_reducible assumption
    | with_reducible apply Kept.refl
    | with_reducible apply Kept.foldl
    | with_reducible apply rerunQuietly_kept
    | with_reducible apply Kept.ite
    | intro _
    | with_reducible rfl
    | split
    | with_reducible apply Kept.set
    | (simp only [lengths, modAt_length, setAt_length, List.length_map, List.length_mapIdx]; done)

theorem execDdrCopyRereadDone_keptR {addr : Nat} {data : Bytes} {s : State} : KeptR s (execDdrCopyRereadDone addr data s) := by
  unfold execDdrCopyRereadDone
  repeat'
    first
    | (extract_lets -merge -useContext -underBinder +onlyGivenNames x; apply KeptR.cut (x := x); rotate_left; intro hx; clear_value x; rotate_left; dsimp only [x]; clear x)
    | (extract_lets -merge -useContext -underBinder +onlyGivenNames x; apply Kept.cut (x := x); rotate_left; intro hx; clear_value x; rotate_left; dsimp only [x]; clear x)
    | (extract_lets -merge -useContext -underBinder +onlyGivenNames x; subst x)
    | with_reducible assumption
    | with_reducible apply Kept.refl
    | with_reducible apply KeptR.unit
    | with_reducible apply KeptR.regWrite
    | with_reducible apply KeptR.ok
    | with_reducible apply KeptR.next
    | with_reducible apply KeptR.fault
    | with_reducible apply KeptR.refused
    | with_reducible apply writeBytes_kept
    | with_reducible apply settleDispatch_kept
    | with_reducible apply rerunUsers_kept
    | with_reducible apply Kept.ite
    | intro _
    | with_reducible rfl
    | split
    | with_reducible apply Kept.set
    | (simp only [lengths, modAt_length, setAt_length, List.length_map, List.length_mapIdx]; done)

theorem execMigrationEpochExpiry_keptR {s : State} : KeptR s (execMigrationEpochExpiry s) := by
  unfold execMigrationEpochExpiry
  repeat'
    first
    | (extract_lets -merge -useContext -underBinder +onlyGivenNames x; subst x)
    | with_reducible assumption
    | with_reducible apply Kept.refl
    | with_reducible apply KeptR.unit
    | with_reducible apply KeptR.regWrite
    | with_reducible apply KeptR.ok
    | with_reducible apply KeptR.next
    | with_reducible apply KeptR.fault
    | with_reducible rfl
    | split
    | with_reducible apply Kept.set

theorem setSlot_kept {z : State} {n : Nat} {v : Option MigSlot} {s : State} (kz : Kept z s) : Kept z (setSlot n v s) := by
  unfold setSlot
  repeat'
    first
    | (extract_lets -merge -useContext -underBinder +onlyGivenNames x; subst x)
    | with_reducible assumption
    | with_reducible apply Kept.refl
    | with_reducible rfl
    | split
    | with_reducible apply Kept.set

theorem takeSlot_kept {z : State} {n : Nat} {r : Nat} {pin : Bool} {s : State} (kz : Kept z s) : Kept z (takeSlot n r pin s) := by
  unfold takeSlot
  repeat'
    first
    | (extract_lets -merge -useContext -underBinder +onlyGivenNames x; apply Kept.cut (x := x); rotate_left; intro hx; clear_value x; rotate_left; dsimp only [x]; clear x)
    | (extract_lets -merge -useContext -underBinder +onlyGivenNames x; subst x)
    | with_reducible assumption
    | with_reducible apply Kept.refl
    | with_reducible apply setSlot_kept
    | with_reducible rfl
    | split
    | with_reducible apply Kept.set

theorem drainSlot_kept {z : State} {n : Nat} {s : State} (kz : Kept z s) : Kept z (drainSlot n s) := by
  unfold drainSlot
  repeat'
    first
    | (extract_lets -merge -useContext -underBinder +onlyGivenNames x; apply Kept.cut (x := x); rotate_left; intro hx; clear_value x; rotate_left; dsimp only [x]; clear x)
    | (extract_lets -merge -useContext -underBinder +onlyGivenNames x; subst x)
    | with_reducible assumption
    | with_reducible apply Kept.refl
    | with_reducible apply setSlot_kept
    | with_reducible apply Kept.ite
    | intro _
    | with_reducible rfl
    | split
    | with_reducible apply Kept.set
    | (simp only [lengths, modAt_length, setAt_length, List.length_map, List.length_mapIdx]; done)

theorem execMigrationPromote_keptR {region : Nat} {s : State} : KeptR s (execMigrationPromote region s) := by
  unfold execMigrationPromote
  repeat'
    first
    | with_reducible assumption
    | with_reducible apply Kept.refl
    | with_reducible apply KeptR.unit
    | with_reducible apply KeptR.regWrite
    | with_reducible apply KeptR.ok
    | with_reducible apply KeptR.next
    | with_reducible apply KeptR.fault
    | with_reducible apply KeptR.refused
    | with_reducible apply takeSlot_kept
    | with_reducible apply drainSlot_kept
    | with_reducible apply Kept.ite
    | intro _
    | with_reducible rfl
    | split
    | with_reducible apply Kept.set
    | (simp only [lengths, modAt_length, setAt_length, List.length_map, List.length_mapIdx]; done)

theorem pinRegion_kept {z : State} {s : State} {r : Nat} (kz : Kept z s) : Kept z (pinRegion s r) := by
  unfold pinRegion
  repeat'
    first
    | with_reducible assumption
    | with_reducible apply Kept.refl
    | with_reducible apply setSlot_kept
    | with_reducible apply takeSlot_kept
    | with_reducible apply Kept.ite
    | intro _
    | with_reducible rfl
    | split
    | with_reducible apply Kept.set
    | (simp only [lengths, modAt_length, setAt_length, List.length_map, List.length_mapIdx]; done)

theorem makeSlots_kept {z : State} {rs : List Nat} : ∀ {n : Nat} {s : State}, Kept z s → Kept z (makeSlots rs n s)
  | 0, _, k => k
  | n + 1, s, k => by
    unfold makeSlots
    split
    · exact k
    · split
      · exact k
      · exact makeSlots_kept (drainSlot_kept k)

theorem pinMore_kept {z : State} {s : State} (kz : Kept z s) : Kept z (pinMore s) := by
  unfold pinMore
  repeat'
    first
    | (extract_lets -merge -useContext -underBinder +onlyGivenNames x; apply Kept.cut (x := x); rotate_left; intro hx; clear_value x; rotate_left; dsimp only [x]; clear x)
    | (extract_lets -merge -useContext -underBinder +onlyGivenNames x; subst x)
    | with_reducible assumption
    | with_reducible apply Kept.refl
    | with_reducible apply Kept.foldl
    | with_reducible apply pinRegion_kept
    | with_reducible apply makeSlots_kept
    | with_reducible apply stageDone_kept
    | with_reducible apply Kept.ite
    | intro _
    | with_reducible rfl
    | split
    | with_reducible apply Kept.set
    | (simp only [lengths, modAt_length, setAt_length, List.length_map, List.length_mapIdx]; done)

theorem execMigrationCopyDone_keptR {slot : Nat} {s : State} : KeptR s (execMigrationCopyDone slot s) := by
  unfold execMigrationCopyDone
  repeat'
    first
    | (extract_lets -merge -useContext -underBinder +onlyGivenNames x; apply KeptR.cut (x := x); rotate_left; intro hx; clear_value x; rotate_left; dsimp only [x]; clear x)
    | (extract_lets -merge -useContext -underBinder +onlyGivenNames x; apply Kept.cut (x := x); rotate_left; intro hx; clear_value x; rotate_left; dsimp only [x]; clear x)
    | (extract_lets -merge -useContext -underBinder +onlyGivenNames x; subst x)
    | with_reducible assumption
    | with_reducible apply Kept.refl
    | with_reducible apply KeptR.unit
    | with_reducible apply KeptR.regWrite
    | with_reducible apply KeptR.ok
    | with_reducible apply KeptR.next
    | with_reducible apply KeptR.fault
    | with_reducible apply KeptR.refused
    | with_reducible apply recordFail_kept
    | with_reducible apply setSlot_kept
    | with_reducible apply dispatch_kept
    | with_reducible apply settleStream_kept
    | with_reducible apply pinMore_kept
    | with_reducible apply writeBytes_kept
    | with_reducible apply Kept.ite
    | intro _
    | with_reducible rfl
    | split
    | with_reducible apply Kept.set
    | (simp only [lengths, modAt_length, setAt_length, List.length_map, List.length_mapIdx]; done)

theorem execMigrationSlotReuse_keptR {slot : Nat} {s : State} : KeptR s (execMigrationSlotReuse slot s) := by
  unfold execMigrationSlotReuse
  repeat'
    first
    | with_reducible assumption
    | with_reducible apply Kept.refl
    | with_reducible apply KeptR.unit
    | with_reducible apply KeptR.regWrite
    | with_reducible apply KeptR.ok
    | with_reducible apply KeptR.next
    | with_reducible apply KeptR.fault
    | with_reducible apply KeptR.refused
    | with_reducible apply pinMore_kept
    | with_reducible apply zeroDev_kept
    | with_reducible apply setSlot_kept
    | with_reducible apply Kept.ite
    | intro _
    | with_reducible rfl
    | split
    | with_reducible apply Kept.set
    | (simp only [lengths, modAt_length, setAt_length, List.length_map, List.length_mapIdx]; done)

theorem runCopy_kept {z : State} {c : Cmd} {s : State} (kz : Kept z s) : Kept z (runCopy c s) := by
  unfold runCopy
  repeat'
    first
    | (extract_lets -merge -useContext -underBinder +onlyGivenNames x; subst x)
    | with_reducible assumption
    | with_reducible apply Kept.refl
    | with_reducible apply failCmd_kept
    | with_reducible apply stageDone_kept
    | with_reducible apply Kept.ite
    | intro _
    | with_reducible rfl
    | split

theorem execCopy_keptR {id : Nat} {s : State} : KeptR s (execCopy id s) := by
  unfold execCopy
  repeat'
    first
    | with_reducible assumption
    | with_reducible apply Kept.refl
    | with_reducible apply KeptR.unit
    | with_reducible apply KeptR.regWrite
    | with_reducible apply KeptR.ok
    | with_reducible apply KeptR.next
    | with_reducible apply KeptR.fault
    | with_reducible apply runReady_kept
    | with_reducible apply runCopy_kept
    | intro _

theorem runFill_kept {z : State} {c : Cmd} {s : State} (kz : Kept z s) : Kept z (runFill c s) := by
  unfold runFill
  repeat'
    first
    | (extract_lets -merge -useContext -underBinder +onlyGivenNames x; subst x)
    | with_reducible assumption
    | with_reducible apply Kept.refl
    | with_reducible apply failCmd_kept
    | with_reducible apply stageDone_kept
    | with_reducible rfl
    | split

theorem execFill_keptR {id : Nat} {s : State} : KeptR s (execFill id s) := by
  unfold execFill
  repeat'
    first
    | with_reducible assumption
    | with_reducible apply Kept.refl
    | with_reducible apply KeptR.unit
    | with_reducible apply KeptR.regWrite
    | with_reducible apply KeptR.ok
    | with_reducible apply KeptR.next
    | with_reducible apply KeptR.fault
    | with_reducible apply runReady_kept
    | with_reducible apply runFill_kept
    | intro _

theorem reserveCopies_keptO {z : State} {cmd f : Nat} {img : Image} {hot : Bool} {bytes : Config.TensorInfo → Nat}
    {l : List Config.TensorInfo} {s t : State} (h : Kept z s) (e_ : reserveCopies cmd f img hot bytes l s = some t) : Kept z t := by
  induction l generalizing s with
  | nil => cases e_; exact h
  | cons x l ih =>
    unfold reserveCopies at e_
    dsimp only at e_
    split at e_
    · cases e_
    · exact ih (Kept.set h rfl rfl (by rfl)) e_

theorem pinnedOnly_kept {z : State} {skip : Option Nat} {s : State} (kz : Kept z s) : Kept z (pinnedOnly skip s) := by
  unfold pinnedOnly
  repeat'
    first
    | with_reducible assumption
    | with_reducible apply Kept.refl
    | with_reducible apply Kept.ite
    | intro _
    | with_reducible rfl
    | split
    | with_reducible apply Kept.set
    | (simp only [lengths, modAt_length, setAt_length, List.length_map, List.length_mapIdx]; done)

theorem placeCopies_keptO {z : State} {c : Cmd} {m : Image} {es : List PlaceEntry} {s : State} {t_ : State} (kz : Kept z s) (e_ : placeCopies c m es s = some t_) : Kept z t_ := by
  obtain ⟨_, e0, e1⟩ := Option.bind_eq_some_iff.1 e_
  exact reserveCopies_keptO (reserveCopies_keptO kz e0) e1

theorem addHot_kept {z : State} {cmd f : Nat} {m : Image} {bytes : Nat} {backing : Nat} {s : State} (kz : Kept z s) : Kept z (addHot cmd f m bytes backing s) := by
  unfold addHot
  repeat'
    first
    | (extract_lets -merge -useContext -underBinder +onlyGivenNames x; subst x)
    | with_reducible assumption
    | with_reducible apply Kept.refl
    | with_reducible rfl
    | split
    | with_reducible apply Kept.set
    | (simp only [lengths]; done)

theorem sweepOld_kept {z : State} {s : State} (kz : Kept z s) : Kept z (sweepOld s) := by
  unfold sweepOld
  repeat'
    first
    | (extract_lets -merge -useContext -underBinder +onlyGivenNames x; apply Kept.cut (x := x); rotate_left; intro hx; clear_value x; rotate_left; dsimp only [x]; clear x)
    | (extract_lets -merge -useContext -underBinder +onlyGivenNames x; subst x)
    | with_reducible assumption
    | with_reducible apply Kept.refl
    | with_reducible apply Kept.foldl
    | with_reducible apply zeroDev_kept
    | with_reducible apply evictHot_kept
    | intro _
    | with_reducible rfl
    | split
    | with_reducible apply Kept.set
    | (simp only [lengths]; done)

theorem settlePins_kept {z : State} {s : State} (kz : Kept z s) : Kept z (settlePins s) := by
  unfold settlePins
  repeat'
    first
    | with_reducible assumption
    | with_reducible apply Kept.refl
    | with_reducible apply Kept.foldl
    | with_reducible apply drainSlot_kept
    | with_reducible apply setSlot_kept
    | with_reducible apply Kept.ite
    | intro _
    | with_reducible rfl
    | split
    | with_reducible apply Kept.set
    | (simp only [lengths, modAt_length, setAt_length, List.length_map, List.length_mapIdx]; done)

theorem dropStagedCopies_kept {z : State} {id : Nat} {s : State} (kz : Kept z s) : Kept z (dropStagedCopies id s) := by
  unfold dropStagedCopies
  repeat'
    first
    | (extract_lets -merge -useContext -underBinder +onlyGivenNames x; apply Kept.cut (x := x); rotate_left; intro hx; clear_value x; rotate_left; dsimp only [x]; clear x)
    | (extract_lets -merge -useContext -underBinder +onlyGivenNames x; subst x)
    | with_reducible assumption
    | with_reducible apply Kept.refl
    | with_reducible apply Kept.foldl
    | with_reducible apply zeroDev_kept
    | with_reducible apply evictHot_kept
    | intro _
    | with_reducible rfl
    | split
    | with_reducible apply Kept.set
    | (simp only [lengths]; done)

theorem fillCopy_kept {z : State} {m : Image} {es : List PlaceEntry} {s : State} {w : WCopy} (kz : Kept z s) : Kept z (fillCopy m es s w) := by
  unfold fillCopy
  repeat'
    first
    | (extract_lets -merge -useContext -underBinder +onlyGivenNames x; apply Kept.cut (x := x); rotate_left; intro hx; clear_value x; rotate_left; dsimp only [x]; clear x)
    | (extract_lets -merge -useContext -underBinder +onlyGivenNames x; subst x)
    | with_reducible assumption
    | with_reducible apply Kept.refl
    | with_reducible apply writeBytes_kept
    | with_reducible apply Kept.ite
    | intro _
    | with_reducible rfl
    | split
    | with_reducible apply Kept.set
    | (simp only [lengths, modAt_length, setAt_length, List.length_map, List.length_mapIdx]; done)

theorem commitModelPlace_kept {z : State} {c : Cmd} {s : State} (kz : Kept z s) : Kept z (commitModelPlace c s) := by
  unfold commitModelPlace
  repeat'
    first
    | (extract_lets -merge -useContext -underBinder +onlyGivenNames x; apply Kept.cut (x := x); rotate_left; intro hx; clear_value x; rotate_left; dsimp only [x]; clear x)
    | (extract_lets -merge -useContext -underBinder +onlyGivenNames x; subst x)
    | with_reducible assumption
    | with_reducible apply Kept.refl
    | with_reducible apply Kept.foldl
    | with_reducible apply settlePins_kept
    | with_reducible apply dropStagedCopies_kept
    | with_reducible apply fillCopy_kept
    | with_reducible apply Kept.ite
    | intro _
    | with_reducible rfl
    | split
    | with_reducible apply Kept.set
    | (simp only [lengths, modAt_length, setAt_length, List.length_map, List.length_mapIdx]; done)

end Sys2Proof.Laws
end

