-- ==== Sys2Proof/Laws/KeptFrets.lean ====
section
/-! SUPPORT. Laws/KeptFrets.lean: every operation of Machine/Frets.lean keeps what `Kept` says. -/

set_option Elab.async false

namespace Sys2Proof.Laws
open Sys2Proof Sys2Proof.Machine

theorem execSliceComplete_keptR {part : FretPart} {cycles : Nat} {s : State} : KeptR s (execSliceComplete part cycles s) := by
  unfold execSliceComplete
  repeat'
    first
    | with_reducible assumption
    | with_reducible apply Kept.refl
    | with_reducible apply KeptR.unit
    | with_reducible apply KeptR.regWrite
    | with_reducible apply KeptR.ok
    | with_reducible apply KeptR.next
    | with_reducible apply KeptR.fault
    | with_reducible apply KeptR.refused
    | with_reducible apply dispatch_kept
    | with_reducible apply settleStream_kept
    | with_reducible apply endSlice_kept
    | with_reducible apply Kept.ite
    | intro _
    | with_reducible rfl
    | split
    | with_reducible apply Kept.set
    | (simp only [lengths, modAt_length, setAt_length, List.length_map, List.length_mapIdx]; done)

theorem execPreemptGraceExpiry_keptR {id : Nat} {s : State} : KeptR s (execPreemptGraceExpiry id s) := by
  unfold execPreemptGraceExpiry
  repeat'
    first
    | (extract_lets -merge -useContext -underBinder +onlyGivenNames x; apply KeptR.cut (x := x); rotate_left; intro hx; clear_value x; rotate_left; dsimp only [x]; clear x)
    | (extract_lets -merge -useContext -underBinder +onlyGivenNames x; apply Kept.cut (x := x); rotate_left; intro hx; clear_value x; rotate_left; dsimp only [x]; clear x)
    | (extract_lets -merge -useContext -underBinder +onlyGivenNames x; subst x)
    | with_reducible assumption
    | with_reducible apply Kept.refl
    | with_reducible apply KeptR.unit
    | with_reducible apply KeptR.regWrite
    | with_reducible apply KeptR.ok
    | with_reducible apply KeptR.next
    | with_reducible apply KeptR.fault
    | with_reducible apply KeptR.refused
    | with_reducible apply Kept.foldl
    | with_reducible apply unqueue_kept
    | with_reducible apply dispatch_kept
    | with_reducible apply settleStream_kept
    | with_reducible apply preempt_kept
    | with_reducible apply Kept.ite
    | intro _
    | with_reducible rfl
    | split
    | with_reducible apply Kept.set
    | (simp only [lengths, modAt_length, setAt_length, List.length_map, List.length_mapIdx]; done)

theorem execSliceWatchdogExpiry_keptR {part : FretPart} {s : State} : KeptR s (execSliceWatchdogExpiry part s) := by
  unfold execSliceWatchdogExpiry
  repeat'
    first
    | with_reducible assumption
    | with_reducible apply Kept.refl
    | with_reducible apply KeptR.unit
    | with_reducible apply KeptR.regWrite
    | with_reducible apply KeptR.ok
    | with_reducible apply KeptR.next
    | with_reducible apply KeptR.fault
    | with_reducible apply KeptR.refused
    | dsimp only [Function.comp_apply]
    | with_reducible apply Kept.when
    | with_reducible apply settleDispatch_kept
    | with_reducible apply fretFaulted_kept
    | with_reducible apply Kept.ite
    | intro _
    | with_reducible rfl
    | split
    | with_reducible apply Kept.set
    | (simp only [lengths, modAt_length, setAt_length, List.length_map, List.length_mapIdx]; done)

theorem evictBank_kept {z : State} {j : Nat} {b : Nat} {s : State} (kz : Kept z s) : Kept z (evictBank j b s) := by
  unfold evictBank
  repeat'
    first
    | with_reducible assumption
    | with_reducible apply Kept.refl
    | with_reducible apply Kept.foldl
    | with_reducible apply evictHot_kept
    | intro _

theorem execFretFault_keptR {fret : Nat} {kind : FretFaultKind} {s : State} : KeptR s (execFretFault fret kind s) := by
  unfold execFretFault
  repeat'
    first
    | with_reducible assumption
    | with_reducible apply Kept.refl
    | with_reducible apply KeptR.unit
    | with_reducible apply KeptR.regWrite
    | with_reducible apply KeptR.ok
    | with_reducible apply KeptR.next
    | with_reducible apply KeptR.fault
    | with_reducible apply KeptR.refused
    | dsimp only [Function.comp_apply]
    | with_reducible apply Kept.when
    | with_reducible apply settleDispatch_kept
    | with_reducible apply fretFaulted_kept
    | with_reducible apply evictBank_kept
    | with_reducible apply Kept.ite
    | intro _
    | with_reducible rfl
    | split
    | with_reducible apply Kept.set
    | (simp only [lengths, modAt_length, setAt_length, List.length_map, List.length_mapIdx]; done)

theorem execSramCorrectedWriteback_keptR {u : EccUnit} {offset : Nat} {word : Bytes} {s : State} : KeptR s (execSramCorrectedWriteback u offset word s) := by
  unfold execSramCorrectedWriteback
  repeat'
    first
    | with_reducible assumption
    | with_reducible apply Kept.refl
    | with_reducible apply KeptR.unit
    | with_reducible apply KeptR.regWrite
    | with_reducible apply KeptR.ok
    | with_reducible apply KeptR.next
    | with_reducible apply KeptR.fault
    | with_reducible apply modFret_kept
    | with_reducible apply writeBytes_kept
    | with_reducible apply modString_kept
    | with_reducible rfl
    | split

theorem countLine_kept {z : State} {p : Nat} {u : Nat} {j : Nat} {off : Nat} {s : State} (kz : Kept z s) : Kept z (countLine p u j off s) := by
  unfold countLine
  repeat'
    first
    | with_reducible assumption
    | with_reducible apply Kept.refl
    | with_reducible apply countReadsOf_kept
    | with_reducible apply Kept.ite
    | intro _
    | with_reducible rfl
    | split
    | with_reducible apply Kept.set
    | (simp only [lengths, modAt_length, setAt_length, List.length_map, List.length_mapIdx]; done)

theorem refetchLine_kept {z : State} {j : Nat} {off : Nat} {s : State} (kz : Kept z s) : Kept z (refetchLine j off s) := by
  unfold refetchLine
  repeat'
    first
    | (extract_lets -merge -useContext -underBinder +onlyGivenNames x; apply Kept.cut (x := x); rotate_left; intro hx; clear_value x; rotate_left; dsimp only [x]; clear x)
    | (extract_lets -merge -useContext -underBinder +onlyGivenNames x; subst x)
    | with_reducible assumption
    | with_reducible apply Kept.refl
    | with_reducible apply Kept.foldl
    | with_reducible apply rerunQuietly_kept
    | with_reducible apply countLine_kept
    | with_reducible apply Kept.ite
    | intro _
    | with_reducible rfl
    | split
    | with_reducible apply Kept.set
    | (simp only [lengths, modAt_length, setAt_length, List.length_map, List.length_mapIdx]; done)

theorem execStringBufferDoubleError_keptR {string : Nat} {offset : Nat} {s : State} : KeptR s (execStringBufferDoubleError string offset s) := by
  unfold execStringBufferDoubleError
  repeat'
    first
    | (extract_lets -merge -useContext -underBinder +onlyGivenNames x; apply KeptR.cut (x := x); rotate_left; intro hx; clear_value x; rotate_left; dsimp only [x]; clear x)
    | (extract_lets -merge -useContext -underBinder +onlyGivenNames x; apply Kept.cut (x := x); rotate_left; intro hx; clear_value x; rotate_left; dsimp only [x]; clear x)
    | (extract_lets -merge -useContext -underBinder +onlyGivenNames x; subst x)
    | with_reducible assumption
    | with_reducible apply Kept.refl
    | with_reducible apply KeptR.unit
    | with_reducible apply KeptR.regWrite
    | with_reducible apply KeptR.ok
    | with_reducible apply KeptR.next
    | with_reducible apply KeptR.fault
    | with_reducible apply KeptR.refused
    | with_reducible apply refetchLine_kept
    | with_reducible apply modString_kept
    | with_reducible apply dispatch_kept
    | with_reducible apply settleStream_kept
    | with_reducible apply quarantineString_kept
    | with_reducible apply Kept.ite
    | intro _
    | with_reducible rfl
    | split
    | with_reducible apply Kept.set
    | (simp only [lengths, modAt_length, setAt_length, List.length_map, List.length_mapIdx]; done)

theorem execWindowRefetchDone_keptR {string : Nat} {offset : Nat} {s : State} : KeptR s (execWindowRefetchDone string offset s) := by
  unfold execWindowRefetchDone
  repeat'
    first
    | (extract_lets -merge -useContext -underBinder +onlyGivenNames x; subst x)
    | with_reducible assumption
    | with_reducible apply Kept.refl
    | with_reducible apply KeptR.unit
    | with_reducible apply KeptR.regWrite
    | with_reducible apply KeptR.ok
    | with_reducible apply KeptR.next
    | with_reducible apply KeptR.fault
    | with_reducible apply dispatch_kept
    | with_reducible rfl
    | split
    | with_reducible apply Kept.set

theorem copyDev_kept {z : State} {src : Nat} {dst : Nat} {n : Nat} {s : State} (kz : Kept z s) : Kept z (copyDev src dst n s) := by
  unfold copyDev
  repeat'
    first
    | with_reducible assumption
    | with_reducible apply Kept.refl
    | with_reducible apply Kept.foldl
    | with_reducible apply writeBytes_kept
    | with_reducible apply zeroDev_kept
    | with_reducible apply Kept.ite
    | intro _
    | with_reducible rfl
    | split
    | with_reducible apply Kept.set
    | (simp only [lengths, modAt_length, setAt_length, List.length_map, List.length_mapIdx]; done)

theorem queueBehind_kept {z : State} {i : Nat} {s : State} (kz : Kept z s) : Kept z (queueBehind i s) := by
  unfold queueBehind
  repeat'
    first
    | with_reducible assumption
    | with_reducible apply Kept.refl
    | with_reducible apply modFret_kept
    | with_reducible apply modCmd_kept
    | with_reducible apply Kept.ite
    | intro _
    | with_reducible rfl
    | split
    | with_reducible apply Kept.set
    | (simp only [lengths, modAt_length, setAt_length, List.length_map, List.length_mapIdx]; done)

theorem queueTick_kept {z : State} {i : Nat} {s : State} (kz : Kept z s) : Kept z (queueTick i s) := by
  unfold queueTick
  repeat'
    first
    | with_reducible assumption
    | with_reducible apply Kept.refl
    | with_reducible apply queueBehind_kept
    | with_reducible apply modFret_kept
    | with_reducible apply Kept.ite
    | intro _
    | with_reducible rfl
    | split
    | with_reducible apply Kept.set
    | (simp only [lengths, modAt_length, setAt_length, List.length_map, List.length_mapIdx]; done)

theorem copyRuns_kept {z : State} {base : Nat} {dst : Nat} {l : List (Nat × Nat)} {s : State} (kz : Kept z s) : Kept z (copyRuns base dst l s) := by
  unfold copyRuns
  generalize (0 : Nat) = n
  induction l generalizing n s with
  | nil => exact kz
  | cons r l ih => exact ih (copyDev_kept kz) _

theorem landPieces_kept {z : State} {i : Nat} {before : List (Option Win)} {s : State} (kz : Kept z s) : Kept z (landPieces i before s) := by
  unfold landPieces
  repeat'
    first
    | (extract_lets -merge -useContext -underBinder +onlyGivenNames x; apply Kept.cut (x := x); rotate_left; intro hx; clear_value x; rotate_left; dsimp only [x]; clear x)
    | (extract_lets -merge -useContext -underBinder +onlyGivenNames x; subst x)
    | with_reducible assumption
    | with_reducible apply Kept.refl
    | with_reducible apply Kept.foldl
    | with_reducible apply copyRuns_kept
    | with_reducible apply Kept.ite
    | intro _
    | with_reducible rfl
    | split
    | with_reducible apply Kept.set
    | (simp only [lengths, modAt_length, setAt_length, List.length_map, List.length_mapIdx]; done)

theorem landHand_kept {z : State} {h : HandOver × HandOver} {s : State} (kz : Kept z s) : Kept z (landHand h s) := by
  unfold landHand
  repeat'
    first
    | with_reducible assumption
    | with_reducible apply Kept.refl
    | with_reducible apply Kept.foldl
    | with_reducible apply writeBytes_kept
    | with_reducible apply Kept.ite
    | intro _
    | with_reducible rfl
    | split
    | with_reducible apply Kept.set
    | (simp only [lengths, modAt_length, setAt_length, List.length_map, List.length_mapIdx]; done)

theorem handRun_kept {z : State} {r : Run} {s : State} (kz : Kept z s) : Kept z (handRun r s) := by
  unfold handRun
  repeat'
    first
    | (extract_lets -merge -useContext -underBinder +onlyGivenNames x; apply Kept.cut (x := x); rotate_left; intro hx; clear_value x; rotate_left; dsimp only [x]; clear x)
    | (extract_lets -merge -useContext -underBinder +onlyGivenNames x; subst x)
    | with_reducible assumption
    | with_reducible apply Kept.refl
    | with_reducible apply Kept.foldl
    | with_reducible apply landHand_kept
    | with_reducible apply Kept.ite
    | intro _
    | with_reducible rfl
    | split
    | with_reducible apply Kept.set
    | (simp only [lengths, modAt_length, setAt_length, List.length_map, List.length_mapIdx]; done)

theorem handsTick_kept {z : State} {s : State} (kz : Kept z s) : Kept z (handsTick s) := by
  unfold handsTick
  repeat'
    first
    | with_reducible assumption
    | with_reducible apply Kept.refl
    | with_reducible apply Kept.foldl
    | with_reducible apply handRun_kept
    | with_reducible apply Kept.ite
    | intro _
    | with_reducible rfl
    | split
    | with_reducible apply Kept.set
    | (simp only [lengths, modAt_length, setAt_length, List.length_map, List.length_mapIdx]; done)

theorem fretTick_kept {z : State} {s : State} {i : Nat} (kz : Kept z s) : Kept z (fretTick s i) := by
  unfold fretTick
  repeat'
    first
    | (extract_lets -merge -useContext -underBinder +onlyGivenNames x; apply Kept.cut (x := x); rotate_left; intro hx; clear_value x; rotate_left; dsimp only [x]; clear x)
    | (extract_lets -merge -useContext -underBinder +onlyGivenNames x; subst x)
    | with_reducible assumption
    | with_reducible apply Kept.refl
    | with_reducible apply queueTick_kept
    | with_reducible apply landPieces_kept
    | with_reducible apply modFret_kept
    | with_reducible apply Kept.ite
    | intro _
    | with_reducible rfl
    | split
    | with_reducible apply Kept.set
    | (simp only [lengths, modAt_length, setAt_length, List.length_map, List.length_mapIdx]; done)

theorem stripeTick_kept {z : State} {s : State} (kz : Kept z s) : Kept z (stripeTick s) := by
  unfold stripeTick
  repeat'
    first
    | (extract_lets -merge -useContext -underBinder +onlyGivenNames x; apply Kept.cut (x := x); rotate_left; intro hx; clear_value x; rotate_left; dsimp only [x]; clear x)
    | (extract_lets -merge -useContext -underBinder +onlyGivenNames x; subst x)
    | with_reducible assumption
    | with_reducible apply Kept.refl
    | with_reducible apply Kept.ite
    | intro _
    | with_reducible rfl
    | split
    | with_reducible apply Kept.set
    | (simp only [lengths, modAt_length, setAt_length, List.length_map, List.length_mapIdx]; done)

theorem feedTick_kept {z : State} {s : State} (kz : Kept z s) : Kept z (feedTick s) := by
  unfold feedTick
  repeat'
    first
    | with_reducible assumption
    | with_reducible apply Kept.refl
    | with_reducible apply Kept.foldl
    | with_reducible apply stripeTick_kept
    | with_reducible apply handsTick_kept
    | with_reducible apply fretTick_kept
    | with_reducible apply Kept.ite
    | intro _
    | with_reducible rfl
    | split
    | with_reducible apply Kept.set
    | (simp only [lengths, modAt_length, setAt_length, List.length_map, List.length_mapIdx]; done)

theorem propose_kept {z : State} {p : Nat} {v : Nat} {s : State} (kz : Kept z s) : Kept z (propose p v s) := by
  unfold propose
  repeat'
    first
    | (extract_lets -merge -useContext -underBinder +onlyGivenNames x; apply Kept.cut (x := x); rotate_left; intro hx; clear_value x; rotate_left; dsimp only [x]; clear x)
    | (extract_lets -merge -useContext -underBinder +onlyGivenNames x; subst x)
    | with_reducible assumption
    | with_reducible apply Kept.refl
    | with_reducible apply Kept.ite
    | intro _
    | with_reducible rfl
    | split
    | with_reducible apply Kept.set
    | (simp only [lengths, setAt_length]; done)

theorem execBowPortSplitWrite_keptR {func : Nat} {value : Nat} {s : State} : KeptR s (execBowPortSplitWrite func value s) := by
  unfold execBowPortSplitWrite
  repeat'
    first
    | (extract_lets -merge -useContext -underBinder +onlyGivenNames x; subst x)
    | with_reducible assumption
    | with_reducible apply Kept.refl
    | with_reducible apply KeptR.unit
    | with_reducible apply KeptR.regWrite
    | with_reducible apply KeptR.ok
    | with_reducible apply KeptR.next
    | with_reducible apply KeptR.fault
    | with_reducible apply propose_kept
    | with_reducible apply Kept.ite
    | intro _

theorem bareHotSet_kept {z : State} {n : Nat} {s : State} (kz : Kept z s) : Kept z (bareHotSet n s) := by
  unfold bareHotSet
  repeat'
    first
    | (extract_lets -merge -useContext -underBinder +onlyGivenNames x; subst x)
    | with_reducible assumption
    | with_reducible apply Kept.refl
    | with_reducible rfl
    | split
    | with_reducible apply Kept.set
    | (simp only [lengths]; done)

theorem layEntries_keptO {z : State} {l : List HotEntry} {s t : State} (h : Kept z s)
    (e_ : layEntries l s = some t) : Kept z t := by
  induction l generalizing s with
  | nil => cases e_; exact h
  | cons x l ih =>
    unfold layEntries at e_
    split at e_
    · cases e_
    · exact ih (Kept.set h rfl rfl (by rfl)) e_

theorem execBowHotsetCtrlWrite_keptR {func : Nat} {value : Nat} {s : State} : KeptR s (execBowHotsetCtrlWrite func value s) := by
  unfold execBowHotsetCtrlWrite
  repeat'
    first
    | (extract_lets -merge -useContext -underBinder +onlyGivenNames x; apply KeptR.cut (x := x); rotate_left; intro hx; clear_value x; rotate_left; dsimp only [x]; clear x)
    | (extract_lets -merge -useContext -underBinder +onlyGivenNames x; apply Kept.cut (x := x); rotate_left; intro hx; clear_value x; rotate_left; dsimp only [x]; clear x)
    | (extract_lets -merge -useContext -underBinder +onlyGivenNames x; subst x)
    | with_reducible assumption
    | with_reducible apply Kept.refl
    | with_reducible apply KeptR.unit
    | with_reducible apply KeptR.regWrite
    | with_reducible apply KeptR.ok
    | with_reducible apply KeptR.next
    | with_reducible apply KeptR.fault
    | with_reducible apply KeptR.refused
    | with_reducible apply dispatch_kept
    | with_reducible apply settleStream_kept
    | with_reducible apply Kept.ite
    | intro _
    | with_reducible rfl
    | split
    | with_reducible apply Kept.set
    | (simp only [lengths, modAt_length, setAt_length, List.length_map, List.length_mapIdx]; done)

theorem resizeHot_kept {z : State} {n : Nat} {s : State} (kz : Kept z s) : Kept z (resizeHot n s) := by
  unfold resizeHot
  repeat'
    first
    | (extract_lets -merge -useContext -underBinder +onlyGivenNames x; apply Kept.cut (x := x); rotate_left; intro hx; clear_value x; rotate_left; dsimp only [x]; clear x)
    | (extract_lets -merge -useContext -underBinder +onlyGivenNames x; subst x)
    | with_reducible assumption
    | with_reducible apply Kept.refl
    | with_reducible apply Kept.foldl
    | with_reducible apply evictHot_kept
    | with_reducible apply startSwitch_kept
    | intro _
    | with_reducible rfl
    | split
    | with_reducible apply Kept.set
    | (simp only [lengths]; done)

theorem execHotsetResize_keptR {s : State} : KeptR s (execHotsetResize s) := by
  unfold execHotsetResize
  repeat'
    first
    | with_reducible assumption
    | with_reducible apply Kept.refl
    | with_reducible apply KeptR.unit
    | with_reducible apply KeptR.regWrite
    | with_reducible apply KeptR.ok
    | with_reducible apply KeptR.next
    | with_reducible apply KeptR.fault
    | with_reducible apply dispatch_kept
    | with_reducible apply resizeHot_kept
    | with_reducible apply Kept.ite
    | intro _
    | with_reducible rfl
    | split

theorem execBowHotPinWrite_keptR {func : Nat} {n : Nat} {value : Nat} {s : State} : KeptR s (execBowHotPinWrite func n value s) := by
  unfold execBowHotPinWrite
  repeat'
    first
    | with_reducible assumption
    | with_reducible apply Kept.refl
    | with_reducible apply KeptR.unit
    | with_reducible apply KeptR.regWrite
    | with_reducible apply KeptR.ok
    | with_reducible apply KeptR.next
    | with_reducible apply KeptR.fault
    | with_reducible apply KeptR.refused
    | with_reducible apply dispatch_kept
    | with_reducible apply settleStream_kept
    | with_reducible apply Kept.ite
    | intro _
    | with_reducible rfl
    | split
    | with_reducible apply Kept.set
    | (simp only [lengths, modAt_length, setAt_length, List.length_map, List.length_mapIdx]; done)

theorem hotLoaded_kept {z : State} {e : Nat} {s : State} (kz : Kept z s) : Kept z (hotLoaded e s) := by
  unfold hotLoaded
  repeat'
    first
    | (extract_lets -merge -useContext -underBinder +onlyGivenNames x; apply Kept.cut (x := x); rotate_left; intro hx; clear_value x; rotate_left; dsimp only [x]; clear x)
    | (extract_lets -merge -useContext -underBinder +onlyGivenNames x; subst x)
    | with_reducible assumption
    | with_reducible apply Kept.refl
    | with_reducible apply pinMore_kept
    | with_reducible apply Kept.ite
    | intro _
    | with_reducible rfl
    | split
    | with_reducible apply Kept.set
    | (simp only [lengths, modAt_length, setAt_length, List.length_map, List.length_mapIdx]; done)

theorem refuseSwitch_kept {z : State} {h : HotEntry} {e : Fail} {s : State} (kz : Kept z s) : Kept z (refuseSwitch h e s) := by
  unfold refuseSwitch
  repeat'
    first
    | with_reducible assumption
    | with_reducible apply Kept.refl
    | with_reducible apply Kept.foldl
    | with_reducible apply failCmd_kept
    | with_reducible apply evictHot_kept
    | with_reducible apply recordFail_kept
    | with_reducible apply Kept.ite
    | intro _
    | with_reducible rfl
    | split
    | with_reducible apply Kept.set
    | (simp only [lengths, modAt_length, setAt_length, List.length_map, List.length_mapIdx]; done)

theorem execHotSwitchDone_keptR {entry : Nat} {s : State} : KeptR s (execHotSwitchDone entry s) := by
  unfold execHotSwitchDone
  repeat'
    first
    | with_reducible assumption
    | with_reducible apply Kept.refl
    | with_reducible apply KeptR.unit
    | with_reducible apply KeptR.regWrite
    | with_reducible apply KeptR.ok
    | with_reducible apply KeptR.next
    | with_reducible apply KeptR.fault
    | with_reducible apply KeptR.refused
    | with_reducible apply dispatch_kept
    | with_reducible apply settleStream_kept
    | with_reducible apply refuseSwitch_kept
    | with_reducible apply hotLoaded_kept
    | with_reducible apply Kept.ite
    | intro _
    | with_reducible rfl
    | split
    | with_reducible apply Kept.set
    | (simp only [lengths, modAt_length, setAt_length, List.length_map, List.length_mapIdx]; done)

end Sys2Proof.Laws
end

