-- ==== Sys2Proof/Laws/KeptSessions.lean ====
section
/-! SUPPORT. Laws/KeptSessions.lean: every operation of Machine/Sessions.lean keeps what `Kept` says. -/

set_option Elab.async false

namespace Sys2Proof.Laws
open Sys2Proof Sys2Proof.Machine

theorem modSession_kept {z : State} {f : Nat} {sid : Nat} {g : Session → Session} {s : State} (kz : Kept z s) : Kept z (modSession f sid g s) := by
  unfold modSession
  repeat'
    first
    | (extract_lets -merge -useContext -underBinder +onlyGivenNames x; subst x)
    | with_reducible assumption
    | with_reducible apply Kept.refl
    | with_reducible apply Kept.ite
    | intro _
    | with_reducible rfl
    | split
    | with_reducible apply Kept.set
    | (simp only [lengths]; done)

theorem sweepPages_kept {z : State} {l : List Nat} {s : State} (kz : Kept z s) : Kept z (sweepPages l s) := by
  unfold sweepPages
  repeat'
    first
    | (extract_lets -merge -useContext -underBinder +onlyGivenNames x; subst x)
    | with_reducible assumption
    | with_reducible apply Kept.refl
    | with_reducible apply Kept.foldl
    | with_reducible apply Kept.ite
    | intro _
    | with_reducible rfl
    | split
    | with_reducible apply Kept.set
    | (simp only [lengths]; done)

theorem mapPages_kept {z : State} {f : Nat} {keys : List Nat} {pages : List Nat} {s : State} (kz : Kept z s) : Kept z (mapPages f keys pages s) := by
  unfold mapPages
  repeat'
    first
    | (extract_lets -merge -useContext -underBinder +onlyGivenNames x; subst x)
    | with_reducible assumption
    | with_reducible apply Kept.refl
    | with_reducible apply Kept.foldl
    | intro _
    | with_reducible rfl
    | split
    | with_reducible apply Kept.set
    | (simp only [lengths]; done)

theorem unmapSlots_kept {z : State} {x : Session} {bs : List Nat} {s : State} (kz : Kept z s) : Kept z (unmapSlots x bs s) := by
  unfold unmapSlots
  repeat'
    first
    | (extract_lets -merge -useContext -underBinder +onlyGivenNames x; subst x)
    | with_reducible assumption
    | with_reducible apply Kept.refl
    | with_reducible apply Kept.foldl
    | with_reducible apply sweepPages_kept
    | intro _
    | with_reducible rfl
    | split
    | with_reducible apply Kept.set
    | (simp only [lengths]; done)

theorem ownSlot_keptO {z : State} {x : Session} {b : Nat} {s : State} {t_ : State} (kz : Kept z s) (e_ : ownSlot x b s = some t_) : Kept z t_ := by
  unfold ownSlot at e_
  try dsimp only at e_
  repeat' split at e_
  all_goals first
    | (cases e_; done)
    | (cases e_
       repeat'
         first
         | (extract_lets -merge -useContext -underBinder +onlyGivenNames x; apply Kept.cut (x := x); rotate_left; intro hx; clear_value x; rotate_left; dsimp only [x]; clear x)
         | (extract_lets -merge -useContext -underBinder +onlyGivenNames x; subst x)
         | with_reducible assumption
         | with_reducible apply Kept.refl
         | with_reducible apply Kept.foldl
         | with_reducible apply writeBytes_kept
         | with_reducible apply sweepPages_kept
         | with_reducible apply mapPages_kept
         | with_reducible apply Kept.ite
         | intro _
         | with_reducible rfl
         | split
         | with_reducible apply Kept.set
         | (simp only [lengths, modAt_length, setAt_length, List.length_map, List.length_mapIdx]; done))

theorem ownSlots_keptO {z : State} {x : Session} {l : List Nat} {s t : State} (h : Kept z s)
    (e_ : ownSlots x l s = some t) : Kept z t := by
  induction l generalizing s with
  | nil => cases e_; exact h
  | cons b l ih =>
    obtain ⟨s0, e0, e1⟩ := Option.bind_eq_some_iff.1 e_
    exact ih (ownSlot_keptO h e0) e1

theorem runSessionOpen_kept {z : State} {c : Cmd} {s : State} (kz : Kept z s) : Kept z (runSessionOpen c s) := by
  unfold runSessionOpen
  repeat'
    first
    | with_reducible assumption
    | with_reducible apply Kept.refl
    | with_reducible apply failCmd_kept
    | with_reducible apply stageDone_kept
    | with_reducible rfl
    | split

theorem execSessionOpen_keptR {id : Nat} {s : State} : KeptR s (execSessionOpen id s) := by
  unfold execSessionOpen
  repeat'
    first
    | with_reducible assumption
    | with_reducible apply Kept.refl
    | with_reducible apply KeptR.unit
    | with_reducible apply KeptR.regWrite
    | with_reducible apply KeptR.ok
    | with_reducible apply KeptR.next
    | with_reducible apply KeptR.fault
    | with_reducible apply runReady_kept
    | with_reducible apply runSessionOpen_kept
    | intro _

theorem commitSessionOpen_keptE {z : State} {c : Cmd} {s : State} {t_ : State} (kz : Kept z s) (e_ : commitSessionOpen c s = .ok t_) : Kept z t_ := by
  unfold commitSessionOpen at e_
  try dsimp only at e_
  repeat' split at e_
  all_goals first
    | (cases e_; done)
    | (cases e_
       repeat'
         first
         | (extract_lets -merge -useContext -underBinder +onlyGivenNames x; apply Kept.cut (x := x); rotate_left; intro hx; clear_value x; rotate_left; dsimp only [x]; clear x)
         | (extract_lets -merge -useContext -underBinder +onlyGivenNames x; subst x)
         | with_reducible assumption
         | with_reducible apply Kept.refl
         | with_reducible rfl
         | split
         | with_reducible apply Kept.set
         | (simp only [lengths, modAt_length, setAt_length, List.length_map, List.length_mapIdx]; done))

theorem runSessionClose_kept {z : State} {c : Cmd} {s : State} (kz : Kept z s) : Kept z (runSessionClose c s) := by
  unfold runSessionClose
  repeat'
    first
    | with_reducible assumption
    | with_reducible apply Kept.refl
    | with_reducible apply failCmd_kept
    | with_reducible apply stageDone_kept
    | with_reducible apply modSession_kept
    | with_reducible apply Kept.ite
    | intro _
    | with_reducible rfl
    | split

theorem execSessionClose_keptR {id : Nat} {s : State} : KeptR s (execSessionClose id s) := by
  unfold execSessionClose
  repeat'
    first
    | with_reducible assumption
    | with_reducible apply Kept.refl
    | with_reducible apply KeptR.unit
    | with_reducible apply KeptR.regWrite
    | with_reducible apply KeptR.ok
    | with_reducible apply KeptR.next
    | with_reducible apply KeptR.fault
    | with_reducible apply runReady_kept
    | with_reducible apply runSessionClose_kept
    | intro _

theorem closeSession_kept {z : State} {x : Session} {s : State} (kz : Kept z s) : Kept z (closeSession x s) := by
  unfold closeSession
  repeat'
    first
    | (extract_lets -merge -useContext -underBinder +onlyGivenNames x; apply Kept.cut (x := x); rotate_left; intro hx; clear_value x; rotate_left; dsimp only [x]; clear x)
    | (extract_lets -merge -useContext -underBinder +onlyGivenNames x; subst x)
    | with_reducible assumption
    | with_reducible apply Kept.refl
    | with_reducible apply unmapSlots_kept
    | with_reducible rfl
    | split
    | with_reducible apply Kept.set
    | (simp only [lengths]; done)

theorem commitSessionClose_kept {z : State} {c : Cmd} {s : State} (kz : Kept z s) : Kept z (commitSessionClose c s) := by
  unfold commitSessionClose
  repeat'
    first
    | with_reducible assumption
    | with_reducible apply Kept.refl
    | with_reducible apply closeSession_kept
    | with_reducible rfl
    | split

theorem reopenSession_kept {z : State} {c : Cmd} {s : State} (kz : Kept z s) : Kept z (reopenSession c s) := by
  unfold reopenSession
  repeat'
    first
    | with_reducible assumption
    | with_reducible apply Kept.refl
    | with_reducible apply modSession_kept
    | with_reducible apply Kept.ite
    | intro _

theorem runSessionTruncate_kept {z : State} {c : Cmd} {s : State} (kz : Kept z s) : Kept z (runSessionTruncate c s) := by
  unfold runSessionTruncate
  repeat'
    first
    | with_reducible assumption
    | with_reducible apply Kept.refl
    | with_reducible apply failCmd_kept
    | with_reducible apply stageDone_kept
    | with_reducible apply Kept.ite
    | intro _
    | with_reducible rfl
    | split

theorem execSessionTruncate_keptR {id : Nat} {s : State} : KeptR s (execSessionTruncate id s) := by
  unfold execSessionTruncate
  repeat'
    first
    | with_reducible assumption
    | with_reducible apply Kept.refl
    | with_reducible apply KeptR.unit
    | with_reducible apply KeptR.regWrite
    | with_reducible apply KeptR.ok
    | with_reducible apply KeptR.next
    | with_reducible apply KeptR.fault
    | with_reducible apply runReady_kept
    | with_reducible apply runSessionTruncate_kept
    | intro _

theorem commitSessionTruncate_kept {z : State} {c : Cmd} {s : State} (kz : Kept z s) : Kept z (commitSessionTruncate c s) := by
  unfold commitSessionTruncate
  repeat'
    first
    | (extract_lets -merge -useContext -underBinder +onlyGivenNames x; subst x)
    | with_reducible assumption
    | with_reducible apply Kept.refl
    | with_reducible apply unmapSlots_kept
    | with_reducible apply modSession_kept
    | with_reducible rfl
    | split

theorem removePrefixes_kept {z : State} {p : PrefixEntry → Bool} {s : State} (kz : Kept z s) : Kept z (removePrefixes p s) := by
  unfold removePrefixes
  repeat'
    first
    | (extract_lets -merge -useContext -underBinder +onlyGivenNames x; subst x)
    | with_reducible assumption
    | with_reducible apply Kept.refl
    | with_reducible apply sweepPages_kept
    | with_reducible rfl
    | split
    | with_reducible apply Kept.set
    | (simp only [lengths]; done)

theorem enterPrefix_kept {z : State} {x : Session} {pin : Bool} {b : Nat} {hash : Nat} {tokens : List Nat} {t : State} {set : Nat} (kz : Kept z t) : Kept z (enterPrefix x pin b hash tokens t set) := by
  unfold enterPrefix
  repeat'
    first
    | (extract_lets -merge -useContext -underBinder +onlyGivenNames x; subst x)
    | with_reducible assumption
    | with_reducible apply Kept.refl
    | with_reducible apply Kept.foldl
    | intro _
    | with_reducible rfl
    | split
    | with_reducible apply Kept.set
    | (simp only [lengths]; done)

theorem publishBlock_kept1 {z : State} {x : Session} {pin : Bool} {b hash : Nat} {tokens : List Nat} {s : State} (h : Kept z s) :
    Kept z (publishBlock x pin b hash tokens s).1 := by
  unfold publishBlock
  split
  · exact h
  · dsimp only
    split
    · split
      · exact h
      · exact enterPrefix_kept h
    · exact enterPrefix_kept (Kept.set (removePrefixes_kept h) rfl rfl (by simp only [lengths, bump, modAt_length]))

theorem publishBlock_keptP {z : State} {x : Session} {pin : Bool} {b hash : Nat} {tokens : List Nat} {s t : State} {v : Nat × Nat}
    (h : Kept z s) (e_ : publishBlock x pin b hash tokens s = (t, v)) : Kept z t := by
  have k := publishBlock_kept1 (x := x) (pin := pin) (b := b) (hash := hash) (tokens := tokens) h
  rw [e_] at k
  exact k

theorem runPrefixPublish_kept {z : State} {c : Cmd} {s : State} (kz : Kept z s) : Kept z (runPrefixPublish c s) := by
  unfold runPrefixPublish
  repeat'
    first
    | (extract_lets -merge -useContext -underBinder +onlyGivenNames x; subst x)
    | with_reducible assumption
    | with_reducible apply Kept.refl
    | with_reducible apply failCmd_kept
    | with_reducible apply stageDone_kept
    | with_reducible apply modCmd_kept
    | with_reducible apply Kept.ite
    | intro _
    | with_reducible rfl
    | split

theorem execPrefixPublish_keptR {id : Nat} {s : State} : KeptR s (execPrefixPublish id s) := by
  unfold execPrefixPublish
  repeat'
    first
    | with_reducible assumption
    | with_reducible apply Kept.refl
    | with_reducible apply KeptR.unit
    | with_reducible apply KeptR.regWrite
    | with_reducible apply KeptR.ok
    | with_reducible apply KeptR.next
    | with_reducible apply KeptR.fault
    | with_reducible apply runReady_kept
    | with_reducible apply runPrefixPublish_kept
    | intro _

theorem commitPrefixPublish_kept {z : State} {c : Cmd} {s : State} (h : Kept z s) : Kept z (commitPrefixPublish c s) := by
  unfold commitPrefixPublish
  split
  · exact h
  · exact modCmd_kept (Kept.foldl1 h fun _ _ => publishBlock_kept1 (Kept.refl _))

theorem runPrefixAttach_kept {z : State} {c : Cmd} {s : State} (kz : Kept z s) : Kept z (runPrefixAttach c s) := by
  unfold runPrefixAttach
  repeat'
    first
    | with_reducible assumption
    | with_reducible apply Kept.refl
    | with_reducible apply failCmd_kept
    | with_reducible apply stageDone_kept
    | with_reducible apply Kept.ite
    | intro _
    | with_reducible rfl
    | split

theorem execPrefixAttach_keptR {id : Nat} {s : State} : KeptR s (execPrefixAttach id s) := by
  unfold execPrefixAttach
  repeat'
    first
    | with_reducible assumption
    | with_reducible apply Kept.refl
    | with_reducible apply KeptR.unit
    | with_reducible apply KeptR.regWrite
    | with_reducible apply KeptR.ok
    | with_reducible apply KeptR.next
    | with_reducible apply KeptR.fault
    | with_reducible apply runReady_kept
    | with_reducible apply runPrefixAttach_kept
    | intro _

theorem attachBlock_kept {z : State} {x : Session} {i : Nat} {e : PrefixEntry} {s : State} (kz : Kept z s) : Kept z (attachBlock x i e s) := by
  unfold attachBlock
  repeat'
    first
    | with_reducible assumption
    | with_reducible apply Kept.refl
    | with_reducible apply Kept.foldl
    | with_reducible apply sweepPages_kept
    | with_reducible apply Kept.ite
    | intro _
    | with_reducible rfl
    | split
    | with_reducible apply Kept.set
    | (simp only [lengths, modAt_length, setAt_length, List.length_map, List.length_mapIdx, bump]; done)

theorem commitPrefixAttach_keptE {z : State} {c : Cmd} {s : State} {t_ : State} (kz : Kept z s) (e_ : commitPrefixAttach c s = .ok t_) : Kept z t_ := by
  unfold commitPrefixAttach at e_
  try dsimp only at e_
  repeat' split at e_
  all_goals first
    | (cases e_; done)
    | (cases e_
       repeat'
         first
         | (extract_lets -merge -useContext -underBinder +onlyGivenNames x; apply Kept.cut (x := x); rotate_left; intro hx; clear_value x; rotate_left; dsimp only [x]; clear x)
         | (extract_lets -merge -useContext -underBinder +onlyGivenNames x; subst x)
         | with_reducible assumption
         | with_reducible apply Kept.refl
         | with_reducible apply Kept.foldl
         | with_reducible apply attachBlock_kept
         | with_reducible apply modCmd_kept
         | with_reducible apply modSession_kept
         | with_reducible apply Kept.ite
         | intro _
         | with_reducible rfl
         | split
         | with_reducible apply Kept.set
         | (simp only [lengths, modAt_length, setAt_length, List.length_map, List.length_mapIdx, bump]; done))

theorem runPrefixDrop_kept {z : State} {c : Cmd} {s : State} (kz : Kept z s) : Kept z (runPrefixDrop c s) := by
  unfold runPrefixDrop
  repeat'
    first
    | with_reducible assumption
    | with_reducible apply Kept.refl
    | with_reducible apply failCmd_kept
    | with_reducible apply stageDone_kept
    | with_reducible apply modCmd_kept
    | with_reducible rfl
    | split

theorem execPrefixDrop_keptR {id : Nat} {s : State} : KeptR s (execPrefixDrop id s) := by
  unfold execPrefixDrop
  repeat'
    first
    | with_reducible assumption
    | with_reducible apply Kept.refl
    | with_reducible apply KeptR.unit
    | with_reducible apply KeptR.regWrite
    | with_reducible apply KeptR.ok
    | with_reducible apply KeptR.next
    | with_reducible apply KeptR.fault
    | with_reducible apply runReady_kept
    | with_reducible apply runPrefixDrop_kept
    | intro _

theorem commitPrefixDrop_kept {z : State} {c : Cmd} {s : State} (kz : Kept z s) : Kept z (commitPrefixDrop c s) := by
  unfold commitPrefixDrop
  repeat'
    first
    | (extract_lets -merge -useContext -underBinder +onlyGivenNames x; subst x)
    | with_reducible assumption
    | with_reducible apply Kept.refl
    | with_reducible apply modCmd_kept
    | with_reducible apply removePrefixes_kept

theorem execAtnKeyWrite_keptR {func : Nat} {g : Nat} {key : Nat} {s : State} : KeptR s (execAtnKeyWrite func g key s) := by
  unfold execAtnKeyWrite
  repeat'
    first
    | (extract_lets -merge -useContext -underBinder +onlyGivenNames x; subst x)
    | with_reducible assumption
    | with_reducible apply Kept.refl
    | with_reducible apply KeptR.unit
    | with_reducible apply KeptR.regWrite
    | with_reducible apply KeptR.ok
    | with_reducible apply KeptR.next
    | with_reducible apply KeptR.fault
    | with_reducible apply removePrefixes_kept
    | with_reducible apply Kept.ite
    | intro _
    | with_reducible rfl
    | split
    | with_reducible apply Kept.set
    | (simp only [lengths, setAt_length]; done)

theorem startInval_kept {z : State} {func : Nat} {w : Nat} {va : Option Nat} {s : State} (kz : Kept z s) : Kept z (startInval func w va s) := by
  unfold startInval
  repeat'
    first
    | with_reducible assumption
    | with_reducible apply Kept.refl
    | with_reducible apply modMmu_kept
    | with_reducible apply Kept.ite
    | intro _
    | with_reducible rfl
    | split
    | with_reducible apply Kept.set
    | (simp only [lengths, modAt_length, setAt_length, List.length_map, List.length_mapIdx]; done)

theorem execMmuInvalPage_keptR {func : Nat} {window : Nat} {va : Nat} {s : State} : KeptR s (execMmuInvalPage func window va s) := by
  unfold execMmuInvalPage
  repeat'
    first
    | with_reducible assumption
    | with_reducible apply Kept.refl
    | with_reducible apply KeptR.unit
    | with_reducible apply KeptR.regWrite
    | with_reducible apply KeptR.ok
    | with_reducible apply KeptR.next
    | with_reducible apply KeptR.fault
    | with_reducible apply KeptR.refused
    | with_reducible apply startInval_kept
    | with_reducible apply Kept.ite
    | intro _
    | with_reducible rfl
    | split
    | with_reducible apply Kept.set
    | (simp only [lengths, modAt_length, setAt_length, List.length_map, List.length_mapIdx]; done)

theorem execMmuInvalAll_keptR {func : Nat} {window : Nat} {s : State} : KeptR s (execMmuInvalAll func window s) := by
  unfold execMmuInvalAll
  repeat'
    first
    | with_reducible assumption
    | with_reducible apply Kept.refl
    | with_reducible apply KeptR.unit
    | with_reducible apply KeptR.regWrite
    | with_reducible apply KeptR.ok
    | with_reducible apply KeptR.next
    | with_reducible apply KeptR.fault
    | with_reducible apply KeptR.refused
    | with_reducible apply startInval_kept
    | with_reducible apply Kept.ite
    | intro _
    | with_reducible rfl
    | split
    | with_reducible apply Kept.set
    | (simp only [lengths, modAt_length, setAt_length, List.length_map, List.length_mapIdx]; done)

theorem execMmuInvalDone_keptR {target : Nat} {s : State} : KeptR s (execMmuInvalDone target s) := by
  unfold execMmuInvalDone
  repeat'
    first
    | with_reducible assumption
    | with_reducible apply Kept.refl
    | with_reducible apply KeptR.unit
    | with_reducible apply KeptR.regWrite
    | with_reducible apply KeptR.ok
    | with_reducible apply KeptR.next
    | with_reducible apply KeptR.fault
    | with_reducible apply KeptR.refused
    | with_reducible apply modMmu_kept
    | with_reducible apply Kept.ite
    | intro _
    | with_reducible rfl
    | split
    | with_reducible apply Kept.set
    | (simp only [lengths, modAt_length, setAt_length, List.length_map, List.length_mapIdx]; done)

end Sys2Proof.Laws
end

