-- ==== Sys2Proof/Laws/KeptWst.lean ====
section
/-! SUPPORT. Laws/KeptWst.lean: every operation of Machine/Wst.lean keeps what `Kept` says. -/

set_option Elab.async false

namespace Sys2Proof.Laws
open Sys2Proof Sys2Proof.Machine

theorem modBlock_kept {z : State} {k : Nat} {g : Block → Block} {s : State} (kz : Kept z s) : Kept z (modBlock k g s) := by
  unfold modBlock
  repeat'
    first
    | (extract_lets -merge -useContext -underBinder +onlyGivenNames x; subst x)
    | with_reducible assumption
    | with_reducible apply Kept.refl
    | with_reducible rfl
    | split
    | with_reducible apply Kept.set

theorem wstEvent_kept {z : State} {bits : Nat} {s : State} (kz : Kept z s) : Kept z (wstEvent bits s) := by
  unfold wstEvent
  repeat'
    first
    | (extract_lets -merge -useContext -underBinder +onlyGivenNames x; apply Kept.cut (x := x); rotate_left; intro hx; clear_value x; rotate_left; dsimp only [x]; clear x)
    | (extract_lets -merge -useContext -underBinder +onlyGivenNames x; subst x)
    | with_reducible assumption
    | with_reducible apply Kept.refl
    | with_reducible apply postBoth_kept
    | with_reducible apply Kept.ite
    | intro _
    | with_reducible rfl
    | split
    | with_reducible apply Kept.set

theorem recorded_kept {z : State} {c : Change} {s : State} (kz : Kept z s) : Kept z (recorded c s) := by
  unfold recorded
  repeat'
    first
    | (extract_lets -merge -useContext -underBinder +onlyGivenNames x; subst x)
    | with_reducible assumption
    | with_reducible apply Kept.refl
    | with_reducible apply journal_kept
    | with_reducible rfl
    | split
    | with_reducible apply Kept.set
    | (simp only [lengths]; done)

theorem grantAppend_kept {z : State} {s : State} (kz : Kept z s) : Kept z (grantAppend s) := by
  unfold grantAppend
  repeat'
    first
    | with_reducible assumption
    | with_reducible apply Kept.refl
    | with_reducible apply Kept.ite
    | intro _
    | with_reducible rfl
    | split
    | with_reducible apply Kept.set
    | (simp only [lengths, modAt_length, setAt_length, List.length_map, List.length_mapIdx]; done)

theorem journal_kept {z : State} {c : Change} {s : State} (kz : Kept z s) : Kept z (journal c s) := by
  unfold journal
  repeat'
    first
    | with_reducible assumption
    | with_reducible apply Kept.refl
    | with_reducible apply grantAppend_kept
    | with_reducible apply Kept.ite
    | intro _
    | with_reducible rfl
    | split
    | with_reducible apply Kept.set
    | (simp only [lengths, modAt_length, setAt_length, List.length_map, List.length_mapIdx]; done)

theorem dropRecords_kept {z : State} {p : Change → Bool} {s : State} (kz : Kept z s) : Kept z (dropRecords p s) := by
  unfold dropRecords
  repeat'
    first
    | (extract_lets -merge -useContext -underBinder +onlyGivenNames x; apply Kept.cut (x := x); rotate_left; intro hx; clear_value x; rotate_left; dsimp only [x]; clear x)
    | (extract_lets -merge -useContext -underBinder +onlyGivenNames x; subst x)
    | with_reducible assumption
    | with_reducible apply Kept.refl
    | with_reducible apply Kept.ite
    | intro _
    | with_reducible rfl
    | split
    | with_reducible apply Kept.set
    | (simp only [lengths, modAt_length, setAt_length, List.length_map, List.length_mapIdx]; done)

theorem checkSpare_kept {z : State} {die : Nat} {s : State} (kz : Kept z s) : Kept z (checkSpare die s) := by
  unfold checkSpare
  repeat'
    first
    | (extract_lets -merge -useContext -underBinder +onlyGivenNames x; subst x)
    | with_reducible assumption
    | with_reducible apply Kept.refl
    | with_reducible apply wstEvent_kept
    | with_reducible apply Kept.ite
    | intro _
    | with_reducible rfl
    | split
    | with_reducible apply Kept.set
    | (simp only [lengths]; done)

theorem modReloc_kept {z : State} {k : Nat} {g : Reloc → Reloc} {s : State} (kz : Kept z s) : Kept z (modReloc k g s) := by
  unfold modReloc
  repeat'
    first
    | (extract_lets -merge -useContext -underBinder +onlyGivenNames x; subst x)
    | with_reducible assumption
    | with_reducible apply Kept.refl
    | with_reducible apply Kept.ite
    | intro _
    | with_reducible rfl
    | split
    | with_reducible apply Kept.set

theorem openDest_kept {z : State} {k : Nat} {d : Nat} {s : State} (kz : Kept z s) : Kept z (openDest k d s) := by
  unfold openDest
  repeat'
    first
    | (extract_lets -merge -useContext -underBinder +onlyGivenNames x; apply Kept.cut (x := x); rotate_left; intro hx; clear_value x; rotate_left; dsimp only [x]; clear x)
    | (extract_lets -merge -useContext -underBinder +onlyGivenNames x; subst x)
    | with_reducible assumption
    | with_reducible apply Kept.refl
    | with_reducible apply modReloc_kept
    | with_reducible apply modBlock_kept

theorem beginReloc_kept {z : State} {n : Nat} {k : Nat} {s : State} (kz : Kept z s) : Kept z (beginReloc n k s) := by
  unfold beginReloc
  repeat'
    first
    | with_reducible assumption
    | with_reducible apply Kept.refl
    | with_reducible apply openDest_kept
    | with_reducible apply Kept.ite
    | intro _
    | with_reducible rfl
    | split
    | with_reducible apply Kept.set
    | (simp only [lengths, modAt_length, setAt_length, List.length_map, List.length_mapIdx]; done)

theorem grantGranules_kept {z : State} {n : Nat} {s : State} (kz : Kept z s) : Kept z (grantGranules n s) := by
  induction n generalizing s with
  | zero => exact kz
  | succ n ih =>
    unfold grantGranules
    split
    · exact kz
    · split
      · exact ih (Kept.set kz rfl rfl rfl)
      · exact kz

theorem grantPrograms_kept {z : State} {s : State} (kz : Kept z s) : Kept z (grantPrograms s) := by
  unfold grantPrograms
  repeat'
    first
    | (extract_lets -merge -useContext -underBinder +onlyGivenNames x; apply Kept.cut (x := x); rotate_left; intro hx; clear_value x; rotate_left; dsimp only [x]; clear x)
    | (extract_lets -merge -useContext -underBinder +onlyGivenNames x; subst x)
    | with_reducible assumption
    | with_reducible apply Kept.refl
    | with_reducible apply Kept.foldl
    | with_reducible apply grantAppend_kept
    | with_reducible apply beginReloc_kept
    | with_reducible apply grantGranules_kept
    | with_reducible apply Kept.ite
    | intro _
    | with_reducible rfl
    | split
    | with_reducible apply Kept.set
    | (simp only [lengths, modAt_length, setAt_length, List.length_map, List.length_mapIdx]; done)

theorem queueReloc_kept {z : State} {k : Nat} {prio : Nat} {rebuilt : Bool} {patrol : Bool} {s : State} (kz : Kept z s) : Kept z (queueReloc k prio rebuilt patrol s) := by
  unfold queueReloc
  repeat'
    first
    | with_reducible assumption
    | with_reducible apply Kept.refl
    | with_reducible apply grantPrograms_kept
    | with_reducible apply modReloc_kept
    | with_reducible apply Kept.ite
    | intro _
    | with_reducible rfl
    | split
    | with_reducible apply Kept.set
    | (simp only [lengths, modAt_length, setAt_length, List.length_map, List.length_mapIdx]; done)

theorem patrolEnd_kept {z : State} {s : State} (kz : Kept z s) : Kept z (patrolEnd s) := by
  unfold patrolEnd
  repeat'
    first
    | (extract_lets -merge -useContext -underBinder +onlyGivenNames x; apply Kept.cut (x := x); rotate_left; intro hx; clear_value x; rotate_left; dsimp only [x]; clear x)
    | (extract_lets -merge -useContext -underBinder +onlyGivenNames x; subst x)
    | with_reducible assumption
    | with_reducible apply Kept.refl
    | with_reducible apply wstEvent_kept
    | with_reducible apply Kept.ite
    | intro _
    | with_reducible rfl
    | split
    | with_reducible apply Kept.set
    | (simp only [lengths]; done)

theorem prunePatrol_kept {z : State} {s : State} (kz : Kept z s) : Kept z (prunePatrol s) := by
  unfold prunePatrol
  repeat'
    first
    | with_reducible assumption
    | with_reducible apply Kept.refl
    | with_reducible apply patrolEnd_kept
    | with_reducible apply Kept.ite
    | intro _
    | with_reducible rfl
    | split
    | with_reducible apply Kept.set
    | (simp only [lengths, modAt_length, setAt_length, List.length_map, List.length_mapIdx]; done)

theorem retireBlock_kept {z : State} {k : Nat} {s : State} (kz : Kept z s) : Kept z (retireBlock k s) := by
  unfold retireBlock
  repeat'
    first
    | (extract_lets -merge -useContext -underBinder +onlyGivenNames x; apply Kept.cut (x := x); rotate_left; intro hx; clear_value x; rotate_left; dsimp only [x]; clear x)
    | (extract_lets -merge -useContext -underBinder +onlyGivenNames x; subst x)
    | with_reducible assumption
    | with_reducible apply Kept.refl
    | with_reducible apply journal_kept
    | with_reducible apply retire_kept
    | with_reducible apply modBlock_kept
    | with_reducible apply wstEvent_kept
    | with_reducible apply prunePatrol_kept
    | with_reducible apply checkSpare_kept
    | with_reducible apply queueReloc_kept
    | with_reducible apply Kept.ite
    | intro _
    | with_reducible rfl
    | split
    | with_reducible apply Kept.set
    | (simp only [lengths, modAt_length, setAt_length, List.length_map, List.length_mapIdx]; done)

theorem abandonReloc_kept {z : State} {r : Reloc} {s : State} (kz : Kept z s) : Kept z (abandonReloc r s) := by
  unfold abandonReloc
  repeat'
    first
    | (extract_lets -merge -useContext -underBinder +onlyGivenNames x; apply Kept.cut (x := x); rotate_left; intro hx; clear_value x; rotate_left; dsimp only [x]; clear x)
    | (extract_lets -merge -useContext -underBinder +onlyGivenNames x; subst x)
    | with_reducible assumption
    | with_reducible apply Kept.refl
    | with_reducible apply dropRecords_kept
    | with_reducible apply modBlock_kept
    | with_reducible apply Kept.ite
    | intro _
    | with_reducible rfl
    | split
    | with_reducible apply Kept.set
    | (simp only [lengths, modAt_length, setAt_length, List.length_map, List.length_mapIdx]; done)

theorem zeroPage_kept {z : State} {die : Nat} {l : Nat} {page : Nat} {s : State} (kz : Kept z s) : Kept z (zeroPage die l page s) := by
  unfold zeroPage
  repeat'
    first
    | (extract_lets -merge -useContext -underBinder +onlyGivenNames x; apply Kept.cut (x := x); rotate_left; intro hx; clear_value x; rotate_left; dsimp only [x]; clear x)
    | (extract_lets -merge -useContext -underBinder +onlyGivenNames x; subst x)
    | with_reducible assumption
    | with_reducible apply Kept.refl
    | with_reducible apply Kept.foldl
    | with_reducible apply Kept.ite
    | intro _
    | with_reducible rfl
    | split
    | with_reducible apply Kept.set
    | (simp only [lengths, modAt_length, setAt_length, List.length_map, List.length_mapIdx]; done)

theorem levelDie_kept {z : State} {die : Nat} {s : State} (kz : Kept z s) : Kept z (levelDie die s) := by
  unfold levelDie
  repeat'
    first
    | (extract_lets -merge -useContext -underBinder +onlyGivenNames x; apply Kept.cut (x := x); rotate_left; intro hx; clear_value x; rotate_left; dsimp only [x]; clear x)
    | (extract_lets -merge -useContext -underBinder +onlyGivenNames x; subst x)
    | with_reducible assumption
    | with_reducible apply Kept.refl
    | with_reducible apply Kept.foldl
    | with_reducible apply grantPrograms_kept
    | with_reducible apply Kept.ite
    | intro _
    | with_reducible rfl
    | split
    | with_reducible apply Kept.set
    | (simp only [lengths, modAt_length, setAt_length, List.length_map, List.length_mapIdx]; done)

theorem levelDies_kept {z : State} {ds : List Nat} {s : State} (kz : Kept z s) : Kept z (levelDies ds s) := by
  unfold levelDies
  repeat'
    first
    | with_reducible assumption
    | with_reducible apply Kept.refl
    | with_reducible apply Kept.foldl
    | with_reducible apply levelDie_kept
    | with_reducible apply Kept.ite
    | intro _
    | with_reducible rfl
    | split
    | with_reducible apply Kept.set
    | (simp only [lengths, modAt_length, setAt_length, List.length_map, List.length_mapIdx]; done)

theorem finishReloc_kept {z : State} {src : Nat} {dst : Nat} {s : State} (kz : Kept z s) : Kept z (finishReloc src dst s) := by
  unfold finishReloc
  repeat'
    first
    | (extract_lets -merge -useContext -underBinder +onlyGivenNames x; apply Kept.cut (x := x); rotate_left; intro hx; clear_value x; rotate_left; dsimp only [x]; clear x)
    | (extract_lets -merge -useContext -underBinder +onlyGivenNames x; subst x)
    | with_reducible assumption
    | with_reducible apply Kept.refl
    | with_reducible apply Kept.foldl
    | with_reducible apply modBlock_kept
    | with_reducible apply recorded_kept
    | with_reducible apply zeroPage_kept
    | with_reducible apply levelDie_kept
    | with_reducible apply prunePatrol_kept
    | with_reducible apply grantPrograms_kept
    | with_reducible apply Kept.ite
    | intro _
    | with_reducible rfl
    | split
    | with_reducible apply Kept.set
    | (simp only [lengths, modAt_length, setAt_length, List.length_map, List.length_mapIdx]; done)

theorem countReads_kept {z : State} {k : Nat} {n : Nat} {s : State} (kz : Kept z s) : Kept z (countReads k n s) := by
  unfold countReads
  repeat'
    first
    | with_reducible assumption
    | with_reducible apply Kept.refl
    | with_reducible apply modBlock_kept

theorem takeTurn_kept {z : State} {x : Super} {r : Nat} {s : State} (kz : Kept z s) : Kept z (takeTurn x r s) := by
  unfold takeTurn
  repeat'
    first
    | with_reducible assumption
    | with_reducible apply Kept.refl
    | with_reducible apply Kept.ite
    | intro _
    | with_reducible rfl
    | split
    | with_reducible apply Kept.set
    | (simp only [lengths, modAt_length, setAt_length, List.length_map, List.length_mapIdx]; done)

theorem chooseReplica_kept1 {z : State} {k : Nat} {use : ReadFor} {s : State} (kz : Kept z s) : Kept z (chooseReplica k use s).1 := by
  unfold chooseReplica
  repeat'
    first
    | with_reducible assumption
    | with_reducible apply Kept.refl
    | with_reducible apply takeTurn_kept
    | with_reducible apply Kept.ite
    | intro _
    | with_reducible rfl
    | split
    | with_reducible apply Kept.set
    | (simp only [lengths, modAt_length, setAt_length, List.length_map, List.length_mapIdx]; done)

theorem chooseReplica_keptP {z : State} {k : Nat} {use : ReadFor} {s : State} {t_ : State} {v_ : Nat × List Nat} (kz : Kept z s) (e_ : chooseReplica k use s = (t_, v_)) : Kept z t_ := by
  have k := chooseReplica_kept1 (k := k) (use := use) (s := s) kz
  rw [e_] at k
  exact k

theorem countStripe_kept {z : State} {k : Nat} {s : State} (kz : Kept z s) : Kept z (countStripe k s) := by
  unfold countStripe
  repeat'
    first
    | with_reducible assumption
    | with_reducible apply Kept.refl
    | with_reducible apply Kept.foldl
    | with_reducible apply countReads_kept
    | with_reducible apply Kept.ite
    | intro _
    | with_reducible rfl
    | split
    | with_reducible apply Kept.set
    | (simp only [lengths, modAt_length, setAt_length, List.length_map, List.length_mapIdx]; done)

theorem countRebuild_kept {z : State} {k : Nat} {use : ReadFor} {s : State} (kz : Kept z s) : Kept z (countRebuild k use s) := by
  unfold countRebuild
  repeat'
    first
    | with_reducible assumption
    | with_reducible apply Kept.refl
    | with_reducible apply countReads_kept
    | with_reducible apply countStripe_kept
    | with_reducible apply Kept.ite
    | intro _
    | with_reducible rfl
    | split
    | with_reducible apply Kept.set
    | (simp only [lengths, modAt_length, setAt_length, List.length_map, List.length_mapIdx]; done)

theorem rebuiltRead_kept {z : State} {k : Nat} {use : ReadFor} {s : State} (kz : Kept z s) : Kept z (rebuiltRead k use s) := by
  unfold rebuiltRead
  repeat'
    first
    | (extract_lets -merge -useContext -underBinder +onlyGivenNames x; apply Kept.cut (x := x); rotate_left; intro hx; clear_value x; rotate_left; dsimp only [x]; clear x)
    | (extract_lets -merge -useContext -underBinder +onlyGivenNames x; subst x)
    | with_reducible assumption
    | with_reducible apply Kept.refl
    | with_reducible apply countRebuild_kept
    | with_reducible apply wstEvent_kept
    | with_reducible apply queueReloc_kept
    | with_reducible apply modBlock_kept
    | with_reducible apply retireBlock_kept
    | with_reducible apply Kept.ite
    | intro _
    | with_reducible rfl
    | split
    | with_reducible apply Kept.set
    | (simp only [lengths, modAt_length, setAt_length, List.length_map, List.length_mapIdx]; done)

theorem failedRead_kept {z : State} {k : Nat} {page : Nat} {use : ReadFor} {s : State} (kz : Kept z s) : Kept z (failedRead k page use s) := by
  unfold failedRead
  repeat'
    first
    | with_reducible assumption
    | with_reducible apply Kept.refl
    | with_reducible apply Kept.foldl
    | with_reducible apply dispatch_kept
    | with_reducible apply settleStream_kept
    | with_reducible apply failPass_kept
    | with_reducible apply failCmd_kept
    | with_reducible apply setSlot_kept
    | with_reducible apply modReloc_kept
    | with_reducible apply Kept.ite
    | intro _
    | with_reducible rfl
    | split
    | with_reducible apply Kept.set
    | (simp only [lengths, modAt_length, setAt_length, List.length_map, List.length_mapIdx]; done)

theorem execWeightStoreReadDone_keptR {at_ : DiePage} {outcome : ReadOutcome} {use : ReadFor} {s : State} : KeptR s (execWeightStoreReadDone at_ outcome use s) := by
  unfold execWeightStoreReadDone
  repeat'
    first
    | (extract_lets -merge -useContext -underBinder +onlyGivenNames x; apply KeptR.cut (x := x); rotate_left; intro hx; clear_value x; rotate_left; dsimp only [x]; clear x)
    | (extract_lets -merge -useContext -underBinder +onlyGivenNames x; apply Kept.cut (x := x); rotate_left; intro hx; clear_value x; rotate_left; dsimp only [x]; clear x)
    | (extract_lets -merge -useContext -underBinder +onlyGivenNames x; subst x)
    | with_reducible assumption
    | with_reducible apply Kept.refl
    | with_reducible apply KeptR.unit
    | with_reducible apply KeptR.regWrite
    | with_reducible apply KeptR.ok
    | with_reducible apply KeptR.next
    | with_reducible apply KeptR.fault
    | with_reducible apply KeptR.refused
    | with_reducible apply Kept.foldl
    | with_reducible apply chooseReplica_kept1
    | (with_reducible apply chooseReplica_keptP; rotate_left; assumption)
    | with_reducible apply countReads_kept
    | with_reducible apply modReloc_kept
    | with_reducible apply modBlock_kept
    | with_reducible apply rebuiltRead_kept
    | with_reducible apply failedRead_kept
    | with_reducible apply countStripe_kept
    | with_reducible apply Kept.ite
    | intro _
    | with_reducible rfl
    | split
    | with_reducible apply Kept.set
    | (simp only [lengths, modAt_length, setAt_length, List.length_map, List.length_mapIdx]; done)

theorem execRefreshLimitReached_keptR {block : Nat} {s : State} : KeptR s (execRefreshLimitReached block s) := by
  unfold execRefreshLimitReached
  repeat'
    first
    | (extract_lets -merge -useContext -underBinder +onlyGivenNames x; apply KeptR.cut (x := x); rotate_left; intro hx; clear_value x; rotate_left; dsimp only [x]; clear x)
    | (extract_lets -merge -useContext -underBinder +onlyGivenNames x; apply Kept.cut (x := x); rotate_left; intro hx; clear_value x; rotate_left; dsimp only [x]; clear x)
    | (extract_lets -merge -useContext -underBinder +onlyGivenNames x; subst x)
    | with_reducible assumption
    | with_reducible apply Kept.refl
    | with_reducible apply KeptR.unit
    | with_reducible apply KeptR.regWrite
    | with_reducible apply KeptR.ok
    | with_reducible apply KeptR.next
    | with_reducible apply KeptR.fault
    | with_reducible apply KeptR.refused
    | with_reducible apply queueReloc_kept
    | with_reducible apply Kept.ite
    | intro _
    | with_reducible rfl
    | split
    | with_reducible apply Kept.set
    | (simp only [lengths, modAt_length, setAt_length, List.length_map, List.length_mapIdx]; done)

theorem execRelocationRaise_keptR {block : Nat} {s : State} : KeptR s (execRelocationRaise block s) := by
  unfold execRelocationRaise
  repeat'
    first
    | (extract_lets -merge -useContext -underBinder +onlyGivenNames x; apply KeptR.cut (x := x); rotate_left; intro hx; clear_value x; rotate_left; dsimp only [x]; clear x)
    | (extract_lets -merge -useContext -underBinder +onlyGivenNames x; apply Kept.cut (x := x); rotate_left; intro hx; clear_value x; rotate_left; dsimp only [x]; clear x)
    | (extract_lets -merge -useContext -underBinder +onlyGivenNames x; subst x)
    | with_reducible assumption
    | with_reducible apply Kept.refl
    | with_reducible apply KeptR.unit
    | with_reducible apply KeptR.regWrite
    | with_reducible apply KeptR.ok
    | with_reducible apply KeptR.next
    | with_reducible apply KeptR.fault
    | with_reducible apply KeptR.refused
    | with_reducible apply grantPrograms_kept
    | with_reducible apply modReloc_kept
    | with_reducible apply Kept.ite
    | intro _
    | with_reducible rfl
    | split
    | with_reducible apply Kept.set
    | (simp only [lengths, modAt_length, setAt_length, List.length_map, List.length_mapIdx]; done)

theorem execDisturbOverrun_keptR {block : Nat} {s : State} : KeptR s (execDisturbOverrun block s) := by
  unfold execDisturbOverrun
  repeat'
    first
    | (extract_lets -merge -useContext -underBinder +onlyGivenNames x; subst x)
    | with_reducible assumption
    | with_reducible apply Kept.refl
    | with_reducible apply KeptR.unit
    | with_reducible apply KeptR.regWrite
    | with_reducible apply KeptR.ok
    | with_reducible apply KeptR.next
    | with_reducible apply KeptR.fault
    | with_reducible apply wstEvent_kept
    | with_reducible apply Kept.ite
    | intro _

theorem execRelocationCopyDone_keptR {block : Nat} {s : State} : KeptR s (execRelocationCopyDone block s) := by
  unfold execRelocationCopyDone
  repeat'
    first
    | with_reducible assumption
    | with_reducible apply Kept.refl
    | with_reducible apply KeptR.unit
    | with_reducible apply KeptR.regWrite
    | with_reducible apply KeptR.ok
    | with_reducible apply KeptR.next
    | with_reducible apply KeptR.fault
    | with_reducible apply journal_kept
    | with_reducible apply Kept.ite
    | intro _
    | with_reducible rfl
    | split

theorem replaceBlock_kept {z : State} {k : Nat} {s : State} (kz : Kept z s) : Kept z (replaceBlock k s) := by
  unfold replaceBlock
  repeat'
    first
    | (extract_lets -merge -useContext -underBinder +onlyGivenNames x; apply Kept.cut (x := x); rotate_left; intro hx; clear_value x; rotate_left; dsimp only [x]; clear x)
    | (extract_lets -merge -useContext -underBinder +onlyGivenNames x; subst x)
    | with_reducible assumption
    | with_reducible apply Kept.refl
    | with_reducible apply modBlock_kept
    | with_reducible apply recorded_kept
    | with_reducible apply Kept.ite
    | intro _
    | with_reducible rfl
    | split
    | with_reducible apply Kept.set
    | (simp only [lengths, modAt_length, setAt_length, List.length_map, List.length_mapIdx]; done)

theorem wearBlock_kept {z : State} {k : Nat} {s : State} (kz : Kept z s) : Kept z (wearBlock k s) := by
  unfold wearBlock
  repeat'
    first
    | (extract_lets -merge -useContext -underBinder +onlyGivenNames x; apply Kept.cut (x := x); rotate_left; intro hx; clear_value x; rotate_left; dsimp only [x]; clear x)
    | (extract_lets -merge -useContext -underBinder +onlyGivenNames x; subst x)
    | with_reducible assumption
    | with_reducible apply Kept.refl
    | with_reducible apply modBlock_kept
    | with_reducible apply retireBlock_kept
    | with_reducible apply replaceBlock_kept
    | with_reducible apply Kept.ite
    | intro _
    | with_reducible rfl
    | split
    | with_reducible apply Kept.set
    | (simp only [lengths, modAt_length, setAt_length, List.length_map, List.length_mapIdx]; done)

theorem switchSegment_kept {z : State} {s : State} (kz : Kept z s) : Kept z (switchSegment s) := by
  unfold switchSegment
  repeat'
    first
    | (extract_lets -merge -useContext -underBinder +onlyGivenNames x; apply Kept.cut (x := x); rotate_left; intro hx; clear_value x; rotate_left; dsimp only [x]; clear x)
    | (extract_lets -merge -useContext -underBinder +onlyGivenNames x; subst x)
    | with_reducible assumption
    | with_reducible apply Kept.refl
    | with_reducible apply Kept.foldl
    | with_reducible apply wearBlock_kept
    | with_reducible apply Kept.ite
    | intro _
    | with_reducible rfl
    | split
    | with_reducible apply Kept.set
    | (simp only [lengths, modAt_length, setAt_length, List.length_map, List.length_mapIdx]; done)

theorem checkpointed_kept {z : State} {s : State} (kz : Kept z s) : Kept z (checkpointed s) := by
  unfold checkpointed
  repeat'
    first
    | (extract_lets -merge -useContext -underBinder +onlyGivenNames x; apply Kept.cut (x := x); rotate_left; intro hx; clear_value x; rotate_left; dsimp only [x]; clear x)
    | (extract_lets -merge -useContext -underBinder +onlyGivenNames x; subst x)
    | with_reducible assumption
    | with_reducible apply Kept.refl
    | with_reducible apply switchSegment_kept
    | with_reducible apply journal_kept
    | with_reducible apply Kept.ite
    | intro _
    | with_reducible rfl
    | split
    | with_reducible apply Kept.set
    | (simp only [lengths, modAt_length, setAt_length, List.length_map, List.length_mapIdx]; done)

theorem applyChange_kept {z : State} {c : Change} {s : State} (kz : Kept z s) : Kept z (applyChange c s) := by
  unfold applyChange
  repeat'
    first
    | with_reducible assumption
    | with_reducible apply Kept.refl
    | with_reducible apply finishReloc_kept
    | with_reducible apply checkpointed_kept
    | with_reducible apply Kept.ite
    | intro _
    | with_reducible rfl
    | split
    | with_reducible apply Kept.set
    | (simp only [lengths, modAt_length, setAt_length, List.length_map, List.length_mapIdx]; done)

theorem execJournalRecordDurable_keptR {s : State} : KeptR s (execJournalRecordDurable s) := by
  unfold execJournalRecordDurable
  repeat'
    first
    | with_reducible assumption
    | with_reducible apply Kept.refl
    | with_reducible apply KeptR.unit
    | with_reducible apply KeptR.regWrite
    | with_reducible apply KeptR.ok
    | with_reducible apply KeptR.next
    | with_reducible apply KeptR.fault
    | with_reducible apply KeptR.refused
    | with_reducible apply grantPrograms_kept
    | with_reducible apply applyChange_kept
    | with_reducible apply recorded_kept
    | with_reducible apply Kept.ite
    | intro _
    | with_reducible rfl
    | split
    | with_reducible apply Kept.set
    | (simp only [lengths, modAt_length, setAt_length, List.length_map, List.length_mapIdx]; done)

theorem startCompaction_kept {z : State} {s : State} (kz : Kept z s) : Kept z (startCompaction s) := by
  unfold startCompaction
  repeat'
    first
    | with_reducible assumption
    | with_reducible apply Kept.refl
    | with_reducible apply journal_kept
    | with_reducible apply Kept.ite
    | intro _
    | with_reducible rfl
    | split
    | with_reducible apply Kept.set
    | (simp only [lengths, modAt_length, setAt_length, List.length_map, List.length_mapIdx]; done)

theorem settleCompaction_kept {z : State} {s : State} (kz : Kept z s) : Kept z (settleCompaction s) := by
  unfold settleCompaction
  repeat'
    first
    | with_reducible assumption
    | with_reducible apply Kept.refl
    | with_reducible apply startCompaction_kept
    | with_reducible apply Kept.ite
    | intro _
    | with_reducible rfl
    | split
    | with_reducible apply Kept.set
    | (simp only [lengths, modAt_length, setAt_length, List.length_map, List.length_mapIdx]; done)

theorem execJournalCheckpointTrigger_keptR {s : State} : KeptR s (execJournalCheckpointTrigger s) := by
  unfold execJournalCheckpointTrigger
  repeat'
    first
    | with_reducible assumption
    | with_reducible apply Kept.refl
    | with_reducible apply KeptR.unit
    | with_reducible apply KeptR.regWrite
    | with_reducible apply KeptR.ok
    | with_reducible apply KeptR.next
    | with_reducible apply KeptR.fault
    | with_reducible apply KeptR.refused
    | with_reducible apply startCompaction_kept
    | with_reducible apply Kept.ite
    | intro _
    | with_reducible rfl
    | split
    | with_reducible apply Kept.set
    | (simp only [lengths, modAt_length, setAt_length, List.length_map, List.length_mapIdx]; done)

theorem flushDeltas_kept {z : State} {s : State} (kz : Kept z s) : Kept z (flushDeltas s) := by
  unfold flushDeltas
  repeat'
    first
    | (extract_lets -merge -useContext -underBinder +onlyGivenNames x; apply Kept.cut (x := x); rotate_left; intro hx; clear_value x; rotate_left; dsimp only [x]; clear x)
    | (extract_lets -merge -useContext -underBinder +onlyGivenNames x; subst x)
    | with_reducible assumption
    | with_reducible apply Kept.refl
    | with_reducible apply grantAppend_kept
    | with_reducible apply Kept.ite
    | intro _
    | with_reducible rfl
    | split
    | with_reducible apply Kept.set
    | (simp only [lengths, modAt_length, setAt_length, List.length_map, List.length_mapIdx]; done)

theorem execBstateDeltaTimer_keptR {s : State} : KeptR s (execBstateDeltaTimer s) := by
  unfold execBstateDeltaTimer
  repeat'
    first
    | with_reducible assumption
    | with_reducible apply Kept.refl
    | with_reducible apply KeptR.unit
    | with_reducible apply KeptR.regWrite
    | with_reducible apply KeptR.ok
    | with_reducible apply KeptR.next
    | with_reducible apply KeptR.fault
    | with_reducible apply flushDeltas_kept

theorem programFailed_kept {z : State} {k : Nat} {s : State} (kz : Kept z s) : Kept z (programFailed k s) := by
  unfold programFailed
  repeat'
    first
    | (extract_lets -merge -useContext -underBinder +onlyGivenNames x; apply Kept.cut (x := x); rotate_left; intro hx; clear_value x; rotate_left; dsimp only [x]; clear x)
    | (extract_lets -merge -useContext -underBinder +onlyGivenNames x; subst x)
    | with_reducible assumption
    | with_reducible apply Kept.refl
    | with_reducible apply retireBlock_kept
    | with_reducible apply modBlock_kept
    | with_reducible apply grantPrograms_kept
    | with_reducible apply dropRecords_kept
    | with_reducible apply modReloc_kept
    | with_reducible apply replaceBlock_kept
    | with_reducible apply Kept.ite
    | intro _
    | with_reducible rfl
    | split
    | with_reducible apply Kept.set
    | (simp only [lengths, modAt_length, setAt_length, List.length_map, List.length_mapIdx]; done)

theorem execProgramDone_keptR {block : Nat} {ok_ : Bool} {s : State} : KeptR s (execProgramDone block ok_ s) := by
  unfold execProgramDone
  repeat'
    first
    | (extract_lets -merge -useContext -underBinder +onlyGivenNames x; apply KeptR.cut (x := x); rotate_left; intro hx; clear_value x; rotate_left; dsimp only [x]; clear x)
    | (extract_lets -merge -useContext -underBinder +onlyGivenNames x; subst x)
    | with_reducible assumption
    | with_reducible apply Kept.refl
    | with_reducible apply KeptR.unit
    | with_reducible apply KeptR.regWrite
    | with_reducible apply KeptR.ok
    | with_reducible apply KeptR.next
    | with_reducible apply KeptR.fault
    | with_reducible apply programFailed_kept
    | with_reducible apply Kept.ite
    | intro _
    | with_reducible rfl
    | split
    | with_reducible apply Kept.set
    | (simp only [lengths]; done)

theorem execErasePendingErase_keptR {block : Nat} {s : State} : KeptR s (execErasePendingErase block s) := by
  unfold execErasePendingErase
  repeat'
    first
    | (extract_lets -merge -useContext -underBinder +onlyGivenNames x; subst x)
    | with_reducible assumption
    | with_reducible apply Kept.refl
    | with_reducible apply KeptR.unit
    | with_reducible apply KeptR.regWrite
    | with_reducible apply KeptR.ok
    | with_reducible apply KeptR.next
    | with_reducible apply KeptR.fault
    | with_reducible apply Kept.when
    | with_reducible rfl
    | split
    | with_reducible apply Kept.set

theorem execBlockEraseDone_keptR {block : Nat} {ok_ : Bool} {s : State} : KeptR s (execBlockEraseDone block ok_ s) := by
  unfold execBlockEraseDone
  repeat'
    first
    | (extract_lets -merge -useContext -underBinder +onlyGivenNames x; apply KeptR.cut (x := x); rotate_left; intro hx; clear_value x; rotate_left; dsimp only [x]; clear x)
    | (extract_lets -merge -useContext -underBinder +onlyGivenNames x; apply Kept.cut (x := x); rotate_left; intro hx; clear_value x; rotate_left; dsimp only [x]; clear x)
    | (extract_lets -merge -useContext -underBinder +onlyGivenNames x; subst x)
    | with_reducible assumption
    | with_reducible apply Kept.refl
    | with_reducible apply KeptR.unit
    | with_reducible apply KeptR.regWrite
    | with_reducible apply KeptR.ok
    | with_reducible apply KeptR.next
    | with_reducible apply KeptR.fault
    | with_reducible apply KeptR.refused
    | with_reducible apply retireBlock_kept
    | with_reducible apply replaceBlock_kept
    | with_reducible apply modBlock_kept
    | with_reducible apply levelDie_kept
    | with_reducible apply grantPrograms_kept
    | with_reducible apply Kept.ite
    | intro _
    | with_reducible rfl
    | split
    | with_reducible apply Kept.set
    | (simp only [lengths, modAt_length, setAt_length, List.length_map, List.length_mapIdx]; done)

theorem releaseBlocks_kept {z : State} {ks : List Nat} {s : State} (kz : Kept z s) : Kept z (releaseBlocks ks s) := by
  unfold releaseBlocks
  repeat'
    first
    | (extract_lets -merge -useContext -underBinder +onlyGivenNames x; apply Kept.cut (x := x); rotate_left; intro hx; clear_value x; rotate_left; dsimp only [x]; clear x)
    | (extract_lets -merge -useContext -underBinder +onlyGivenNames x; subst x)
    | with_reducible assumption
    | with_reducible apply Kept.refl
    | with_reducible apply Kept.foldl
    | with_reducible apply prunePatrol_kept
    | with_reducible apply grantPrograms_kept
    | with_reducible apply abandonReloc_kept
    | with_reducible apply modBlock_kept
    | with_reducible apply Kept.ite
    | intro _
    | with_reducible rfl
    | split
    | with_reducible apply Kept.set
    | (simp only [lengths, modAt_length, setAt_length, List.length_map, List.length_mapIdx]; done)

theorem execPatrolDue_keptR {block : Nat} {ber : Nat} {s : State} : KeptR s (execPatrolDue block ber s) := by
  unfold execPatrolDue
  repeat'
    first
    | (extract_lets -merge -useContext -underBinder +onlyGivenNames x; apply KeptR.cut (x := x); rotate_left; intro hx; clear_value x; rotate_left; dsimp only [x]; clear x)
    | (extract_lets -merge -useContext -underBinder +onlyGivenNames x; apply Kept.cut (x := x); rotate_left; intro hx; clear_value x; rotate_left; dsimp only [x]; clear x)
    | (extract_lets -merge -useContext -underBinder +onlyGivenNames x; subst x)
    | with_reducible assumption
    | with_reducible apply Kept.refl
    | with_reducible apply KeptR.unit
    | with_reducible apply KeptR.regWrite
    | with_reducible apply KeptR.ok
    | with_reducible apply KeptR.next
    | with_reducible apply KeptR.fault
    | with_reducible apply KeptR.refused
    | with_reducible apply Kept.when
    | with_reducible apply patrolEnd_kept
    | with_reducible apply modBlock_kept
    | with_reducible apply queueReloc_kept
    | with_reducible apply Kept.ite
    | intro _
    | with_reducible rfl
    | split
    | with_reducible apply Kept.set
    | (simp only [lengths, modAt_length, setAt_length, List.length_map, List.length_mapIdx]; done)

theorem startPass_kept {z : State} {mount : Bool} {s : State} (kz : Kept z s) : Kept z (startPass mount s) := by
  unfold startPass
  repeat'
    first
    | (extract_lets -merge -useContext -underBinder +onlyGivenNames x; apply Kept.cut (x := x); rotate_left; intro hx; clear_value x; rotate_left; dsimp only [x]; clear x)
    | (extract_lets -merge -useContext -underBinder +onlyGivenNames x; subst x)
    | with_reducible assumption
    | with_reducible apply Kept.refl
    | with_reducible apply patrolEnd_kept
    | with_reducible apply Kept.ite
    | intro _
    | with_reducible rfl
    | split
    | with_reducible apply Kept.set
    | (simp only [lengths]; done)

theorem execStartPatrol_keptR {func : Nat} {s : State} : KeptR s (execStartPatrol func s) := by
  unfold execStartPatrol
  repeat'
    first
    | with_reducible assumption
    | with_reducible apply Kept.refl
    | with_reducible apply KeptR.unit
    | with_reducible apply KeptR.regWrite
    | with_reducible apply KeptR.ok
    | with_reducible apply KeptR.next
    | with_reducible apply KeptR.fault
    | with_reducible apply Kept.when
    | with_reducible apply startPass_kept

theorem execStartCompaction_keptR {func : Nat} {s : State} : KeptR s (execStartCompaction func s) := by
  unfold execStartCompaction
  repeat'
    first
    | with_reducible assumption
    | with_reducible apply Kept.refl
    | with_reducible apply KeptR.unit
    | with_reducible apply KeptR.regWrite
    | with_reducible apply KeptR.ok
    | with_reducible apply KeptR.next
    | with_reducible apply KeptR.fault
    | with_reducible apply KeptR.refused
    | with_reducible apply Kept.when
    | with_reducible apply startCompaction_kept
    | with_reducible apply Kept.ite
    | intro _
    | with_reducible rfl
    | split
    | with_reducible apply Kept.set
    | (simp only [lengths, modAt_length, setAt_length, List.length_map, List.length_mapIdx]; done)

theorem startScrub_kept {z : State} {s : State} (kz : Kept z s) : Kept z (startScrub s) := by
  unfold startScrub
  repeat'
    first
    | with_reducible assumption
    | with_reducible apply Kept.refl
    | with_reducible apply Kept.ite
    | intro _
    | with_reducible rfl
    | split
    | with_reducible apply Kept.set
    | (simp only [lengths, modAt_length, setAt_length, List.length_map, List.length_mapIdx]; done)

theorem scrubTick_kept {z : State} {s : State} (kz : Kept z s) : Kept z (scrubTick s) := by
  unfold scrubTick
  repeat'
    first
    | with_reducible assumption
    | with_reducible apply Kept.refl
    | with_reducible apply Kept.ite
    | intro _
    | with_reducible rfl
    | split
    | with_reducible apply Kept.set
    | (simp only [lengths, modAt_length, setAt_length, List.length_map, List.length_mapIdx]; done)

theorem execStartScrub_keptR {func : Nat} {s : State} : KeptR s (execStartScrub func s) := by
  unfold execStartScrub
  repeat'
    first
    | with_reducible assumption
    | with_reducible apply Kept.refl
    | with_reducible apply KeptR.unit
    | with_reducible apply KeptR.regWrite
    | with_reducible apply KeptR.ok
    | with_reducible apply KeptR.next
    | with_reducible apply KeptR.fault
    | with_reducible apply Kept.when
    | with_reducible apply startScrub_kept

theorem execDdr5PatrolScrubDue_keptR {s : State} : KeptR s (execDdr5PatrolScrubDue s) := by
  unfold execDdr5PatrolScrubDue
  repeat'
    first
    | with_reducible assumption
    | with_reducible apply Kept.refl
    | with_reducible apply KeptR.unit
    | with_reducible apply KeptR.regWrite
    | with_reducible apply KeptR.ok
    | with_reducible apply KeptR.next
    | with_reducible apply KeptR.fault
    | with_reducible apply startScrub_kept

theorem execAgeClockMinute_keptR {s : State} : KeptR s (execAgeClockMinute s) := by
  unfold execAgeClockMinute
  repeat'
    first
    | (extract_lets -merge -useContext -underBinder +onlyGivenNames x; subst x)
    | with_reducible assumption
    | with_reducible apply Kept.refl
    | with_reducible apply KeptR.unit
    | with_reducible apply KeptR.regWrite
    | with_reducible apply KeptR.ok
    | with_reducible apply KeptR.next
    | with_reducible apply KeptR.fault
    | with_reducible apply Kept.ite
    | intro _
    | with_reducible rfl
    | split
    | with_reducible apply Kept.set
    | (simp only [lengths]; done)

theorem execDieFailed_keptR {die : Nat} {s : State} : KeptR s (execDieFailed die s) := by
  unfold execDieFailed
  repeat'
    first
    | (extract_lets -merge -useContext -underBinder +onlyGivenNames x; apply KeptR.cut (x := x); rotate_left; intro hx; clear_value x; rotate_left; dsimp only [x]; clear x)
    | (extract_lets -merge -useContext -underBinder +onlyGivenNames x; subst x)
    | with_reducible assumption
    | with_reducible apply Kept.refl
    | with_reducible apply KeptR.unit
    | with_reducible apply KeptR.regWrite
    | with_reducible apply KeptR.ok
    | with_reducible apply KeptR.next
    | with_reducible apply KeptR.fault
    | with_reducible apply Kept.foldl
    | with_reducible apply abandonReloc_kept
    | with_reducible apply wstEvent_kept
    | with_reducible apply Kept.ite
    | intro _
    | with_reducible rfl
    | split
    | with_reducible apply Kept.set

theorem execSuspendDieReady_keptR {die : Nat} {s : State} : KeptR s (execSuspendDieReady die s) := by
  unfold execSuspendDieReady
  repeat'
    first
    | (extract_lets -merge -useContext -underBinder +onlyGivenNames x; subst x)
    | with_reducible assumption
    | with_reducible apply Kept.refl
    | with_reducible apply KeptR.unit
    | with_reducible apply KeptR.regWrite
    | with_reducible apply KeptR.ok
    | with_reducible apply KeptR.next
    | with_reducible apply KeptR.fault
    | with_reducible rfl
    | split
    | with_reducible apply Kept.set
    | (simp only [lengths]; done)

theorem redoRelocs_kept {z : State} {s : State} (kz : Kept z s) : Kept z (redoRelocs s) := by
  unfold redoRelocs
  repeat'
    first
    | with_reducible assumption
    | with_reducible apply Kept.refl
    | with_reducible apply Kept.foldl
    | with_reducible apply queueReloc_kept
    | with_reducible apply Kept.ite
    | intro _
    | with_reducible rfl
    | split
    | with_reducible apply Kept.set
    | (simp only [lengths, modAt_length, setAt_length, List.length_map, List.length_mapIdx]; done)

theorem mountStore_kept {z : State} {s : State} (kz : Kept z s) : Kept z (mountStore s) := by
  unfold mountStore
  repeat'
    first
    | (extract_lets -merge -useContext -underBinder +onlyGivenNames x; apply Kept.cut (x := x); rotate_left; intro hx; clear_value x; rotate_left; dsimp only [x]; clear x)
    | (extract_lets -merge -useContext -underBinder +onlyGivenNames x; subst x)
    | with_reducible assumption
    | with_reducible apply Kept.refl
    | with_reducible apply redoRelocs_kept
    | with_reducible apply prunePatrol_kept
    | with_reducible apply wstEvent_kept
    | with_reducible apply startPass_kept
    | with_reducible apply Kept.ite
    | intro _
    | with_reducible rfl
    | split
    | with_reducible apply Kept.set
    | (simp only [lengths, modAt_length, setAt_length, List.length_map, List.length_mapIdx]; done)

theorem abandonRelocs_kept {z : State} {s : State} (kz : Kept z s) : Kept z (abandonRelocs s) := by
  unfold abandonRelocs
  exact Kept.set (Kept.foldl kz fun _ _ => abandonReloc_kept (Kept.refl _)) rfl rfl (by rfl)

/-- The off time's begin changes no length. -/
theorem offBegins_bstateSel {s : State} {m : WstMore} : (offBegins s m).bstateSel = m.bstateSel := by
  unfold offBegins; split <;> rfl

theorem unmountStore_kept {z : State} {s : State} (kz : Kept z s) : Kept z (unmountStore s) :=
  Kept.set (recorded_kept (Kept.foldl (Kept.set (Kept.set (abandonRelocs_kept kz) rfl rfl (by rfl)) rfl rfl (by rfl)) fun _ _ =>
    applyChange_kept (recorded_kept (Kept.refl _)))) rfl rfl (by simp only [lengths, offBegins_bstateSel])

theorem dropStore_kept {z : State} {s : State} (kz : Kept z s) : Kept z (dropStore s) :=
  Kept.set (abandonRelocs_kept kz) rfl rfl (by simp only [lengths, offBegins_bstateSel])

theorem dropCache_kept {z : State} {s : State} (kz : Kept z s) : Kept z (dropCache s) := by
  unfold dropCache
  repeat'
    first
    | (extract_lets -merge -useContext -underBinder +onlyGivenNames x; apply Kept.cut (x := x); rotate_left; intro hx; clear_value x; rotate_left; dsimp only [x]; clear x)
    | (extract_lets -merge -useContext -underBinder +onlyGivenNames x; subst x)
    | with_reducible assumption
    | with_reducible apply Kept.refl
    | with_reducible apply Kept.foldl
    | with_reducible apply zeroDev_kept
    | with_reducible apply Kept.ite
    | intro _
    | with_reducible rfl
    | split
    | with_reducible apply Kept.set
    | (simp only [lengths, modAt_length, setAt_length, List.length_map, List.length_mapIdx]; done)

theorem execDdrMigCtrlWrite_keptR {func : Nat} {value : Nat} {s : State} : KeptR s (execDdrMigCtrlWrite func value s) := by
  unfold execDdrMigCtrlWrite
  repeat'
    first
    | (extract_lets -merge -useContext -underBinder +onlyGivenNames x; apply KeptR.cut (x := x); rotate_left; intro hx; clear_value x; rotate_left; dsimp only [x]; clear x)
    | (extract_lets -merge -useContext -underBinder +onlyGivenNames x; apply Kept.cut (x := x); rotate_left; intro hx; clear_value x; rotate_left; dsimp only [x]; clear x)
    | (extract_lets -merge -useContext -underBinder +onlyGivenNames x; subst x)
    | with_reducible assumption
    | with_reducible apply Kept.refl
    | with_reducible apply KeptR.unit
    | with_reducible apply KeptR.regWrite
    | with_reducible apply KeptR.ok
    | with_reducible apply KeptR.next
    | with_reducible apply KeptR.fault
    | with_reducible apply KeptR.refused
    | with_reducible apply dispatch_kept
    | with_reducible apply settleStream_kept
    | with_reducible apply pinMore_kept
    | with_reducible apply dropCache_kept
    | with_reducible apply Kept.ite
    | intro _
    | with_reducible rfl
    | split
    | with_reducible apply Kept.set
    | (simp only [lengths, modAt_length, setAt_length, List.length_map, List.length_mapIdx]; done)

end Sys2Proof.Laws
end

