-- ==== Sys2Proof/Laws/KeptInstall.lean ====
section
/-! SUPPORT. Laws/KeptInstall.lean: every operation of Machine/Install.lean keeps what `Kept` says. -/

set_option Elab.async false

namespace Sys2Proof.Laws
open Sys2Proof Sys2Proof.Machine

theorem loadKey_kept {z : State} {id : Nat} {k1 : Bytes} {k2 : Bytes} {s : State} (kz : Kept z s) : Kept z (loadKey id k1 k2 s) := by
  unfold loadKey
  repeat'
    first
    | (extract_lets -merge -useContext -underBinder +onlyGivenNames x; subst x)
    | with_reducible assumption
    | with_reducible apply Kept.refl
    | with_reducible rfl
    | split
    | with_reducible apply Kept.set
    | (simp only [lengths]; done)

theorem freeKey_kept {z : State} {id : Nat} {s : State} (kz : Kept z s) : Kept z (freeKey id s) := by
  unfold freeKey
  repeat'
    first
    | (extract_lets -merge -useContext -underBinder +onlyGivenNames x; subst x)
    | with_reducible assumption
    | with_reducible apply Kept.refl
    | with_reducible rfl
    | split
    | with_reducible apply Kept.set
    | (simp only [lengths]; done)

theorem mountKeys_kept {z : State} {s : State} (kz : Kept z s) : Kept z (mountKeys s) := by
  unfold mountKeys
  repeat'
    first
    | (extract_lets -merge -useContext -underBinder +onlyGivenNames x; subst x)
    | with_reducible assumption
    | with_reducible apply Kept.refl
    | with_reducible apply Kept.ite
    | intro _
    | with_reducible rfl
    | split
    | with_reducible apply Kept.set
    | (simp only [lengths]; done)

theorem takeSuper_kept {z : State} {x : Super} {s : State} (kz : Kept z s) : Kept z (takeSuper x s) := by
  unfold takeSuper
  repeat'
    first
    | (extract_lets -merge -useContext -underBinder +onlyGivenNames x; apply Kept.cut (x := x); rotate_left; intro hx; clear_value x; rotate_left; dsimp only [x]; clear x)
    | (extract_lets -merge -useContext -underBinder +onlyGivenNames x; subst x)
    | with_reducible assumption
    | with_reducible apply Kept.refl
    | with_reducible apply Kept.foldl
    | with_reducible apply modBlock_kept
    | with_reducible apply recorded_kept
    | with_reducible apply Kept.ite
    | intro _
    | with_reducible rfl
    | split
    | with_reducible apply Kept.set
    | (simp only [lengths, modAt_length, setAt_length, List.length_map, List.length_mapIdx]; done)

theorem checkSpares_kept {z : State} {ds : List Nat} {s : State} (kz : Kept z s) : Kept z (checkSpares ds s) := by
  unfold checkSpares
  repeat'
    first
    | with_reducible assumption
    | with_reducible apply Kept.refl
    | with_reducible apply Kept.foldl
    | with_reducible apply checkSpare_kept
    | with_reducible apply Kept.ite
    | intro _
    | with_reducible rfl
    | split
    | with_reducible apply Kept.set
    | (simp only [lengths, modAt_length, setAt_length, List.length_map, List.length_mapIdx]; done)

theorem releaseSupers_kept {z : State} {xs : List Super} {s : State} (kz : Kept z s) : Kept z (releaseSupers xs s) := by
  unfold releaseSupers
  repeat'
    first
    | (extract_lets -merge -useContext -underBinder +onlyGivenNames x; apply Kept.cut (x := x); rotate_left; intro hx; clear_value x; rotate_left; dsimp only [x]; clear x)
    | (extract_lets -merge -useContext -underBinder +onlyGivenNames x; subst x)
    | with_reducible assumption
    | with_reducible apply Kept.refl
    | with_reducible apply Kept.foldl
    | with_reducible apply releaseBlocks_kept
    | with_reducible apply recorded_kept
    | with_reducible apply Kept.ite
    | intro _
    | with_reducible rfl
    | split
    | with_reducible apply Kept.set
    | (simp only [lengths, modAt_length, setAt_length, List.length_map, List.length_mapIdx]; done)

theorem closeSupers_kept {z : State} {xs : List Super} {s : State} (kz : Kept z s) : Kept z (closeSupers xs s) := by
  unfold closeSupers
  repeat'
    first
    | with_reducible assumption
    | with_reducible apply Kept.refl
    | with_reducible apply Kept.foldl
    | with_reducible apply levelDies_kept
    | with_reducible apply modBlock_kept
    | with_reducible apply Kept.ite
    | intro _
    | with_reducible rfl
    | split
    | with_reducible apply Kept.set
    | (simp only [lengths, modAt_length, setAt_length, List.length_map, List.length_mapIdx]; done)

theorem modInstall_kept {z : State} {xfer : Nat} {g : Install → Install} {s : State} (kz : Kept z s) : Kept z (modInstall xfer g s) := by
  unfold modInstall
  repeat'
    first
    | (extract_lets -merge -useContext -underBinder +onlyGivenNames x; subst x)
    | with_reducible assumption
    | with_reducible apply Kept.refl
    | with_reducible apply Kept.ite
    | intro _
    | with_reducible rfl
    | split
    | with_reducible apply Kept.set

theorem noteEnvelope_kept {z : State} {s : State} {c : Cmd} (kz : Kept z s) : Kept z (noteEnvelope s c) := by
  unfold noteEnvelope
  repeat'
    first
    | (extract_lets -merge -useContext -underBinder +onlyGivenNames x; subst x)
    | with_reducible assumption
    | with_reducible apply Kept.refl
    | with_reducible apply Kept.ite
    | intro _
    | with_reducible rfl
    | split
    | with_reducible apply Kept.set
    | (simp only [lengths]; done)

theorem runInstallBegin_kept {z : State} {c : Cmd} {s : State} (kz : Kept z s) : Kept z (runInstallBegin c s) := by
  unfold runInstallBegin
  repeat'
    first
    | with_reducible assumption
    | with_reducible apply Kept.refl
    | with_reducible apply failCmd_kept
    | with_reducible apply noteEnvelope_kept
    | with_reducible apply stageDone_kept
    | with_reducible rfl
    | split

theorem execInstallBegin_keptR {id : Nat} {s : State} : KeptR s (execInstallBegin id s) := by
  unfold execInstallBegin
  repeat'
    first
    | with_reducible assumption
    | with_reducible apply Kept.refl
    | with_reducible apply KeptR.unit
    | with_reducible apply KeptR.regWrite
    | with_reducible apply KeptR.ok
    | with_reducible apply KeptR.next
    | with_reducible apply KeptR.fault
    | with_reducible apply runReady_kept
    | with_reducible apply runInstallBegin_kept
    | intro _

theorem cancelMigration_kept {z : State} {m : Image} {s : State} (kz : Kept z s) : Kept z (cancelMigration m s) := by
  unfold cancelMigration
  repeat'
    first
    | (extract_lets -merge -useContext -underBinder +onlyGivenNames x; subst x)
    | with_reducible assumption
    | with_reducible apply Kept.refl
    | with_reducible rfl
    | split
    | with_reducible apply Kept.set

theorem commitInstallBegin_keptE {z : State} {c : Cmd} {s : State} {t_ : State} (kz : Kept z s) (e_ : commitInstallBegin c s = .ok t_) : Kept z t_ := by
  unfold commitInstallBegin at e_
  try dsimp only at e_
  repeat' split at e_
  all_goals first
    | (cases e_; done)
    | (cases e_
       repeat'
         first
         | (extract_lets -merge -useContext -underBinder +onlyGivenNames x; apply Kept.cut (x := x); rotate_left; intro hx; clear_value x; rotate_left; dsimp only [x]; clear x)
         | (extract_lets -merge -useContext -underBinder +onlyGivenNames x; subst x)
         | with_reducible assumption
         | with_reducible apply Kept.refl
         | with_reducible apply cancelMigration_kept
         | with_reducible apply recorded_kept
         | with_reducible apply loadKey_kept
         | with_reducible apply modCmd_kept
         | with_reducible apply Kept.ite
         | intro _
         | with_reducible rfl
         | split
         | with_reducible apply Kept.set
         | (simp only [lengths, modAt_length, setAt_length, List.length_map, List.length_mapIdx]; done))

theorem runInstallData_kept {z : State} {c : Cmd} {s : State} (kz : Kept z s) : Kept z (runInstallData c s) := by
  unfold runInstallData
  repeat'
    first
    | with_reducible assumption
    | with_reducible apply Kept.refl
    | with_reducible apply failCmd_kept
    | with_reducible apply stageDone_kept
    | with_reducible apply modCmd_kept
    | with_reducible apply Kept.ite
    | intro _
    | with_reducible rfl
    | split
    | with_reducible apply Kept.set
    | (simp only [lengths, modAt_length, setAt_length, List.length_map, List.length_mapIdx]; done)

theorem commitInstallData_keptE {z : State} {c : Cmd} {s : State} {t_ : State} (kz : Kept z s) (e_ : commitInstallData c s = .ok t_) : Kept z t_ := by
  unfold commitInstallData at e_
  try dsimp only at e_
  repeat' split at e_
  all_goals first
    | (cases e_; done)
    | (cases e_
       repeat'
         first
         | with_reducible assumption
         | with_reducible apply Kept.refl
         | with_reducible apply grantPrograms_kept
         | with_reducible apply modInstall_kept
         | with_reducible apply Kept.ite
         | intro _
         | with_reducible rfl
         | split
         | with_reducible apply Kept.set
         | (simp only [lengths, modAt_length, setAt_length, List.length_map, List.length_mapIdx]; done))

theorem execInstallData_keptR {id : Nat} {s : State} : KeptR s (execInstallData id s) := by
  unfold execInstallData
  repeat'
    first
    | with_reducible assumption
    | with_reducible apply Kept.refl
    | with_reducible apply KeptR.unit
    | with_reducible apply KeptR.regWrite
    | with_reducible apply KeptR.ok
    | with_reducible apply KeptR.next
    | with_reducible apply KeptR.fault
    | with_reducible apply runReady_kept
    | with_reducible apply runInstallData_kept
    | intro _

theorem superFor_kept1 {z : State} {i : Install} {j : Nat} {s : State} (kz : Kept z s) : Kept z (superFor i j s).1 := by
  unfold superFor
  repeat'
    first
    | (extract_lets -merge -useContext -underBinder +onlyGivenNames x; apply Kept.cut (x := x); rotate_left; intro hx; clear_value x; rotate_left; dsimp only [x]; clear x)
    | (extract_lets -merge -useContext -underBinder +onlyGivenNames x; subst x)
    | with_reducible assumption
    | with_reducible apply Kept.refl
    | with_reducible apply checkSpares_kept
    | with_reducible apply modInstall_kept
    | with_reducible apply takeSuper_kept
    | with_reducible apply Kept.ite
    | intro _
    | with_reducible rfl
    | split
    | with_reducible apply Kept.set
    | (simp only [lengths, modAt_length, setAt_length, List.length_map, List.length_mapIdx]; done)

theorem superFor_keptP {z : State} {i : Install} {j : Nat} {s : State} {t_ : State} {v_ : Option Super} (kz : Kept z s) (e_ : superFor i j s = (t_, v_)) : Kept z t_ := by
  have k := superFor_kept1 (i := i) (j := j) (s := s) kz
  rw [e_] at k
  exact k

theorem programGranule_kept {z : State} {xfer : Nat} {j : Nat} {s : State} (kz : Kept z s) : Kept z (programGranule xfer j s) := by
  unfold programGranule
  repeat'
    first
    | (extract_lets -merge -useContext -underBinder +onlyGivenNames x; apply Kept.cut (x := x); rotate_left; intro hx; clear_value x; rotate_left; dsimp only [x]; clear x)
    | with_reducible assumption
    | with_reducible apply Kept.refl
    | with_reducible apply superFor_kept1
    | (with_reducible apply superFor_keptP; rotate_left; assumption)
    | with_reducible apply recorded_kept
    | with_reducible apply modInstall_kept
    | with_reducible apply closeSupers_kept
    | with_reducible apply Kept.ite
    | intro _
    | with_reducible rfl
    | split

theorem dropPrograms_kept {z : State} {p : Nat × Nat → Bool} {s : State} (kz : Kept z s) : Kept z (dropPrograms p s) := by
  unfold dropPrograms
  repeat'
    first
    | with_reducible assumption
    | with_reducible apply Kept.refl
    | with_reducible apply Kept.ite
    | intro _
    | with_reducible rfl
    | split
    | with_reducible apply Kept.set
    | (simp only [lengths, modAt_length, setAt_length, List.length_map, List.length_mapIdx]; done)

theorem execInstallGranuleDurable_keptR {xfer : Nat} {granule : Nat} {s : State} : KeptR s (execInstallGranuleDurable xfer granule s) := by
  unfold execInstallGranuleDurable
  repeat'
    first
    | with_reducible assumption
    | with_reducible apply Kept.refl
    | with_reducible apply KeptR.unit
    | with_reducible apply KeptR.regWrite
    | with_reducible apply KeptR.ok
    | with_reducible apply KeptR.next
    | with_reducible apply KeptR.fault
    | with_reducible apply KeptR.refused
    | with_reducible apply Kept.when
    | with_reducible apply grantPrograms_kept
    | with_reducible apply programGranule_kept
    | with_reducible apply dropPrograms_kept
    | with_reducible apply Kept.ite
    | intro _
    | with_reducible rfl
    | split
    | with_reducible apply Kept.set
    | (simp only [lengths, modAt_length, setAt_length, List.length_map, List.length_mapIdx]; done)

theorem installEvent_kept {z : State} {detail : Nat} {bits : Nat} {handle : Nat} {s : State} (kz : Kept z s) : Kept z (installEvent detail bits handle s) := by
  unfold installEvent
  repeat'
    first
    | (extract_lets -merge -useContext -underBinder +onlyGivenNames x; subst x)
    | with_reducible assumption
    | with_reducible apply Kept.refl
    | with_reducible apply postBoth_kept
    | with_reducible rfl
    | split
    | with_reducible apply Kept.set
    | (simp only [lengths]; done)

theorem dropInstall_kept {z : State} {i : Install} {s : State} (kz : Kept z s) : Kept z (dropInstall i s) := by
  unfold dropInstall
  repeat'
    first
    | (extract_lets -merge -useContext -underBinder +onlyGivenNames x; apply Kept.cut (x := x); rotate_left; intro hx; clear_value x; rotate_left; dsimp only [x]; clear x)
    | (extract_lets -merge -useContext -underBinder +onlyGivenNames x; subst x)
    | with_reducible assumption
    | with_reducible apply Kept.refl
    | with_reducible apply releaseSupers_kept
    | with_reducible apply dropPrograms_kept
    | with_reducible apply freeKey_kept
    | with_reducible apply Kept.ite
    | intro _
    | with_reducible rfl
    | split
    | with_reducible apply Kept.set
    | (simp only [lengths, modAt_length, setAt_length, List.length_map, List.length_mapIdx]; done)

theorem rollBack_kept {z : State} {i : Install} {s : State} (kz : Kept z s) : Kept z (rollBack i s) := by
  unfold rollBack
  repeat'
    first
    | with_reducible assumption
    | with_reducible apply Kept.refl
    | with_reducible apply installEvent_kept
    | with_reducible apply dropInstall_kept
    | with_reducible apply recorded_kept

theorem runInstallCommit_kept {z : State} {c : Cmd} {s : State} (kz : Kept z s) : Kept z (runInstallCommit c s) := by
  unfold runInstallCommit
  repeat'
    first
    | (extract_lets -merge -useContext -underBinder +onlyGivenNames x; subst x)
    | with_reducible assumption
    | with_reducible apply Kept.refl
    | with_reducible apply failCmd_kept
    | with_reducible apply rollBack_kept
    | with_reducible apply stageDone_kept
    | with_reducible apply modInstall_kept
    | with_reducible apply Kept.ite
    | intro _
    | with_reducible rfl
    | split
    | with_reducible apply Kept.set
    | (simp only [lengths]; done)

theorem execInstallCommit_keptR {id : Nat} {s : State} : KeptR s (execInstallCommit id s) := by
  unfold execInstallCommit
  repeat'
    first
    | with_reducible assumption
    | with_reducible apply Kept.refl
    | with_reducible apply KeptR.unit
    | with_reducible apply KeptR.regWrite
    | with_reducible apply KeptR.ok
    | with_reducible apply KeptR.next
    | with_reducible apply KeptR.fault
    | with_reducible apply runReady_kept
    | with_reducible apply runInstallCommit_kept
    | intro _

theorem dropHandlePrefixes_kept {z : State} {handle : Nat} {s : State} (kz : Kept z s) : Kept z (dropHandlePrefixes handle s) := by
  unfold dropHandlePrefixes
  repeat'
    first
    | with_reducible assumption
    | with_reducible apply Kept.refl
    | with_reducible apply removePrefixes_kept

theorem retireVersion_kept {z : State} {m : Image} {s : State} (kz : Kept z s) : Kept z (retireVersion m s) := by
  unfold retireVersion
  repeat'
    first
    | (extract_lets -merge -useContext -underBinder +onlyGivenNames x; apply Kept.cut (x := x); rotate_left; intro hx; clear_value x; rotate_left; dsimp only [x]; clear x)
    | (extract_lets -merge -useContext -underBinder +onlyGivenNames x; subst x)
    | with_reducible assumption
    | with_reducible apply Kept.refl
    | with_reducible apply dropHandlePrefixes_kept
    | with_reducible apply Kept.ite
    | intro _
    | with_reducible rfl
    | split
    | with_reducible apply Kept.set
    | (simp only [lengths]; done)

theorem reloadPinned_kept {z : State} {m : Image} {s : State} {e : Nat × List PlaceEntry} (kz : Kept z s) : Kept z (reloadPinned m s e) := by
  unfold reloadPinned
  repeat'
    first
    | (extract_lets -merge -useContext -underBinder +onlyGivenNames x; apply Kept.cut (x := x); rotate_left; intro hx; clear_value x; rotate_left; dsimp only [x]; clear x)
    | (extract_lets -merge -useContext -underBinder +onlyGivenNames x; subst x)
    | with_reducible assumption
    | with_reducible apply Kept.refl
    | with_reducible apply Kept.foldl
    | (with_reducible apply reserveCopies_keptO; rotate_left; assumption)
    | with_reducible apply fillCopy_kept
    | with_reducible apply addHot_kept
    | with_reducible apply Kept.ite
    | intro _
    | with_reducible rfl
    | split
    | with_reducible apply Kept.set
    | (simp only [lengths, modAt_length, setAt_length, List.length_map, List.length_mapIdx]; done)

theorem commitInstallCommit_kept {z : State} {c : Cmd} {s : State} (kz : Kept z s) : Kept z (commitInstallCommit c s) := by
  unfold commitInstallCommit
  repeat'
    first
    | (extract_lets -merge -useContext -underBinder +onlyGivenNames x; apply Kept.cut (x := x); rotate_left; intro hx; clear_value x; rotate_left; dsimp only [x]; clear x)
    | (extract_lets -merge -useContext -underBinder +onlyGivenNames x; subst x)
    | with_reducible assumption
    | with_reducible apply Kept.refl
    | with_reducible apply Kept.foldl
    | with_reducible apply dropHandlePrefixes_kept
    | with_reducible apply retireVersion_kept
    | with_reducible apply cancelMigration_kept
    | with_reducible apply closeSupers_kept
    | with_reducible apply reloadPinned_kept
    | with_reducible apply checkpointed_kept
    | with_reducible apply recorded_kept
    | with_reducible apply Kept.ite
    | intro _
    | with_reducible rfl
    | split
    | with_reducible apply Kept.set
    | (simp only [lengths, modAt_length, setAt_length, List.length_map, List.length_mapIdx]; done)

theorem runInstallCancel_kept {z : State} {c : Cmd} {s : State} (kz : Kept z s) : Kept z (runInstallCancel c s) := by
  unfold runInstallCancel
  repeat'
    first
    | with_reducible assumption
    | with_reducible apply Kept.refl
    | with_reducible apply failCmd_kept
    | with_reducible apply stageDone_kept
    | with_reducible apply modInstall_kept
    | with_reducible rfl
    | split

theorem execInstallCancel_keptR {id : Nat} {s : State} : KeptR s (execInstallCancel id s) := by
  unfold execInstallCancel
  repeat'
    first
    | with_reducible assumption
    | with_reducible apply Kept.refl
    | with_reducible apply KeptR.unit
    | with_reducible apply KeptR.regWrite
    | with_reducible apply KeptR.ok
    | with_reducible apply KeptR.next
    | with_reducible apply KeptR.fault
    | with_reducible apply runReady_kept
    | with_reducible apply runInstallCancel_kept
    | intro _

theorem commitInstallCancel_kept {z : State} {c : Cmd} {s : State} (kz : Kept z s) : Kept z (commitInstallCancel c s) := by
  unfold commitInstallCancel
  repeat'
    first
    | with_reducible assumption
    | with_reducible apply Kept.refl
    | with_reducible apply dropInstall_kept
    | with_reducible apply recorded_kept
    | with_reducible rfl
    | split

theorem suspendInstall_kept {z : State} {program : Bool} {xfer : Nat} {s : State} (kz : Kept z s) : Kept z (suspendInstall program xfer s) := by
  unfold suspendInstall
  repeat'
    first
    | (extract_lets -merge -useContext -underBinder +onlyGivenNames x; apply Kept.cut (x := x); rotate_left; intro hx; clear_value x; rotate_left; dsimp only [x]; clear x)
    | (extract_lets -merge -useContext -underBinder +onlyGivenNames x; subst x)
    | with_reducible assumption
    | with_reducible apply Kept.refl
    | with_reducible apply Kept.foldl
    | with_reducible apply programGranule_kept
    | with_reducible apply releaseSupers_kept
    | with_reducible apply dropPrograms_kept
    | with_reducible apply modInstall_kept
    | with_reducible apply installEvent_kept
    | with_reducible apply Kept.ite
    | intro _
    | with_reducible rfl
    | split
    | with_reducible apply Kept.set
    | (simp only [lengths, modAt_length, setAt_length, List.length_map, List.length_mapIdx]; done)

theorem suspendPort_kept {z : State} {p : Nat} {s : State} (kz : Kept z s) : Kept z (suspendPort p s) := by
  unfold suspendPort
  repeat'
    first
    | with_reducible assumption
    | with_reducible apply Kept.refl
    | with_reducible apply Kept.foldl
    | with_reducible apply suspendInstall_kept
    | intro _

theorem runModelRelease_kept {z : State} {c : Cmd} {s : State} (kz : Kept z s) : Kept z (runModelRelease c s) := by
  unfold runModelRelease
  repeat'
    first
    | with_reducible assumption
    | with_reducible apply Kept.refl
    | with_reducible apply failCmd_kept
    | with_reducible apply stageDone_kept
    | with_reducible rfl
    | split

theorem execModelRelease_keptR {id : Nat} {s : State} : KeptR s (execModelRelease id s) := by
  unfold execModelRelease
  repeat'
    first
    | with_reducible assumption
    | with_reducible apply Kept.refl
    | with_reducible apply KeptR.unit
    | with_reducible apply KeptR.regWrite
    | with_reducible apply KeptR.ok
    | with_reducible apply KeptR.next
    | with_reducible apply KeptR.fault
    | with_reducible apply runReady_kept
    | with_reducible apply runModelRelease_kept
    | intro _

theorem commitModelRelease_keptE {z : State} {c : Cmd} {s : State} {t_ : State} (kz : Kept z s) (e_ : commitModelRelease c s = .ok t_) : Kept z t_ := by
  unfold commitModelRelease at e_
  try dsimp only at e_
  repeat' split at e_
  all_goals first
    | (cases e_; done)
    | (cases e_
       repeat'
         first
         | (extract_lets -merge -useContext -underBinder +onlyGivenNames x; apply Kept.cut (x := x); rotate_left; intro hx; clear_value x; rotate_left; dsimp only [x]; clear x)
         | (extract_lets -merge -useContext -underBinder +onlyGivenNames x; subst x)
         | with_reducible assumption
         | with_reducible apply Kept.refl
         | with_reducible apply retireVersion_kept
         | with_reducible apply checkpointed_kept
         | with_reducible apply recorded_kept
         | with_reducible apply freeKey_kept
         | with_reducible apply Kept.ite
         | intro _
         | with_reducible rfl
         | split
         | with_reducible apply Kept.set
         | (simp only [lengths, modAt_length, setAt_length, List.length_map, List.length_mapIdx]; done))

theorem dropVersion_kept {z : State} {m : Image} {s : State} (kz : Kept z s) : Kept z (dropVersion m s) := by
  unfold dropVersion
  repeat'
    first
    | (extract_lets -merge -useContext -underBinder +onlyGivenNames x; apply Kept.cut (x := x); rotate_left; intro hx; clear_value x; rotate_left; dsimp only [x]; clear x)
    | (extract_lets -merge -useContext -underBinder +onlyGivenNames x; subst x)
    | with_reducible assumption
    | with_reducible apply Kept.refl
    | with_reducible apply Kept.foldl
    | with_reducible apply recorded_kept
    | with_reducible apply releaseSupers_kept
    | with_reducible apply drainSlot_kept
    | with_reducible apply freeKey_kept
    | with_reducible apply Kept.ite
    | intro _
    | with_reducible rfl
    | split
    | with_reducible apply Kept.set
    | (simp only [lengths, modAt_length, setAt_length, List.length_map, List.length_mapIdx]; done)

theorem sweepVersions_kept {z : State} {s : State} (kz : Kept z s) : Kept z (sweepVersions s) := by
  unfold sweepVersions
  repeat'
    first
    | with_reducible assumption
    | with_reducible apply Kept.refl
    | with_reducible apply Kept.foldl
    | with_reducible apply dropVersion_kept
    | intro _

theorem rebuildGranule_kept {z : State} {id : Nat} {s : State} {g : Nat} (kz : Kept z s) : Kept z (rebuildGranule id s g) := by
  unfold rebuildGranule
  repeat'
    first
    | (extract_lets -merge -useContext -underBinder +onlyGivenNames x; apply Kept.cut (x := x); rotate_left; intro hx; clear_value x; rotate_left; dsimp only [x]; clear x)
    | (extract_lets -merge -useContext -underBinder +onlyGivenNames x; subst x)
    | with_reducible assumption
    | with_reducible apply Kept.refl
    | with_reducible apply rebuiltRead_kept
    | with_reducible apply Kept.ite
    | intro _
    | with_reducible rfl
    | split
    | with_reducible apply Kept.set
    | (simp only [lengths, modAt_length, setAt_length, List.length_map, List.length_mapIdx]; done)

theorem placeLoad_kept {z : State} {c : Cmd} {m : Image} {es : List PlaceEntry} {s : State} (kz : Kept z s) : Kept z (placeLoad c m es s) := by
  unfold placeLoad
  repeat'
    first
    | (extract_lets -merge -useContext -underBinder +onlyGivenNames x; apply Kept.cut (x := x); rotate_left; intro hx; clear_value x; rotate_left; dsimp only [x]; clear x)
    | (extract_lets -merge -useContext -underBinder +onlyGivenNames x; subst x)
    | with_reducible assumption
    | with_reducible apply Kept.refl
    | with_reducible apply modCmd_kept
    | with_reducible apply addHot_kept
    | with_reducible apply startSwitch_kept
    | with_reducible apply pinMore_kept
    | with_reducible apply Kept.ite
    | intro _
    | with_reducible rfl
    | split
    | with_reducible apply Kept.set
    | (simp only [lengths, modAt_length, setAt_length, List.length_map, List.length_mapIdx]; done)

theorem placeStart_kept {z : State} {c : Cmd} {m : Image} {es : List PlaceEntry} {s : State} (kz : Kept z s) : Kept z (placeStart c m es s) := by
  unfold placeStart
  split
  · exact failCmd_kept (Kept.foldl kz (fun _ _ => rebuildGranule_kept (Kept.refl _)))
  · split
    · exact failCmd_kept kz
    · rename_i e
      have k := placeCopies_keptO kz e
      split
      · exact failCmd_kept (recordFail_kept k)
      · exact placeLoad_kept k

theorem runModelPlace_kept {z : State} {c : Cmd} {s : State} (kz : Kept z s) : Kept z (runModelPlace c s) := by
  unfold runModelPlace
  repeat'
    first
    | (extract_lets -merge -useContext -underBinder +onlyGivenNames x; apply Kept.cut (x := x); rotate_left; intro hx; clear_value x; rotate_left; dsimp only [x]; clear x)
    | (extract_lets -merge -useContext -underBinder +onlyGivenNames x; subst x)
    | with_reducible assumption
    | with_reducible apply Kept.refl
    | with_reducible apply failCmd_kept
    | with_reducible apply placeStart_kept
    | with_reducible apply modCmd_kept
    | with_reducible apply Kept.ite
    | intro _
    | with_reducible rfl
    | split
    | with_reducible apply Kept.set
    | (simp only [lengths, modAt_length, setAt_length, List.length_map, List.length_mapIdx]; done)

theorem execModelPlace_keptR {id : Nat} {s : State} : KeptR s (execModelPlace id s) := by
  unfold execModelPlace
  repeat'
    first
    | with_reducible assumption
    | with_reducible apply Kept.refl
    | with_reducible apply KeptR.unit
    | with_reducible apply KeptR.regWrite
    | with_reducible apply KeptR.ok
    | with_reducible apply KeptR.next
    | with_reducible apply KeptR.fault
    | with_reducible apply KeptR.refused
    | with_reducible apply runReady_kept
    | with_reducible apply runModelPlace_kept
    | with_reducible apply Kept.ite
    | intro _
    | with_reducible rfl
    | split
    | with_reducible apply Kept.set
    | (simp only [lengths, modAt_length, setAt_length, List.length_map, List.length_mapIdx]; done)

end Sys2Proof.Laws
end

