-- ==== Sys2Proof/Laws/KeptFirmware.lean ====
section
/-! SUPPORT. Laws/KeptFirmware.lean: every operation of Machine/Firmware.lean keeps what `Kept` says. -/

set_option Elab.async false

namespace Sys2Proof.Laws
open Sys2Proof Sys2Proof.Machine

theorem modSlot_kept {z : State} {n : Nat} {g : Slot → Slot} {s : State} (kz : Kept z s) : Kept z (modSlot n g s) := by
  unfold modSlot
  repeat'
    first
    | (extract_lets -merge -useContext -underBinder +onlyGivenNames x; subst x)
    | with_reducible assumption
    | with_reducible apply Kept.refl
    | with_reducible rfl
    | split
    | with_reducible apply Kept.set
    | (simp only [lengths, modAt_length]; done)

theorem runSlot_kept {z : State} {n : Nat} {s : State} (kz : Kept z s) : Kept z (runSlot n s) := by
  unfold runSlot
  repeat'
    first
    | (extract_lets -merge -useContext -underBinder +onlyGivenNames x; apply Kept.cut (x := x); rotate_left; intro hx; clear_value x; rotate_left; dsimp only [x]; clear x)
    | (extract_lets -merge -useContext -underBinder +onlyGivenNames x; subst x)
    | with_reducible assumption
    | with_reducible apply Kept.refl
    | with_reducible apply Kept.ite
    | intro _
    | with_reducible rfl
    | split
    | with_reducible apply Kept.set
    | with_reducible apply Kept.setIdent
    | (simp only [lengths]; done)

theorem fwEvent_kept {z : State} {detail : Nat} {info : Nat} {s : State} (kz : Kept z s) : Kept z (fwEvent detail info s) := by
  unfold fwEvent
  repeat'
    first
    | with_reducible assumption
    | with_reducible apply Kept.refl
    | with_reducible apply postBoth_kept

theorem boot_kept {z : State} {s : State} (kz : Kept z s) : Kept z (boot s) := by
  unfold boot
  repeat'
    first
    | (extract_lets -merge -useContext -underBinder +onlyGivenNames x; subst x)
    | with_reducible assumption
    | with_reducible apply Kept.refl
    | with_reducible apply runSlot_kept
    | with_reducible apply fwEvent_kept
    | with_reducible rfl
    | split
    | with_reducible apply Kept.set
    | with_reducible apply Kept.setIdent
    | (simp only [lengths]; done)

theorem execFwuOpen_keptR {func : Nat} {value : Nat} {s : State} : KeptR s (execFwuOpen func value s) := by
  unfold execFwuOpen
  repeat'
    first
    | (extract_lets -merge -useContext -underBinder +onlyGivenNames x; subst x)
    | with_reducible assumption
    | with_reducible apply Kept.refl
    | with_reducible apply KeptR.unit
    | with_reducible apply KeptR.regWrite
    | with_reducible apply KeptR.ok
    | with_reducible apply KeptR.next
    | with_reducible apply KeptR.fault
    | with_reducible apply modSlot_kept
    | with_reducible apply Kept.ite
    | intro _
    | with_reducible rfl
    | split
    | with_reducible apply Kept.set
    | (simp only [lengths]; done)

theorem execFwuAbort_keptR {func : Nat} {s : State} : KeptR s (execFwuAbort func s) := by
  unfold execFwuAbort
  repeat'
    first
    | (extract_lets -merge -useContext -underBinder +onlyGivenNames x; subst x)
    | with_reducible assumption
    | with_reducible apply Kept.refl
    | with_reducible apply KeptR.unit
    | with_reducible apply KeptR.regWrite
    | with_reducible apply KeptR.ok
    | with_reducible apply KeptR.next
    | with_reducible apply KeptR.fault
    | with_reducible apply modSlot_kept
    | with_reducible apply Kept.ite
    | intro _
    | with_reducible rfl
    | split
    | with_reducible apply Kept.set
    | (simp only [lengths]; done)

theorem execFwuRaiseSec_keptR {func : Nat} {s : State} : KeptR s (execFwuRaiseSec func s) := by
  unfold execFwuRaiseSec
  refine KeptR.regWrite (KeptR.ok (Kept.when (Kept.refl s) ?_))
  exact ⟨rfl, rfl, rfl, rfl, id, id, Nat.le_max_left _ _, .inl rfl, shaped_of_lengths rfl⟩

theorem wearSlot_kept {z : State} {n : Nat} {s : State} (kz : Kept z s) : Kept z (wearSlot n s) := by
  unfold wearSlot
  repeat'
    first
    | with_reducible assumption
    | with_reducible apply Kept.refl
    | with_reducible apply Kept.foldl
    | with_reducible apply wearBlock_kept
    | with_reducible apply Kept.ite
    | intro _
    | with_reducible rfl
    | split
    | with_reducible apply Kept.set
    | (simp only [lengths, modAt_length, setAt_length, List.length_map, List.length_mapIdx]; done)

theorem execSlotEraseDone_keptR {s : State} : KeptR s (execSlotEraseDone s) := by
  unfold execSlotEraseDone
  repeat'
    first
    | with_reducible assumption
    | with_reducible apply Kept.refl
    | with_reducible apply KeptR.unit
    | with_reducible apply KeptR.regWrite
    | with_reducible apply KeptR.ok
    | with_reducible apply KeptR.next
    | with_reducible apply KeptR.fault
    | with_reducible apply KeptR.refused
    | with_reducible apply Kept.when
    | with_reducible apply grantPrograms_kept
    | with_reducible apply settleCompaction_kept
    | with_reducible apply wearSlot_kept
    | with_reducible apply Kept.ite
    | intro _
    | with_reducible rfl
    | split
    | with_reducible apply Kept.set
    | (simp only [lengths, modAt_length, setAt_length, List.length_map, List.length_mapIdx]; done)

theorem runFwWrite_kept {z : State} {c : Cmd} {s : State} (kz : Kept z s) : Kept z (runFwWrite c s) := by
  unfold runFwWrite
  repeat'
    first
    | with_reducible assumption
    | with_reducible apply Kept.refl
    | with_reducible apply failCmd_kept
    | with_reducible apply stageDone_kept
    | with_reducible apply modCmd_kept
    | with_reducible apply Kept.ite
    | intro _
    | with_reducible rfl
    | split

theorem execFwWrite_keptR {id : Nat} {s : State} : KeptR s (execFwWrite id s) := by
  unfold execFwWrite
  repeat'
    first
    | with_reducible assumption
    | with_reducible apply Kept.refl
    | with_reducible apply KeptR.unit
    | with_reducible apply KeptR.regWrite
    | with_reducible apply KeptR.ok
    | with_reducible apply KeptR.next
    | with_reducible apply KeptR.fault
    | with_reducible apply runReady_kept
    | with_reducible apply runFwWrite_kept
    | intro _

theorem commitFwWrite_keptE {z : State} {c : Cmd} {s : State} {t_ : State} (kz : Kept z s) (e_ : commitFwWrite c s = .ok t_) : Kept z t_ := by
  unfold commitFwWrite at e_
  try dsimp only at e_
  repeat' split at e_
  all_goals first
    | (cases e_; done)
    | (cases e_
       repeat'
         first
         | (extract_lets -merge -useContext -underBinder +onlyGivenNames x; apply Kept.cut (x := x); rotate_left; intro hx; clear_value x; rotate_left; dsimp only [x]; clear x)
         | (extract_lets -merge -useContext -underBinder +onlyGivenNames x; subst x)
         | with_reducible assumption
         | with_reducible apply Kept.refl
         | with_reducible apply Kept.foldl
         | with_reducible apply modSlot_kept
         | with_reducible apply complete_kept
         | with_reducible apply Kept.ite
         | intro _
         | with_reducible rfl
         | split
         | with_reducible apply Kept.set
         | (simp only [lengths, modAt_length, setAt_length, List.length_map, List.length_mapIdx]; done))

theorem activationFailed_kept {z : State} {id : Nat} {code : Nat} {s : State} (kz : Kept z s) : Kept z (activationFailed id code s) := by
  unfold activationFailed
  repeat'
    first
    | (extract_lets -merge -useContext -underBinder +onlyGivenNames x; subst x)
    | with_reducible assumption
    | with_reducible apply Kept.refl
    | with_reducible apply failCmd_kept
    | with_reducible apply fwEvent_kept
    | with_reducible rfl
    | split
    | with_reducible apply Kept.set
    | (simp only [lengths]; done)

theorem recoveryBoot_kept {z : State} {c : Cmd} {s : State} (kz : Kept z s) : Kept z (recoveryBoot c s) := by
  unfold recoveryBoot
  repeat'
    first
    | (extract_lets -merge -useContext -underBinder +onlyGivenNames x; apply Kept.cut (x := x); rotate_left; intro hx; clear_value x; rotate_left; dsimp only [x]; clear x)
    | (extract_lets -merge -useContext -underBinder +onlyGivenNames x; subst x)
    | with_reducible assumption
    | with_reducible apply Kept.refl
    | with_reducible apply activationFailed_kept
    | with_reducible apply runSlot_kept
    | with_reducible apply stageDone_kept
    | with_reducible rfl
    | split
    | with_reducible apply Kept.set
    | (simp only [lengths]; done)

theorem runFwActivate_kept {z : State} {c : Cmd} {s : State} (kz : Kept z s) : Kept z (runFwActivate c s) := by
  unfold runFwActivate
  repeat'
    first
    | (extract_lets -merge -useContext -underBinder +onlyGivenNames x; subst x)
    | with_reducible assumption
    | with_reducible apply Kept.refl
    | with_reducible apply failCmd_kept
    | with_reducible apply recoveryBoot_kept
    | with_reducible apply modCmd_kept
    | with_reducible apply fwEvent_kept
    | with_reducible apply Kept.ite
    | intro _
    | with_reducible rfl
    | split
    | with_reducible apply Kept.set
    | (simp only [lengths]; done)

theorem execFwActivate_keptR {id : Nat} {s : State} : KeptR s (execFwActivate id s) := by
  unfold execFwActivate
  repeat'
    first
    | with_reducible assumption
    | with_reducible apply Kept.refl
    | with_reducible apply KeptR.unit
    | with_reducible apply KeptR.regWrite
    | with_reducible apply KeptR.ok
    | with_reducible apply KeptR.next
    | with_reducible apply KeptR.fault
    | with_reducible apply runReady_kept
    | with_reducible apply runFwActivate_kept
    | intro _

theorem execHandoverBootCheckDone_keptR {failed : Option Nat} {s : State} : KeptR s (execHandoverBootCheckDone failed s) := by
  unfold execHandoverBootCheckDone
  repeat'
    first
    | (extract_lets -merge -useContext -underBinder +onlyGivenNames x; subst x)
    | with_reducible assumption
    | with_reducible apply Kept.refl
    | with_reducible apply KeptR.unit
    | with_reducible apply KeptR.regWrite
    | with_reducible apply KeptR.ok
    | with_reducible apply KeptR.next
    | with_reducible apply KeptR.fault
    | with_reducible apply activationFailed_kept
    | with_reducible apply Kept.ite
    | intro _
    | with_reducible rfl
    | split
    | with_reducible apply Kept.set
    | (simp only [lengths]; done)

theorem execHandoverFirmwareReady_keptR {s : State} : KeptR s (execHandoverFirmwareReady s) := by
  unfold execHandoverFirmwareReady
  repeat'
    first
    | (extract_lets -merge -useContext -underBinder +onlyGivenNames x; subst x)
    | with_reducible assumption
    | with_reducible apply Kept.refl
    | with_reducible apply KeptR.unit
    | with_reducible apply KeptR.regWrite
    | with_reducible apply KeptR.ok
    | with_reducible apply KeptR.next
    | with_reducible apply KeptR.fault
    | with_reducible apply Kept.ite
    | intro _
    | with_reducible rfl
    | split
    | with_reducible apply Kept.set
    | (simp only [lengths]; done)

theorem takeCharge_kept {z : State} {id : Nat} {s : State} (kz : Kept z s) : Kept z (takeCharge id s) := by
  unfold takeCharge
  repeat'
    first
    | (extract_lets -merge -useContext -underBinder +onlyGivenNames x; apply Kept.cut (x := x); rotate_left; intro hx; clear_value x; rotate_left; dsimp only [x]; clear x)
    | (extract_lets -merge -useContext -underBinder +onlyGivenNames x; subst x)
    | with_reducible assumption
    | with_reducible apply Kept.refl
    | with_reducible apply runSlot_kept
    | with_reducible apply stageDone_kept
    | with_reducible apply fwEvent_kept
    | with_reducible rfl
    | split
    | with_reducible apply Kept.set
    | (simp only [lengths]; done)

theorem dropHandover_kept {z : State} {id : Nat} {s : State} (kz : Kept z s) : Kept z (dropHandover id s) := by
  unfold dropHandover
  repeat'
    first
    | (extract_lets -merge -useContext -underBinder +onlyGivenNames x; subst x)
    | with_reducible assumption
    | with_reducible apply Kept.refl
    | with_reducible apply Kept.ite
    | intro _
    | with_reducible rfl
    | split
    | with_reducible apply Kept.set
    | (simp only [lengths]; done)

end Sys2Proof.Laws
end

