-- ==== Sys2Proof/Laws/KeptSecurity.lean ====
section
/-! SUPPORT. Laws/KeptSecurity.lean: every operation of Machine/Security.lean keeps what `Kept` says. -/

set_option Elab.async false

namespace Sys2Proof.Laws
open Sys2Proof Sys2Proof.Machine

theorem zeroWeightRegions_kept {z : State} {s : State} (kz : Kept z s) : Kept z (zeroWeightRegions s) := by
  unfold zeroWeightRegions
  repeat'
    first
    | (extract_lets -merge -useContext -underBinder +onlyGivenNames x; apply Kept.cut (x := x); rotate_left; intro hx; clear_value x; rotate_left; dsimp only [x]; clear x)
    | (extract_lets -merge -useContext -underBinder +onlyGivenNames x; subst x)
    | with_reducible assumption
    | with_reducible apply Kept.refl
    | with_reducible apply Kept.foldl
    | with_reducible apply zeroDev_kept
    | with_reducible apply evictHot_kept
    | with_reducible apply zeroFretWeights_kept
    | with_reducible apply zeroBuffer_kept
    | with_reducible apply Kept.ite
    | intro _
    | with_reducible rfl
    | split
    | with_reducible apply Kept.set

theorem execDebugRequest_keptR {func : Nat} {value : Nat} {s : State} : KeptR s (execDebugRequest func value s) := by
  unfold execDebugRequest
  repeat'
    first
    | (extract_lets -merge -useContext -underBinder +onlyGivenNames x; subst x)
    | with_reducible assumption
    | with_reducible apply Kept.refl
    | with_reducible apply KeptR.unit
    | with_reducible apply KeptR.regWrite
    | with_reducible apply KeptR.ok
    | with_reducible apply KeptR.next
    | with_reducible apply KeptR.fault
    | with_reducible apply drawn_kept
    | with_reducible apply Kept.ite
    | intro _
    | with_reducible rfl
    | split
    | with_reducible apply Kept.set
    | (simp only [lengths]; done)

theorem execDebugSubmit_keptR {func : Nat} {s : State} : KeptR s (execDebugSubmit func s) := by
  unfold execDebugSubmit
  repeat'
    first
    | (extract_lets -merge -useContext -underBinder +onlyGivenNames x; subst x)
    | with_reducible assumption
    | with_reducible apply Kept.refl
    | with_reducible apply KeptR.unit
    | with_reducible apply KeptR.regWrite
    | with_reducible apply KeptR.ok
    | with_reducible apply KeptR.next
    | with_reducible apply KeptR.fault
    | with_reducible apply Kept.when
    | with_reducible rfl
    | split
    | with_reducible apply Kept.set
    | (simp only [lengths]; done)

theorem unlock_kept {z : State} {s : State} (kz : Kept z s) : Kept z (unlock s) := by
  unfold unlock
  repeat'
    first
    | (extract_lets -merge -useContext -underBinder +onlyGivenNames x; apply Kept.cut (x := x); rotate_left; intro hx; clear_value x; rotate_left; dsimp only [x]; clear x)
    | (extract_lets -merge -useContext -underBinder +onlyGivenNames x; subst x)
    | with_reducible assumption
    | with_reducible apply Kept.refl
    | with_reducible apply zeroWeightRegions_kept
    | with_reducible rfl
    | split
    | with_reducible apply Kept.set
    | (simp only [lengths]; done)

theorem execDebugCheckDone_keptR {s : State} : KeptR s (execDebugCheckDone s) := by
  unfold execDebugCheckDone
  repeat'
    first
    | (extract_lets -merge -useContext -underBinder +onlyGivenNames x; subst x)
    | with_reducible assumption
    | with_reducible apply Kept.refl
    | with_reducible apply KeptR.unit
    | with_reducible apply KeptR.regWrite
    | with_reducible apply KeptR.ok
    | with_reducible apply KeptR.next
    | with_reducible apply KeptR.fault
    | with_reducible apply unlock_kept
    | with_reducible apply Kept.ite
    | intro _
    | with_reducible rfl
    | split
    | with_reducible apply Kept.set
    | (simp only [lengths]; done)

theorem execDebugResponseTimeout_keptR {s : State} : KeptR s (execDebugResponseTimeout s) := by
  unfold execDebugResponseTimeout
  repeat'
    first
    | (extract_lets -merge -useContext -underBinder +onlyGivenNames x; subst x)
    | with_reducible assumption
    | with_reducible apply Kept.refl
    | with_reducible apply KeptR.unit
    | with_reducible apply KeptR.regWrite
    | with_reducible apply KeptR.ok
    | with_reducible apply KeptR.next
    | with_reducible apply KeptR.fault
    | with_reducible apply Kept.when
    | with_reducible rfl
    | split
    | with_reducible apply Kept.set
    | (simp only [lengths]; done)

theorem answer_kept {z : State} {func : Nat} {b : Bytes} {s : State} (kz : Kept z s) : Kept z (answer func b s) := by
  unfold answer
  repeat'
    first
    | with_reducible assumption
    | with_reducible apply Kept.refl
    | with_reducible apply modConf_kept

theorem execNegotiateAlgorithms_keptR {func : Nat} {s : State} : KeptR s (execNegotiateAlgorithms func s) := by
  unfold execNegotiateAlgorithms
  repeat'
    first
    | with_reducible assumption
    | with_reducible apply Kept.refl
    | with_reducible apply KeptR.unit
    | with_reducible apply KeptR.regWrite
    | with_reducible apply KeptR.ok
    | with_reducible apply KeptR.next
    | with_reducible apply KeptR.fault
    | with_reducible apply modConf_kept

theorem execGetCertificate_keptR {func : Nat} {slot : Nat} {s : State} : KeptR s (execGetCertificate func slot s) := by
  unfold execGetCertificate
  repeat'
    first
    | with_reducible assumption
    | with_reducible apply Kept.refl
    | with_reducible apply KeptR.unit
    | with_reducible apply KeptR.regWrite
    | with_reducible apply KeptR.ok
    | with_reducible apply KeptR.next
    | with_reducible apply KeptR.fault
    | with_reducible apply answer_kept

theorem execChallenge_keptR {func : Nat} {slot : Nat} {nonce : Bytes} {s : State} : KeptR s (execChallenge func slot nonce s) := by
  unfold execChallenge
  repeat'
    first
    | (extract_lets -merge -useContext -underBinder +onlyGivenNames x; subst x)
    | with_reducible assumption
    | with_reducible apply Kept.refl
    | with_reducible apply KeptR.unit
    | with_reducible apply KeptR.regWrite
    | with_reducible apply KeptR.ok
    | with_reducible apply KeptR.next
    | with_reducible apply KeptR.fault
    | with_reducible apply drawn_kept
    | with_reducible apply answer_kept
    | with_reducible apply Kept.ite
    | intro _

theorem execGetMeasurements_keptR {func : Nat} {index : Nat} {s : State} : KeptR s (execGetMeasurements func index s) := by
  unfold execGetMeasurements
  repeat'
    first
    | with_reducible assumption
    | with_reducible apply Kept.refl
    | with_reducible apply KeptR.unit
    | with_reducible apply KeptR.regWrite
    | with_reducible apply KeptR.ok
    | with_reducible apply KeptR.next
    | with_reducible apply KeptR.fault
    | with_reducible apply answer_kept

theorem execKeyExchange_keptR {func : Nat} {slot : Nat} {exchange : Bytes} {s : State} : KeptR s (execKeyExchange func slot exchange s) := by
  unfold execKeyExchange
  repeat'
    first
    | (extract_lets -merge -useContext -underBinder +onlyGivenNames x; subst x)
    | with_reducible assumption
    | with_reducible apply Kept.refl
    | with_reducible apply KeptR.unit
    | with_reducible apply KeptR.regWrite
    | with_reducible apply KeptR.ok
    | with_reducible apply KeptR.next
    | with_reducible apply KeptR.fault
    | with_reducible apply drawn_kept
    | with_reducible apply modConf_kept
    | with_reducible apply answer_kept
    | with_reducible apply Kept.ite
    | intro _

theorem execKeyUpdate_keptR {func : Nat} {session : Nat} {s : State} : KeptR s (execKeyUpdate func session s) := by
  unfold execKeyUpdate
  repeat'
    first
    | with_reducible assumption
    | with_reducible apply Kept.refl
    | with_reducible apply KeptR.unit
    | with_reducible apply KeptR.regWrite
    | with_reducible apply KeptR.ok
    | with_reducible apply KeptR.next
    | with_reducible apply KeptR.fault
    | with_reducible apply modConf_kept

theorem execHeartbeat_keptR {func : Nat} {session : Nat} {s : State} : KeptR s (execHeartbeat func session s) := by
  unfold execHeartbeat
  repeat'
    first
    | with_reducible assumption
    | with_reducible apply Kept.refl
    | with_reducible apply KeptR.unit
    | with_reducible apply KeptR.regWrite
    | with_reducible apply KeptR.ok
    | with_reducible apply KeptR.next
    | with_reducible apply KeptR.fault
    | with_reducible apply Kept.when
    | with_reducible apply answer_kept

theorem errorRings_kept {z : State} {f : Nat} {err : Nat} {s : State} (kz : Kept z s) : Kept z (errorRings f err s) := by
  unfold errorRings
  repeat'
    first
    | with_reducible assumption
    | with_reducible apply Kept.refl
    | with_reducible apply Kept.foldl
    | with_reducible apply modRing_kept
    | with_reducible apply Kept.ite
    | intro _

theorem killCommands_kept {z : State} {f : Nat} {s : State} (kz : Kept z s) : Kept z (killCommands f s) := by
  unfold killCommands
  repeat'
    first
    | with_reducible assumption
    | with_reducible apply Kept.refl
    | with_reducible apply Kept.foldl
    | with_reducible apply failCmd_kept
    | intro _

theorem closeSessions_kept {z : State} {f : Nat} {s : State} (kz : Kept z s) : Kept z (closeSessions f s) := by
  unfold closeSessions
  repeat'
    first
    | with_reducible assumption
    | with_reducible apply Kept.refl
    | with_reducible apply Kept.foldl
    | with_reducible apply closeSession_kept
    | intro _

theorem leaveConf_kept {z : State} {f : Nat} {s : State} (kz : Kept z s) : Kept z (leaveConf f s) := by
  unfold leaveConf
  repeat'
    first
    | (extract_lets -merge -useContext -underBinder +onlyGivenNames x; apply Kept.cut (x := x); rotate_left; intro hx; clear_value x; rotate_left; dsimp only [x]; clear x)
    | with_reducible assumption
    | with_reducible apply Kept.refl
    | with_reducible apply closeSessions_kept
    | with_reducible apply killCommands_kept
    | with_reducible apply errorRings_kept
    | with_reducible apply zeroDev_kept
    | with_reducible apply modConf_kept
    | with_reducible apply Kept.ite
    | intro _

theorem dropSession_kept {z : State} {func : Nat} {session : Nat} {s : State} (kz : Kept z s) : Kept z (dropSession func session s) := by
  unfold dropSession
  repeat'
    first
    | (extract_lets -merge -useContext -underBinder +onlyGivenNames x; apply Kept.cut (x := x); rotate_left; intro hx; clear_value x; rotate_left; dsimp only [x]; clear x)
    | (extract_lets -merge -useContext -underBinder +onlyGivenNames x; subst x)
    | with_reducible assumption
    | with_reducible apply Kept.refl
    | with_reducible apply leaveConf_kept
    | with_reducible apply modConf_kept
    | with_reducible apply Kept.ite
    | intro _

theorem execEndSession_keptR {func : Nat} {session : Nat} {s : State} : KeptR s (execEndSession func session s) := by
  unfold execEndSession
  repeat'
    first
    | with_reducible assumption
    | with_reducible apply Kept.refl
    | with_reducible apply KeptR.unit
    | with_reducible apply KeptR.regWrite
    | with_reducible apply KeptR.ok
    | with_reducible apply KeptR.next
    | with_reducible apply KeptR.fault
    | with_reducible apply Kept.when
    | with_reducible apply dispatch_kept
    | with_reducible apply settleStream_kept
    | with_reducible apply dropSession_kept

theorem execSessionLoss_keptR {func : Nat} {session : Nat} {s : State} : KeptR s (execSessionLoss func session s) := by
  unfold execSessionLoss
  repeat'
    first
    | with_reducible assumption
    | with_reducible apply Kept.refl
    | with_reducible apply KeptR.unit
    | with_reducible apply KeptR.regWrite
    | with_reducible apply KeptR.ok
    | with_reducible apply KeptR.next
    | with_reducible apply KeptR.fault
    | with_reducible apply Kept.when
    | with_reducible apply dispatch_kept
    | with_reducible apply settleStream_kept
    | with_reducible apply dropSession_kept

theorem clearSealCounts_kept {z : State} {f : Nat} {s : State} (kz : Kept z s) : Kept z (clearSealCounts f s) := by
  unfold clearSealCounts
  repeat'
    first
    | with_reducible assumption
    | with_reducible apply Kept.refl
    | with_reducible apply Kept.foldl
    | with_reducible apply modRing_kept
    | intro _

theorem execConfSet_keptR {func : Nat} {session : Nat} {request : ConfRequest} {s : State} : KeptR s (execConfSet func session request s) := by
  unfold execConfSet
  repeat'
    first
    | with_reducible assumption
    | with_reducible apply Kept.refl
    | with_reducible apply KeptR.unit
    | with_reducible apply KeptR.regWrite
    | with_reducible apply KeptR.ok
    | with_reducible apply KeptR.next
    | with_reducible apply KeptR.fault
    | with_reducible apply answer_kept
    | with_reducible apply modConf_kept
    | with_reducible apply clearSealCounts_kept
    | with_reducible apply Kept.ite
    | intro _
    | with_reducible rfl
    | split

theorem execConfExit_keptR {func : Nat} {session : Nat} {s : State} : KeptR s (execConfExit func session s) := by
  unfold execConfExit
  repeat'
    first
    | with_reducible assumption
    | with_reducible apply Kept.refl
    | with_reducible apply KeptR.unit
    | with_reducible apply KeptR.regWrite
    | with_reducible apply KeptR.ok
    | with_reducible apply KeptR.next
    | with_reducible apply KeptR.fault
    | with_reducible apply answer_kept
    | with_reducible apply dispatch_kept
    | with_reducible apply settleStream_kept
    | with_reducible apply leaveConf_kept
    | with_reducible apply Kept.ite
    | intro _

end Sys2Proof.Laws
end

