-- ==== Sys2Proof/Laws/KeptGcore.lean ====
section
/-! SUPPORT. Laws/KeptGcore.lean: every operation of Machine/Gcore.lean keeps what `Kept` says. -/

set_option Elab.async false

namespace Sys2Proof.Laws
open Sys2Proof Sys2Proof.Machine

theorem runGcoreRun_kept {z : State} {c : Cmd} {s : State} (kz : Kept z s) : Kept z (runGcoreRun c s) := by
  unfold runGcoreRun
  repeat'
    first
    | (extract_lets -merge -useContext -underBinder +onlyGivenNames x; apply Kept.cut (x := x); rotate_left; intro hx; clear_value x; rotate_left; dsimp only [x]; clear x)
    | (extract_lets -merge -useContext -underBinder +onlyGivenNames x; subst x)
    | with_reducible assumption
    | with_reducible apply Kept.refl
    | with_reducible apply failCmd_kept
    | with_reducible apply settleDispatch_kept
    | with_reducible apply startWork_kept
    | with_reducible apply modCmd_kept
    | with_reducible apply Kept.ite
    | intro _
    | with_reducible rfl
    | split
    | with_reducible apply Kept.set
    | (simp only [lengths, modAt_length, setAt_length, List.length_map, List.length_mapIdx]; done)

theorem execGcoreRun_keptR {id : Nat} {s : State} : KeptR s (execGcoreRun id s) := by
  unfold execGcoreRun
  repeat'
    first
    | with_reducible assumption
    | with_reducible apply Kept.refl
    | with_reducible apply KeptR.unit
    | with_reducible apply KeptR.regWrite
    | with_reducible apply KeptR.ok
    | with_reducible apply KeptR.next
    | with_reducible apply KeptR.fault
    | with_reducible apply runReady_kept
    | with_reducible apply runGcoreRun_kept
    | intro _

theorem modThread_kept {z : State} {t : ThreadId} {f : GThread → GThread} {s : State} (kz : Kept z s) : Kept z (modThread t f s) := by
  unfold modThread
  repeat'
    first
    | (extract_lets -merge -useContext -underBinder +onlyGivenNames x; subst x)
    | with_reducible assumption
    | with_reducible apply Kept.refl
    | with_reducible apply Kept.ite
    | intro _
    | with_reducible rfl
    | split
    | with_reducible apply Kept.set

theorem setReg_kept {z : State} {t : ThreadId} {r : Nat} {v : Nat} {s : State} (kz : Kept z s) : Kept z (setReg t r v s) := by
  unfold setReg
  repeat'
    first
    | with_reducible assumption
    | with_reducible apply Kept.refl
    | with_reducible apply modThread_kept
    | with_reducible apply Kept.ite
    | intro _

theorem passTurn_kept {z : State} {t : ThreadId} {s : State} (kz : Kept z s) : Kept z (passTurn t s) := by
  unfold passTurn
  repeat'
    first
    | (extract_lets -merge -useContext -underBinder +onlyGivenNames x; subst x)
    | with_reducible assumption
    | with_reducible apply Kept.refl
    | with_reducible rfl
    | split
    | with_reducible apply Kept.set

theorem programWrite_keptE {z : State} {s : State} {c : Cmd} {g : GThread} {work : Bool} {addr : Nat} {bs : Bytes} {t_ : State} (kz : Kept z s) (e_ : programWrite s c g work addr bs = .ok t_) : Kept z t_ := by
  unfold programWrite at e_
  try dsimp only at e_
  repeat' split at e_
  all_goals first
    | (cases e_; done)
    | (cases e_
       repeat'
         first
         | (extract_lets -merge -useContext -underBinder +onlyGivenNames x; apply Kept.cut (x := x); rotate_left; intro hx; clear_value x; rotate_left; dsimp only [x]; clear x)
         | (extract_lets -merge -useContext -underBinder +onlyGivenNames x; subst x)
         | with_reducible assumption
         | with_reducible apply Kept.refl
         | with_reducible apply writeBytes_kept
         | with_reducible apply Kept.ite
         | intro _
         | with_reducible rfl
         | split
         | with_reducible apply Kept.set
         | (simp only [lengths, modAt_length, setAt_length, List.length_map, List.length_mapIdx]; done))

theorem programFails_kept {z : State} {id : Nat} {e : Fail} {s : State} (kz : Kept z s) : Kept z (programFails id e s) := by
  unfold programFails
  repeat'
    first
    | with_reducible assumption
    | with_reducible apply Kept.refl
    | with_reducible apply settleDispatch_kept
    | with_reducible apply failCmd_kept
    | with_reducible apply Kept.ite
    | intro _
    | with_reducible rfl
    | split
    | with_reducible apply Kept.set
    | (simp only [lengths, modAt_length, setAt_length, List.length_map, List.length_mapIdx]; done)

theorem queueDma_kept {z : State} {t : ThreadId} {rd : Nat} {addr : Nat} {s : State} (kz : Kept z s) : Kept z (queueDma t rd addr s) := by
  unfold queueDma
  repeat'
    first
    | (extract_lets -merge -useContext -underBinder +onlyGivenNames x; subst x)
    | with_reducible assumption
    | with_reducible apply Kept.refl
    | with_reducible apply setReg_kept
    | with_reducible apply Kept.ite
    | intro _
    | with_reducible rfl
    | split
    | with_reducible apply Kept.set

theorem zhDmaq_kept {z : State} {t : ThreadId} {g : GThread} {c : Cmd} {rd : Nat} {rs1 : Nat} {s : State} (kz : Kept z s) : Kept z (zhDmaq t g c rd rs1 s) := by
  unfold zhDmaq
  repeat'
    first
    | (extract_lets -merge -useContext -underBinder +onlyGivenNames x; apply Kept.cut (x := x); rotate_left; intro hx; clear_value x; rotate_left; dsimp only [x]; clear x)
    | (extract_lets -merge -useContext -underBinder +onlyGivenNames x; subst x)
    | with_reducible assumption
    | with_reducible apply Kept.refl
    | with_reducible apply programFails_kept
    | with_reducible apply queueDma_kept
    | with_reducible apply modThread_kept
    | with_reducible apply Kept.ite
    | intro _
    | with_reducible rfl
    | split
    | with_reducible apply Kept.set
    | (simp only [lengths, modAt_length, setAt_length, List.length_map, List.length_mapIdx]; done)

theorem takeTicket_kept {z : State} {t : ThreadId} {rd : Nat} {n : Nat} {status : Nat} {s : State} (kz : Kept z s) : Kept z (takeTicket t rd n status s) := by
  unfold takeTicket
  repeat'
    first
    | (extract_lets -merge -useContext -underBinder +onlyGivenNames x; subst x)
    | with_reducible assumption
    | with_reducible apply Kept.refl
    | with_reducible apply setReg_kept
    | with_reducible rfl
    | split
    | with_reducible apply Kept.set

theorem zhDmaw_kept {z : State} {t : ThreadId} {g : GThread} {rd : Nat} {rs1 : Nat} {s : State} (kz : Kept z s) : Kept z (zhDmaw t g rd rs1 s) := by
  unfold zhDmaw
  repeat'
    first
    | (extract_lets -merge -useContext -underBinder +onlyGivenNames x; apply Kept.cut (x := x); rotate_left; intro hx; clear_value x; rotate_left; dsimp only [x]; clear x)
    | (extract_lets -merge -useContext -underBinder +onlyGivenNames x; subst x)
    | with_reducible assumption
    | with_reducible apply Kept.refl
    | with_reducible apply drawn_kept
    | with_reducible apply setReg_kept
    | with_reducible apply takeTicket_kept
    | with_reducible apply modThread_kept
    | with_reducible apply Kept.ite
    | intro _
    | with_reducible rfl
    | split
    | with_reducible apply Kept.set
    | (simp only [lengths, modAt_length, setAt_length, List.length_map, List.length_mapIdx]; done)

theorem zhInfo_kept {z : State} {t : ThreadId} {g : GThread} {rd : Nat} {rs1 : Nat} {s : State} (kz : Kept z s) : Kept z (zhInfo t g rd rs1 s) := by
  unfold zhInfo
  repeat'
    first
    | with_reducible assumption
    | with_reducible apply Kept.refl
    | with_reducible apply setReg_kept
    | with_reducible apply drawn_kept
    | with_reducible apply Kept.ite
    | intro _
    | with_reducible rfl
    | split
    | with_reducible apply Kept.set
    | (simp only [lengths, modAt_length, setAt_length, List.length_map, List.length_mapIdx]; done)

theorem programEnds_kept {z : State} {c : Cmd} {s : State} (kz : Kept z s) : Kept z (programEnds c s) := by
  unfold programEnds
  repeat'
    first
    | (extract_lets -merge -useContext -underBinder +onlyGivenNames x; apply Kept.cut (x := x); rotate_left; intro hx; clear_value x; rotate_left; dsimp only [x]; clear x)
    | (extract_lets -merge -useContext -underBinder +onlyGivenNames x; subst x)
    | with_reducible assumption
    | with_reducible apply Kept.refl
    | with_reducible apply programFails_kept
    | with_reducible apply modCmd_kept
    | with_reducible apply drawn_kept
    | with_reducible apply Kept.ite
    | intro _
    | with_reducible rfl
    | split
    | with_reducible apply Kept.set
    | (simp only [lengths, modAt_length, setAt_length, List.length_map, List.length_mapIdx]; done)

theorem zhExit_kept {z : State} {t : ThreadId} {g : GThread} {c : Cmd} {rs1 : Nat} {s : State} (kz : Kept z s) : Kept z (zhExit t g c rs1 s) := by
  unfold zhExit
  repeat'
    first
    | with_reducible assumption
    | with_reducible apply Kept.refl
    | with_reducible apply programFails_kept
    | with_reducible apply programEnds_kept
    | with_reducible apply modThread_kept
    | with_reducible apply Kept.ite
    | intro _
    | with_reducible rfl
    | split
    | with_reducible apply Kept.set
    | (simp only [lengths, modAt_length, setAt_length, List.length_map, List.length_mapIdx]; done)

theorem customOp_kept {z : State} {c : Cmd} {g : GThread} {word : Nat} {s : State} (kz : Kept z s) : Kept z (customOp c g word s) := by
  unfold customOp
  repeat'
    first
    | (extract_lets -merge -useContext -underBinder +onlyGivenNames x; apply Kept.cut (x := x); rotate_left; intro hx; clear_value x; rotate_left; dsimp only [x]; clear x)
    | (extract_lets -merge -useContext -underBinder +onlyGivenNames x; subst x)
    | with_reducible assumption
    | with_reducible apply Kept.refl
    | with_reducible apply programFails_kept
    | with_reducible apply zhDmaq_kept
    | with_reducible apply zhDmaw_kept
    | with_reducible apply zhInfo_kept
    | with_reducible apply zhExit_kept
    | with_reducible apply Kept.ite
    | intro _
    | with_reducible rfl
    | split
    | with_reducible apply Kept.set
    | (simp only [lengths, modAt_length, setAt_length, List.length_map, List.length_mapIdx]; done)

theorem goOn_kept {z : State} {t : ThreadId} {next : Nat} {s : State} (kz : Kept z s) : Kept z (goOn t next s) := by
  unfold goOn
  repeat'
    first
    | with_reducible assumption
    | with_reducible apply Kept.refl
    | with_reducible apply modThread_kept
    | with_reducible apply Kept.ite
    | intro _
    | with_reducible rfl
    | split
    | with_reducible apply Kept.set
    | (simp only [lengths, modAt_length, setAt_length, List.length_map, List.length_mapIdx]; done)

theorem issueOp_kept {z : State} {c : Cmd} {g : GThread} {op : GOp} {s : State} (kz : Kept z s) : Kept z (issueOp c g op s) := by
  unfold issueOp
  repeat'
    first
    | with_reducible assumption
    | with_reducible apply Kept.refl
    | with_reducible apply programFails_kept
    | with_reducible apply setReg_kept
    | (with_reducible apply programWrite_keptE; rotate_left; assumption)
    | with_reducible apply customOp_kept
    | with_reducible apply Kept.ite
    | intro _
    | with_reducible rfl
    | split
    | with_reducible apply Kept.set
    | (simp only [lengths, modAt_length, setAt_length, List.length_map, List.length_mapIdx]; done)

theorem issueFrom_kept {z s : State} {fret core : Nat} {next : Option Nat} {op : GThread → Cmd → State → State} (kz : Kept z s)
    (k : ∀ g c s, Kept s (op g c s)) : Kept z (issueFrom s fret core next op) := by
  unfold issueFrom
  split
  · exact kz
  · split
    · exact kz
    · exact (goOn_kept (passTurn_kept kz)).trans (k _ _ _)

theorem execGcoreInstruction_keptR {fret : Nat} {core : Nat} {issue : Issue} {s : State} : KeptR s (execGcoreInstruction fret core issue s) := by
  unfold execGcoreInstruction
  repeat'
    first
    | with_reducible assumption
    | with_reducible apply Kept.refl
    | with_reducible apply KeptR.unit
    | with_reducible apply KeptR.regWrite
    | with_reducible apply KeptR.ok
    | with_reducible apply KeptR.next
    | with_reducible apply KeptR.fault
    | with_reducible apply KeptR.refused
    | with_reducible apply issueFrom_kept
    | with_reducible apply issueOp_kept
    | with_reducible apply Kept.ite
    | intro _
    | with_reducible rfl
    | split
    | with_reducible apply Kept.set
    | (simp only [lengths, modAt_length, setAt_length, List.length_map, List.length_mapIdx]; done)

theorem issueZh_kept {z s : State} {t : ThreadId} {op : GThread → Cmd → State → State} (kz : Kept z s)
    (k : ∀ g c s, Kept s (op g c s)) : Kept z (issueZh s t op) := by
  unfold issueZh
  split
  · exact issueFrom_kept kz k
  · exact kz

theorem execZhDmaq_keptR {t : ThreadId} {rd : Nat} {rs1 : Nat} {s : State} : KeptR s (execZhDmaq t rd rs1 s) := by
  unfold execZhDmaq
  repeat'
    first
    | with_reducible assumption
    | with_reducible apply Kept.refl
    | with_reducible apply KeptR.unit
    | with_reducible apply KeptR.regWrite
    | with_reducible apply KeptR.ok
    | with_reducible apply KeptR.next
    | with_reducible apply KeptR.fault
    | with_reducible apply KeptR.refused
    | with_reducible apply issueZh_kept
    | with_reducible apply zhDmaq_kept
    | with_reducible apply Kept.ite
    | intro _
    | with_reducible rfl
    | split
    | with_reducible apply Kept.set
    | (simp only [lengths, modAt_length, setAt_length, List.length_map, List.length_mapIdx]; done)

theorem execZhDmaw_keptR {t : ThreadId} {rd : Nat} {rs1 : Nat} {s : State} : KeptR s (execZhDmaw t rd rs1 s) := by
  unfold execZhDmaw
  repeat'
    first
    | with_reducible assumption
    | with_reducible apply Kept.refl
    | with_reducible apply KeptR.unit
    | with_reducible apply KeptR.regWrite
    | with_reducible apply KeptR.ok
    | with_reducible apply KeptR.next
    | with_reducible apply KeptR.fault
    | with_reducible apply KeptR.refused
    | with_reducible apply issueZh_kept
    | with_reducible apply zhDmaw_kept
    | with_reducible apply Kept.ite
    | intro _
    | with_reducible rfl
    | split
    | with_reducible apply Kept.set
    | (simp only [lengths, modAt_length, setAt_length, List.length_map, List.length_mapIdx]; done)

theorem execZhInfo_keptR {t : ThreadId} {rd : Nat} {rs1 : Nat} {s : State} : KeptR s (execZhInfo t rd rs1 s) := by
  unfold execZhInfo
  repeat'
    first
    | with_reducible assumption
    | with_reducible apply Kept.refl
    | with_reducible apply KeptR.unit
    | with_reducible apply KeptR.regWrite
    | with_reducible apply KeptR.ok
    | with_reducible apply KeptR.next
    | with_reducible apply KeptR.fault
    | with_reducible apply KeptR.refused
    | with_reducible apply issueZh_kept
    | with_reducible apply zhInfo_kept
    | with_reducible apply Kept.ite
    | intro _
    | with_reducible rfl
    | split
    | with_reducible apply Kept.set
    | (simp only [lengths, modAt_length, setAt_length, List.length_map, List.length_mapIdx]; done)

theorem execZhExit_keptR {t : ThreadId} {rs1 : Nat} {s : State} : KeptR s (execZhExit t rs1 s) := by
  unfold execZhExit
  repeat'
    first
    | with_reducible assumption
    | with_reducible apply Kept.refl
    | with_reducible apply KeptR.unit
    | with_reducible apply KeptR.regWrite
    | with_reducible apply KeptR.ok
    | with_reducible apply KeptR.next
    | with_reducible apply KeptR.fault
    | with_reducible apply KeptR.refused
    | with_reducible apply issueZh_kept
    | with_reducible apply zhExit_kept
    | with_reducible apply Kept.ite
    | intro _
    | with_reducible rfl
    | split
    | with_reducible apply Kept.set
    | (simp only [lengths, modAt_length, setAt_length, List.length_map, List.length_mapIdx]; done)

theorem unstall_kept {z : State} {t : ThreadId} {s : State} (kz : Kept z s) : Kept z (unstall t s) := by
  unfold unstall
  repeat'
    first
    | with_reducible assumption
    | with_reducible apply Kept.refl
    | with_reducible apply queueDma_kept
    | with_reducible apply modThread_kept
    | with_reducible apply Kept.ite
    | intro _
    | with_reducible rfl
    | split

theorem endTicket_kept {z : State} {k : Ticket} {status : Nat} {s : State} (kz : Kept z s) : Kept z (endTicket k status s) := by
  unfold endTicket
  repeat'
    first
    | (extract_lets -merge -useContext -underBinder +onlyGivenNames x; apply Kept.cut (x := x); rotate_left; intro hx; clear_value x; rotate_left; dsimp only [x]; clear x)
    | (extract_lets -merge -useContext -underBinder +onlyGivenNames x; subst x)
    | with_reducible assumption
    | with_reducible apply Kept.refl
    | with_reducible apply takeTicket_kept
    | with_reducible apply modThread_kept
    | with_reducible apply unstall_kept
    | with_reducible apply Kept.ite
    | intro _
    | with_reducible rfl
    | split
    | with_reducible apply Kept.set

theorem transfer_kept {z : State} {c : Cmd} {g : GThread} {k : Ticket} {s : State} (kz : Kept z s) : Kept z (transfer c g k s) := by
  unfold transfer
  repeat'
    first
    | with_reducible assumption
    | with_reducible apply Kept.refl
    | with_reducible apply programFails_kept
    | with_reducible apply endTicket_kept
    | (with_reducible apply programWrite_keptE; rotate_left; assumption)
    | with_reducible apply Kept.ite
    | intro _
    | with_reducible rfl
    | split

theorem execFretDmaDone_keptR {fret : Nat} {ticket : Nat} {s : State} : KeptR s (execFretDmaDone fret ticket s) := by
  unfold execFretDmaDone
  repeat'
    first
    | with_reducible assumption
    | with_reducible apply Kept.refl
    | with_reducible apply KeptR.unit
    | with_reducible apply KeptR.regWrite
    | with_reducible apply KeptR.ok
    | with_reducible apply KeptR.next
    | with_reducible apply KeptR.fault
    | with_reducible apply transfer_kept
    | with_reducible rfl
    | split

theorem execGcoreBudgetExpiry_keptR {id : Nat} {s : State} : KeptR s (execGcoreBudgetExpiry id s) := by
  unfold execGcoreBudgetExpiry
  repeat'
    first
    | with_reducible assumption
    | with_reducible apply Kept.refl
    | with_reducible apply KeptR.unit
    | with_reducible apply KeptR.regWrite
    | with_reducible apply KeptR.ok
    | with_reducible apply KeptR.next
    | with_reducible apply KeptR.fault
    | with_reducible apply programFails_kept
    | with_reducible apply Kept.ite
    | intro _
    | with_reducible rfl
    | split

end Sys2Proof.Laws
end

