-- ==== Sys2Proof/Laws/KeptHints.lean ====
section
/-! SUPPORT. Laws/KeptHints.lean: every operation of Machine/Hints.lean keeps what `Kept` says. -/

set_option Elab.async false

namespace Sys2Proof.Laws
open Sys2Proof Sys2Proof.Machine

theorem setHintStage_kept {z : State} {h : Nat} {g : HintStage} {s : State} (kz : Kept z s) : Kept z (setHintStage h g s) := by
  unfold setHintStage
  repeat'
    first
    | (extract_lets -merge -useContext -underBinder +onlyGivenNames x; subst x)
    | with_reducible assumption
    | with_reducible apply Kept.refl
    | with_reducible apply Kept.ite
    | intro _
    | with_reducible rfl
    | split
    | with_reducible apply Kept.set

theorem settleHints_kept {z : State} {s : State} (kz : Kept z s) : Kept z (settleHints s) := by
  unfold settleHints
  repeat'
    first
    | (extract_lets -merge -useContext -underBinder +onlyGivenNames x; subst x)
    | with_reducible assumption
    | with_reducible apply Kept.refl
    | with_reducible rfl
    | split
    | with_reducible apply Kept.set
    | (simp only [lengths, List.length_mapIdx]; done)

theorem runPowerHint_kept {z : State} {c : Cmd} {s : State} (kz : Kept z s) : Kept z (runPowerHint c s) := by
  unfold runPowerHint
  repeat'
    first
    | with_reducible assumption
    | with_reducible apply Kept.refl
    | with_reducible apply stageDone_kept

theorem execPowerHint_keptR {id : Nat} {s : State} : KeptR s (execPowerHint id s) := by
  unfold execPowerHint
  repeat'
    first
    | with_reducible assumption
    | with_reducible apply Kept.refl
    | with_reducible apply KeptR.unit
    | with_reducible apply KeptR.regWrite
    | with_reducible apply KeptR.ok
    | with_reducible apply KeptR.next
    | with_reducible apply KeptR.fault
    | with_reducible apply runReady_kept
    | with_reducible apply runPowerHint_kept
    | intro _

theorem commitPowerHint_kept {z : State} {c : Cmd} {s : State} (kz : Kept z s) : Kept z (commitPowerHint c s) := by
  unfold commitPowerHint
  repeat'
    first
    | (extract_lets -merge -useContext -underBinder +onlyGivenNames x; subst x)
    | with_reducible assumption
    | with_reducible apply Kept.refl
    | with_reducible apply modCmd_kept
    | with_reducible apply Kept.ite
    | intro _
    | with_reducible rfl
    | split
    | with_reducible apply Kept.set

theorem execPowerHintPrepare_keptR {hint : Nat} {s : State} : KeptR s (execPowerHintPrepare hint s) := by
  unfold execPowerHintPrepare
  repeat'
    first
    | with_reducible assumption
    | with_reducible apply Kept.refl
    | with_reducible apply KeptR.unit
    | with_reducible apply KeptR.regWrite
    | with_reducible apply KeptR.ok
    | with_reducible apply KeptR.next
    | with_reducible apply KeptR.fault
    | with_reducible apply settleHints_kept
    | with_reducible apply setHintStage_kept
    | with_reducible apply Kept.ite
    | intro _
    | with_reducible rfl
    | split

theorem execPowerHintPhaseStart_keptR {hint : Nat} {s : State} : KeptR s (execPowerHintPhaseStart hint s) := by
  unfold execPowerHintPhaseStart
  repeat'
    first
    | with_reducible assumption
    | with_reducible apply Kept.refl
    | with_reducible apply KeptR.unit
    | with_reducible apply KeptR.regWrite
    | with_reducible apply KeptR.ok
    | with_reducible apply KeptR.next
    | with_reducible apply KeptR.fault
    | with_reducible apply settleHints_kept
    | with_reducible apply setHintStage_kept
    | with_reducible rfl
    | split

theorem execPowerHintRestore_keptR {hint : Nat} {s : State} : KeptR s (execPowerHintRestore hint s) := by
  unfold execPowerHintRestore
  repeat'
    first
    | (extract_lets -merge -useContext -underBinder +onlyGivenNames x; subst x)
    | with_reducible assumption
    | with_reducible apply Kept.refl
    | with_reducible apply KeptR.unit
    | with_reducible apply KeptR.regWrite
    | with_reducible apply KeptR.ok
    | with_reducible apply KeptR.next
    | with_reducible apply KeptR.fault
    | with_reducible apply settleHints_kept
    | with_reducible rfl
    | split
    | with_reducible apply Kept.set

end Sys2Proof.Laws
end

