-- ==== Sys2Proof/Laws/KeptSequencer.lean ====
section
/-! SUPPORT. Laws/KeptSequencer.lean: every operation of Machine/Sequencer.lean keeps what `Kept` says. -/

set_option Elab.async false

namespace Sys2Proof.Laws
open Sys2Proof Sys2Proof.Machine

theorem writeRecord_kept {z : State} {f : Nat} {base : Nat} {index : Nat} {phase : Bool} {rec : Bytes} {s : State} (kz : Kept z s) : Kept z (writeRecord f base index phase rec s) := by
  unfold writeRecord
  repeat'
    first
    | with_reducible assumption
    | with_reducible apply Kept.refl
    | with_reducible apply writeBytes_kept

theorem releaseHalf_kept {z : State} {h : Nat} {s : State} (kz : Kept z s) : Kept z (releaseHalf h s) := by
  unfold releaseHalf
  repeat'
    first
    | (extract_lets -merge -useContext -underBinder +onlyGivenNames x; subst x)
    | with_reducible assumption
    | with_reducible apply Kept.refl
    | with_reducible rfl
    | split
    | with_reducible apply Kept.set
    | (simp only [lengths]; done)

theorem dropFrames_kept {z : State} {s : State} (kz : Kept z s) : Kept z (dropFrames s) := by
  unfold dropFrames
  repeat'
    first
    | (extract_lets -merge -useContext -underBinder +onlyGivenNames x; subst x)
    | with_reducible assumption
    | with_reducible apply Kept.refl
    | with_reducible rfl
    | split
    | with_reducible apply Kept.set
    | (simp only [lengths]; done)

theorem recordedHalf_kept {z : State} {h : Nat} {s : State} (kz : Kept z s) : Kept z (recordedHalf h s) := by
  unfold recordedHalf
  repeat'
    first
    | with_reducible assumption
    | with_reducible apply Kept.refl
    | with_reducible apply releaseHalf_kept
    | with_reducible apply Kept.ite
    | intro _

theorem putVerdict_kept {z : State} {rec : Bytes} {s : State} (kz : Kept z s) : Kept z (putVerdict rec s) := by
  unfold putVerdict
  repeat'
    first
    | (extract_lets -merge -useContext -underBinder +onlyGivenNames x; apply Kept.cut (x := x); rotate_left; intro hx; clear_value x; rotate_left; dsimp only [x]; clear x)
    | (extract_lets -merge -useContext -underBinder +onlyGivenNames x; subst x)
    | with_reducible assumption
    | with_reducible apply Kept.refl
    | with_reducible apply writeRecord_kept
    | with_reducible apply raiseVector_kept
    | with_reducible apply Kept.ite
    | intro _
    | with_reducible rfl
    | split
    | with_reducible apply Kept.set
    | (simp only [lengths]; done)

theorem countVerdict_kept {z : State} {f : SafFrame} {reasons : Nat} {s : State} (kz : Kept z s) : Kept z (countVerdict f reasons s) := by
  unfold countVerdict
  repeat'
    first
    | (extract_lets -merge -useContext -underBinder +onlyGivenNames x; subst x)
    | with_reducible assumption
    | with_reducible apply Kept.refl
    | with_reducible apply Kept.ite
    | intro _
    | with_reducible rfl
    | split
    | with_reducible apply Kept.set
    | (simp only [lengths]; done)

theorem heartbeatEdge_kept {z s : State} (kz : Kept z s) : Kept z (heartbeatEdge s) := by
  unfold heartbeatEdge
  refine Kept.ite (fun _ => kz) (fun r => kz.trans ?_)
  exact ⟨rfl, rfl, rfl, rfl, id, fun _ k => absurd k r, Nat.le_refl _, .inl rfl, shaped_of_lengths rfl⟩

theorem publish_kept {z : State} {f : SafFrame} {present : Bool} {s : State} (kz : Kept z s) : Kept z (publish f present s) := by
  unfold publish
  repeat'
    first
    | (extract_lets -merge -useContext -underBinder +onlyGivenNames x; apply Kept.cut (x := x); rotate_left; intro hx; clear_value x; rotate_left; dsimp only [x]; clear x)
    | (extract_lets -merge -useContext -underBinder +onlyGivenNames x; subst x)
    | with_reducible assumption
    | with_reducible apply Kept.refl
    | with_reducible apply countVerdict_kept
    | with_reducible apply heartbeatEdge_kept
    | with_reducible apply latch_kept
    | with_reducible apply putVerdict_kept
    | with_reducible apply Kept.ite
    | intro _
    | with_reducible rfl
    | split
    | with_reducible apply Kept.set

theorem pruneFrames_kept {z : State} {s : State} (kz : Kept z s) : Kept z (pruneFrames s) := by
  unfold pruneFrames
  repeat'
    first
    | (extract_lets -merge -useContext -underBinder +onlyGivenNames x; subst x)
    | with_reducible assumption
    | with_reducible apply Kept.refl
    | with_reducible rfl
    | split
    | with_reducible apply Kept.set

theorem modFrameAt_kept {z : State} {i : Nat} {g : SafFrame → SafFrame} {s : State} (kz : Kept z s) : Kept z (modFrameAt i g s) := by
  unfold modFrameAt
  repeat'
    first
    | (extract_lets -merge -useContext -underBinder +onlyGivenNames x; subst x)
    | with_reducible assumption
    | with_reducible apply Kept.refl
    | with_reducible rfl
    | split
    | with_reducible apply Kept.set

theorem decideFrame_kept {z : State} {i : Nat} {s : State} (kz : Kept z s) : Kept z (decideFrame i s) := by
  unfold decideFrame
  repeat'
    first
    | with_reducible assumption
    | with_reducible apply Kept.refl
    | with_reducible apply pruneFrames_kept
    | with_reducible apply publish_kept
    | with_reducible apply releaseHalf_kept
    | with_reducible apply modFrameAt_kept
    | with_reducible rfl
    | split

theorem seqFrameStart_kept {z : State} {no : Nat} {half : Nat} {s : State} (kz : Kept z s) : Kept z (seqFrameStart no half s) := by
  unfold seqFrameStart
  repeat'
    first
    | (extract_lets -merge -useContext -underBinder +onlyGivenNames x; apply Kept.cut (x := x); rotate_left; intro hx; clear_value x; rotate_left; dsimp only [x]; clear x)
    | (extract_lets -merge -useContext -underBinder +onlyGivenNames x; subst x)
    | with_reducible assumption
    | with_reducible apply Kept.refl
    | with_reducible apply dispatch_kept
    | with_reducible apply Kept.ite
    | intro _
    | with_reducible rfl
    | split
    | with_reducible apply Kept.set
    | (simp only [lengths, modAt_length, setAt_length, List.length_map, List.length_mapIdx]; done)

theorem seqFrameEnd_kept {z : State} {inputBad : Bool} {s : State} (kz : Kept z s) : Kept z (seqFrameEnd inputBad s) := by
  unfold seqFrameEnd
  repeat'
    first
    | (extract_lets -merge -useContext -underBinder +onlyGivenNames x; apply Kept.cut (x := x); rotate_left; intro hx; clear_value x; rotate_left; dsimp only [x]; clear x)
    | (extract_lets -merge -useContext -underBinder +onlyGivenNames x; subst x)
    | with_reducible assumption
    | with_reducible apply Kept.refl
    | with_reducible apply modFrameAt_kept
    | with_reducible rfl
    | split
    | with_reducible apply Kept.set

theorem seqDropped_kept {z : State} {no : Nat} {s : State} (kz : Kept z s) : Kept z (seqDropped no s) := by
  unfold seqDropped
  repeat'
    first
    | (extract_lets -merge -useContext -underBinder +onlyGivenNames x; apply Kept.cut (x := x); rotate_left; intro hx; clear_value x; rotate_left; dsimp only [x]; clear x)
    | (extract_lets -merge -useContext -underBinder +onlyGivenNames x; subst x)
    | with_reducible assumption
    | with_reducible apply Kept.refl
    | with_reducible apply publish_kept
    | with_reducible apply Kept.ite
    | intro _
    | with_reducible rfl
    | split
    | with_reducible apply Kept.set

theorem seqOutputs_kept {z : State} {half : Nat} {s : State} (kz : Kept z s) : Kept z (seqOutputs half s) := by
  unfold seqOutputs
  repeat'
    first
    | (extract_lets -merge -useContext -underBinder +onlyGivenNames x; apply Kept.cut (x := x); rotate_left; intro hx; clear_value x; rotate_left; dsimp only [x]; clear x)
    | (extract_lets -merge -useContext -underBinder +onlyGivenNames x; subst x)
    | with_reducible assumption
    | with_reducible apply Kept.refl
    | with_reducible apply dispatch_kept
    | with_reducible apply modFrameAt_kept
    | with_reducible apply Kept.ite
    | intro _
    | with_reducible rfl
    | split
    | with_reducible apply Kept.set
    | (simp only [lengths, modAt_length, setAt_length, List.length_map, List.length_mapIdx]; done)

theorem stopStream_kept {z s : State} (kz : Kept z s) : Kept z (stopStream s) := by
  unfold stopStream
  refine dropFrames_kept (kz.trans ?_)
  exact ⟨rfl, rfl, rfl, rfl, id, fun _ _ => ⟨rfl, rfl⟩, Nat.le_refl _, .inl rfl, shaped_of_lengths rfl⟩

theorem safetyRunKilled_kept {z : State} {id : Nat} {s : State} (kz : Kept z s) : Kept z (safetyRunKilled id s) := by
  unfold safetyRunKilled
  repeat'
    first
    | with_reducible assumption
    | with_reducible apply Kept.refl
    | with_reducible apply stopStream_kept
    | with_reducible apply Kept.ite
    | intro _

theorem safetyLeavesOn_kept {z s : State} (kz : Kept z s) : Kept z (safetyLeavesOn s) := by
  unfold safetyLeavesOn
  refine Kept.setSaf (dropFrames_kept (latch_kept kz)) ?_ rfl rfl
  dsimp only
  split
  · rename_i e; rw [e]; exact fun _ => by decide
  · exact id

theorem unconfigure_kept {z s : State} (kz : Kept z s) : Kept z (unconfigure s) := by
  unfold unconfigure
  have h : Kept z (pinsLow s) := pinsLow_kept kz
  refine (dropFrames_kept h).trans ?_
  exact ⟨rfl, rfl, rfl, rfl, id, fun _ _ => ⟨rfl, rfl⟩, Nat.le_refl _, .inl rfl, shaped_of_lengths rfl⟩

theorem runConfig_kept {z : State} {id : Nat} {op : Nat} {f : Cmd → State → State} {s : State} (h_f : ∀ (a0 : Cmd) (y : State), Kept y (f a0 y)) (kz : Kept z s) : Kept z (runConfig id op f s) := by
  unfold runConfig
  repeat'
    first
    | with_reducible assumption
    | with_reducible apply Kept.refl
    | with_reducible apply runReady_kept
    | with_reducible apply h_f
    | (with_reducible refine Kept.trans ?_ (h_f ..))
    | with_reducible apply Kept.ite
    | intro _

theorem evictForeign_kept {z : State} {f : Nat} {j : Nat} {s : State} (kz : Kept z s) : Kept z (evictForeign f j s) := by
  unfold evictForeign
  repeat'
    first
    | with_reducible assumption
    | with_reducible apply Kept.refl
    | with_reducible apply Kept.foldl
    | with_reducible apply evictHot_kept
    | intro _

theorem runConfigure_kept {z : State} {c : Cmd} {s : State} (kz : Kept z s) : Kept z (runConfigure c s) := by
  unfold runConfigure
  repeat'
    first
    | (extract_lets -merge -useContext -underBinder +onlyGivenNames x; apply Kept.cut (x := x); rotate_left; intro hx; clear_value x; rotate_left; dsimp only [x]; clear x)
    | (extract_lets -merge -useContext -underBinder +onlyGivenNames x; subst x)
    | with_reducible assumption
    | with_reducible apply Kept.refl
    | with_reducible apply failCmd_kept
    | with_reducible apply evictForeign_kept
    | with_reducible apply modCmd_kept
    | with_reducible apply stageDone_kept
    | with_reducible apply Kept.ite
    | intro _
    | with_reducible rfl
    | split
    | with_reducible apply Kept.set

theorem execSafetyConfigure_keptR {id : Nat} {s : State} : KeptR s (execSafetyConfigure id s) := by
  unfold execSafetyConfigure
  repeat'
    first
    | with_reducible assumption
    | with_reducible apply Kept.refl
    | with_reducible apply KeptR.unit
    | with_reducible apply KeptR.regWrite
    | with_reducible apply KeptR.ok
    | with_reducible apply KeptR.next
    | with_reducible apply KeptR.fault
    | with_reducible apply runConfig_kept
    | with_reducible apply runConfigure_kept
    | intro _

theorem commitSafetyConfigure_kept {z : State} {c : Cmd} {s : State} (kz : Kept z s) (i : s.saf.state ≠ .running) :
    Kept z (commitSafetyConfigure c s) := by
  unfold commitSafetyConfigure
  exact modRing_kept (Kept.setSaf kz (fun _ => i) rfl rfl)

theorem dropForming_kept {z : State} {id : Nat} {s : State} (kz : Kept z s) : Kept z (dropForming id s) := by
  unfold dropForming
  repeat'
    first
    | (extract_lets -merge -useContext -underBinder +onlyGivenNames x; subst x)
    | with_reducible assumption
    | with_reducible apply Kept.refl
    | with_reducible apply Kept.ite
    | intro _
    | with_reducible rfl
    | split
    | with_reducible apply Kept.set

theorem execPartitionFormed_keptR {s : State} : KeptR s (execPartitionFormed s) := by
  unfold execPartitionFormed
  repeat'
    first
    | with_reducible assumption
    | with_reducible apply Kept.refl
    | with_reducible apply KeptR.unit
    | with_reducible apply KeptR.regWrite
    | with_reducible apply KeptR.ok
    | with_reducible apply KeptR.next
    | with_reducible apply KeptR.fault
    | with_reducible apply Kept.when
    | with_reducible apply stageDone_kept
    | with_reducible rfl
    | split

theorem runSafetyRun_kept {z : State} {c : Cmd} {s : State} (kz : Kept z s) : Kept z (runSafetyRun c s) := by
  unfold runSafetyRun
  refine Kept.ite (fun _ => failCmd_kept kz) (fun _ => ?_)
  extract_lets s1 _ _
  have h1 : Kept z s1 := modCmd_kept kz
  exact h1.trans ⟨rfl, rfl, rfl, rfl, id, fun _ k => absurd rfl k, Nat.le_refl _, .inl rfl, shaped_of_lengths rfl⟩

theorem execSafetyRun_keptR {id : Nat} {s : State} : KeptR s (execSafetyRun id s) := by
  unfold execSafetyRun
  repeat'
    first
    | with_reducible assumption
    | with_reducible apply Kept.refl
    | with_reducible apply KeptR.unit
    | with_reducible apply KeptR.regWrite
    | with_reducible apply KeptR.ok
    | with_reducible apply KeptR.next
    | with_reducible apply KeptR.fault
    | with_reducible apply runConfig_kept
    | with_reducible apply runSafetyRun_kept
    | intro _

theorem runSafetyStop_kept {z : State} {c : Cmd} {s : State} (kz : Kept z s) : Kept z (runSafetyStop c s) := by
  unfold runSafetyStop
  repeat'
    first
    | with_reducible assumption
    | with_reducible apply Kept.refl
    | with_reducible apply failCmd_kept
    | with_reducible apply modCmd_kept
    | with_reducible apply stageDone_kept
    | with_reducible apply stopStream_kept
    | with_reducible apply Kept.ite
    | intro _
    | with_reducible rfl
    | split

theorem execSafetyStop_keptR {id : Nat} {s : State} : KeptR s (execSafetyStop id s) := by
  unfold execSafetyStop
  repeat'
    first
    | with_reducible assumption
    | with_reducible apply Kept.refl
    | with_reducible apply KeptR.unit
    | with_reducible apply KeptR.regWrite
    | with_reducible apply KeptR.ok
    | with_reducible apply KeptR.next
    | with_reducible apply KeptR.fault
    | with_reducible apply runConfig_kept
    | with_reducible apply runSafetyStop_kept
    | intro _

theorem runSafetyClear_kept {z : State} {c : Cmd} {s : State} (kz : Kept z s) : Kept z (runSafetyClear c s) := by
  unfold runSafetyClear
  refine Kept.ite (fun _ => failCmd_kept kz) (fun i => stageDone_kept (dropFrames_kept (Kept.setSaf kz (fun _ => ?_) rfl rfl)))
  rw [Decidable.not_not.1 i]; decide

theorem execSafetyClear_keptR {id : Nat} {s : State} : KeptR s (execSafetyClear id s) := by
  unfold execSafetyClear
  repeat'
    first
    | with_reducible assumption
    | with_reducible apply Kept.refl
    | with_reducible apply KeptR.unit
    | with_reducible apply KeptR.regWrite
    | with_reducible apply KeptR.ok
    | with_reducible apply KeptR.next
    | with_reducible apply KeptR.fault
    | with_reducible apply runConfig_kept
    | with_reducible apply runSafetyClear_kept
    | intro _

theorem runGoldenSet_kept {z : State} {c : Cmd} {s : State} (kz : Kept z s) : Kept z (runGoldenSet c s) := by
  unfold runGoldenSet
  repeat'
    first
    | with_reducible assumption
    | with_reducible apply Kept.refl
    | with_reducible apply failCmd_kept
    | with_reducible apply stageDone_kept
    | with_reducible apply Kept.ite
    | intro _
    | with_reducible rfl
    | split

theorem execSafetyGoldenSet_keptR {id : Nat} {s : State} : KeptR s (execSafetyGoldenSet id s) := by
  unfold execSafetyGoldenSet
  repeat'
    first
    | with_reducible assumption
    | with_reducible apply Kept.refl
    | with_reducible apply KeptR.unit
    | with_reducible apply KeptR.regWrite
    | with_reducible apply KeptR.ok
    | with_reducible apply KeptR.next
    | with_reducible apply KeptR.fault
    | with_reducible apply runReady_kept
    | with_reducible apply runGoldenSet_kept
    | intro _

theorem commitGoldenSet_keptE {z : State} {c : Cmd} {s t : State} (kz : Kept z s) (e_ : commitGoldenSet c s = .ok t) :
    Kept z t := by
  unfold commitGoldenSet at e_
  split at e_
  · cases e_
  · cases e_
    refine Kept.setSaf kz ?_ rfl rfl
    dsimp only
    split
    · rename_i e; rw [e]; exact fun _ => by decide
    · exact id

theorem runSelftest_kept {z : State} {run : SelftestRun} {c : Cmd} {s : State} (kz : Kept z s) : Kept z (runSelftest run c s) := by
  unfold runSelftest
  repeat'
    first
    | (extract_lets -merge -useContext -underBinder +onlyGivenNames x; subst x)
    | with_reducible assumption
    | with_reducible apply Kept.refl
    | with_reducible apply failCmd_kept
    | with_reducible apply stageDone_kept
    | with_reducible apply Kept.ite
    | intro _
    | with_reducible rfl
    | split
    | with_reducible apply Kept.set

theorem execSafetySelftest_keptR {id : Nat} {run : SelftestRun} {s : State} : KeptR s (execSafetySelftest id run s) := by
  unfold execSafetySelftest
  repeat'
    first
    | with_reducible assumption
    | with_reducible apply Kept.refl
    | with_reducible apply KeptR.unit
    | with_reducible apply KeptR.regWrite
    | with_reducible apply KeptR.ok
    | with_reducible apply KeptR.next
    | with_reducible apply KeptR.fault
    | with_reducible apply runReady_kept
    | with_reducible apply runSelftest_kept
    | intro _

theorem commitSelftest_kept {z s : State} (kz : Kept z s) : Kept z (commitSelftest s) := by
  unfold commitSelftest
  refine Kept.setSaf kz ?_ rfl rfl
  dsimp only
  split
  · rename_i e; rw [e]; exact fun _ => by decide
  · exact id

theorem endJob_kept {z : State} {no : Nat} {job : SafetyJob} {s : State} (kz : Kept z s) : Kept z (endJob no job s) := by
  unfold endJob
  repeat'
    first
    | with_reducible assumption
    | with_reducible apply Kept.refl
    | with_reducible apply Kept.ite
    | intro _
    | with_reducible rfl
    | split
    | with_reducible apply Kept.set
    | (simp only [lengths, modAt_length, setAt_length, List.length_map, List.length_mapIdx]; done)

theorem execSafetyJobEnd_keptR {job : SafetyJob} {vector : List Nat} {s : State} : KeptR s (execSafetyJobEnd job vector s) := by
  unfold execSafetyJobEnd
  repeat'
    first
    | (extract_lets -merge -useContext -underBinder +onlyGivenNames x; apply KeptR.cut (x := x); rotate_left; intro hx; clear_value x; rotate_left; dsimp only [x]; clear x)
    | (extract_lets -merge -useContext -underBinder +onlyGivenNames x; apply Kept.cut (x := x); rotate_left; intro hx; clear_value x; rotate_left; dsimp only [x]; clear x)
    | (extract_lets -merge -useContext -underBinder +onlyGivenNames x; subst x)
    | with_reducible assumption
    | with_reducible apply Kept.refl
    | with_reducible apply KeptR.unit
    | with_reducible apply KeptR.regWrite
    | with_reducible apply KeptR.ok
    | with_reducible apply KeptR.next
    | with_reducible apply KeptR.fault
    | with_reducible apply KeptR.refused
    | with_reducible apply endJob_kept
    | with_reducible apply modFrameAt_kept
    | with_reducible apply settleDispatch_kept
    | with_reducible apply decideFrame_kept
    | with_reducible apply pruneFrames_kept
    | with_reducible apply Kept.ite
    | intro _
    | with_reducible rfl
    | split
    | with_reducible apply Kept.set
    | (simp only [lengths, modAt_length, setAt_length, List.length_map, List.length_mapIdx]; done)

theorem execFrameDeadlineExpiry_keptR {s : State} : KeptR s (execFrameDeadlineExpiry s) := by
  unfold execFrameDeadlineExpiry
  repeat'
    first
    | with_reducible assumption
    | with_reducible apply Kept.refl
    | with_reducible apply KeptR.unit
    | with_reducible apply KeptR.regWrite
    | with_reducible apply KeptR.ok
    | with_reducible apply KeptR.next
    | with_reducible apply KeptR.fault
    | with_reducible apply decideFrame_kept
    | with_reducible rfl
    | split

theorem execAbsentFrameTimeout_keptR {s : State} : KeptR s (execAbsentFrameTimeout s) := by
  unfold execAbsentFrameTimeout
  repeat'
    first
    | with_reducible assumption
    | with_reducible apply Kept.refl
    | with_reducible apply KeptR.unit
    | with_reducible apply KeptR.regWrite
    | with_reducible apply KeptR.ok
    | with_reducible apply KeptR.next
    | with_reducible apply KeptR.fault
    | with_reducible apply seqDropped_kept

theorem execLockstepMismatch_keptR {pair : Nat} {s : State} : KeptR s (execLockstepMismatch pair s) := by
  unfold execLockstepMismatch
  repeat'
    first
    | with_reducible assumption
    | with_reducible apply Kept.refl
    | with_reducible apply KeptR.unit
    | with_reducible apply KeptR.regWrite
    | with_reducible apply KeptR.ok
    | with_reducible apply KeptR.next
    | with_reducible apply KeptR.fault
    | with_reducible apply latch_kept

theorem execIslandSramDoubleError_keptR {addr : Nat} {s : State} : KeptR s (execIslandSramDoubleError addr s) := by
  unfold execIslandSramDoubleError
  repeat'
    first
    | with_reducible assumption
    | with_reducible apply Kept.refl
    | with_reducible apply KeptR.unit
    | with_reducible apply KeptR.regWrite
    | with_reducible apply KeptR.ok
    | with_reducible apply KeptR.next
    | with_reducible apply KeptR.fault
    | with_reducible apply latch_kept

theorem execKeasterParityError_keptR {s : State} : KeptR s (execKeasterParityError s) := by
  unfold execKeasterParityError
  repeat'
    first
    | with_reducible assumption
    | with_reducible apply Kept.refl
    | with_reducible apply KeptR.unit
    | with_reducible apply KeptR.regWrite
    | with_reducible apply KeptR.ok
    | with_reducible apply KeptR.next
    | with_reducible apply KeptR.fault
    | with_reducible apply latch_kept

end Sys2Proof.Laws
end

