-- ==== Sys2Proof/Laws/KeptCamera.lean ====
section
/-! SUPPORT. Laws/KeptCamera.lean: every operation of Machine/Camera.lean keeps what `Kept` says. -/

set_option Elab.async false

namespace Sys2Proof.Laws
open Sys2Proof Sys2Proof.Machine

theorem modCamPort_kept {z : State} {p : Nat} {g : CamPort → CamPort} {s : State} (kz : Kept z s) : Kept z (modCamPort p g s) := by
  unfold modCamPort
  repeat'
    first
    | (extract_lets -merge -useContext -underBinder +onlyGivenNames x; subst x)
    | with_reducible assumption
    | with_reducible apply Kept.refl
    | with_reducible rfl
    | split
    | with_reducible apply Kept.set
    | (simp only [lengths, modAt_length]; done)

theorem camStatus_kept {z : State} {p : Nat} {bits : Nat} {s : State} (kz : Kept z s) : Kept z (camStatus p bits s) := by
  unfold camStatus
  repeat'
    first
    | with_reducible assumption
    | with_reducible apply Kept.refl
    | with_reducible apply modCamPort_kept

theorem modVc_kept {z : State} {p : Nat} {v : Nat} {g : VcCount → VcCount} {s : State} (kz : Kept z s) : Kept z (modVc p v g s) := by
  unfold modVc
  repeat'
    first
    | (extract_lets -merge -useContext -underBinder +onlyGivenNames x; subst x)
    | with_reducible assumption
    | with_reducible apply Kept.refl
    | with_reducible rfl
    | split
    | with_reducible apply Kept.set
    | (simp only [lengths]; done)

theorem modBind_kept {z : State} {id : Nat} {g : Bind → Bind} {s : State} (kz : Kept z s) : Kept z (modBind id g s) := by
  unfold modBind
  repeat'
    first
    | (extract_lets -merge -useContext -underBinder +onlyGivenNames x; subst x)
    | with_reducible assumption
    | with_reducible apply Kept.refl
    | with_reducible apply Kept.ite
    | intro _
    | with_reducible rfl
    | split
    | with_reducible apply Kept.set
    | (simp only [lengths]; done)

theorem receive_kept {z : State} {p : Nat} {f : State → State} {s : State} (h_f : ∀ (y : State), Kept y (f y)) (kz : Kept z s) : Kept z (receive p f s) := by
  unfold receive
  repeat'
    first
    | with_reducible assumption
    | with_reducible apply Kept.refl
    | with_reducible apply camStatus_kept
    | with_reducible apply h_f
    | (with_reducible refine Kept.trans ?_ (h_f ..))
    | with_reducible apply Kept.ite
    | intro _

theorem bindWrite_kept {z : State} {b : Bind} {va : Nat} {data : Bytes} {s : State} (kz : Kept z s) : Kept z (bindWrite b va data s) := by
  unfold bindWrite
  repeat'
    first
    | with_reducible assumption
    | with_reducible apply Kept.refl
    | with_reducible apply recordFail_kept
    | with_reducible apply commitSegs_kept
    | with_reducible rfl
    | split

theorem releaseBind_kept {z : State} {b : Bind} {s : State} (kz : Kept z s) : Kept z (releaseBind b s) := by
  unfold releaseBind
  repeat'
    first
    | (extract_lets -merge -useContext -underBinder +onlyGivenNames x; apply Kept.cut (x := x); rotate_left; intro hx; clear_value x; rotate_left; dsimp only [x]; clear x)
    | (extract_lets -merge -useContext -underBinder +onlyGivenNames x; subst x)
    | with_reducible assumption
    | with_reducible apply Kept.refl
    | with_reducible apply dropFrames_kept
    | with_reducible apply latch_kept
    | with_reducible apply Kept.ite
    | intro _
    | with_reducible rfl
    | split
    | with_reducible apply Kept.set
    | (simp only [lengths]; done)

theorem bindWriteError_kept {z : State} {b : Bind} {s : State} (kz : Kept z s) : Kept z (bindWriteError b s) := by
  unfold bindWriteError
  repeat'
    first
    | with_reducible assumption
    | with_reducible apply Kept.refl
    | with_reducible apply releaseBind_kept
    | with_reducible apply modRing_kept

theorem recordFrame_kept {z : State} {b : Bind} {f : Frame} {s : State} (kz : Kept z s) : Kept z (recordFrame b f s) := by
  unfold recordFrame
  repeat'
    first
    | (extract_lets -merge -useContext -underBinder +onlyGivenNames x; apply Kept.cut (x := x); rotate_left; intro hx; clear_value x; rotate_left; dsimp only [x]; clear x)
    | (extract_lets -merge -useContext -underBinder +onlyGivenNames x; subst x)
    | with_reducible assumption
    | with_reducible apply Kept.refl
    | with_reducible apply bindWriteError_kept
    | with_reducible apply modBind_kept
    | with_reducible apply writeRecord_kept
    | with_reducible apply raiseVector_kept
    | with_reducible apply Kept.ite
    | intro _

theorem writeInline_kept {z : State} {b : Bind} {half : Nat} {o : Bytes} {s : State} {l : OutLine} (kz : Kept z s) : Kept z (writeInline b half o s l) := by
  unfold writeInline
  repeat'
    first
    | (extract_lets -merge -useContext -underBinder +onlyGivenNames x; subst x)
    | with_reducible assumption
    | with_reducible apply Kept.refl
    | with_reducible apply writeBytes_kept
    | with_reducible apply bindWrite_kept
    | with_reducible rfl
    | split
    | with_reducible apply Kept.set
    | (simp only [lengths]; done)

theorem processLines_kept {z : State} {b : Bind} {f : Frame} {hi : Nat} {s : State} (kz : Kept z s) : Kept z (processLines b f hi s) := by
  unfold processLines
  repeat'
    first
    | (extract_lets -merge -useContext -underBinder +onlyGivenNames x; apply Kept.cut (x := x); rotate_left; intro hx; clear_value x; rotate_left; dsimp only [x]; clear x)
    | (extract_lets -merge -useContext -underBinder +onlyGivenNames x; subst x)
    | with_reducible assumption
    | with_reducible apply Kept.refl
    | with_reducible apply Kept.foldl
    | with_reducible apply writeInline_kept
    | intro _
    | with_reducible rfl
    | split
    | with_reducible apply Kept.set
    | (simp only [lengths]; done)

theorem completeInline_kept {z : State} {b : Bind} {f : Frame} {s : State} (kz : Kept z s) : Kept z (completeInline b f s) := by
  unfold completeInline
  repeat'
    first
    | (extract_lets -merge -useContext -underBinder +onlyGivenNames x; apply Kept.cut (x := x); rotate_left; intro hx; clear_value x; rotate_left; dsimp only [x]; clear x)
    | with_reducible assumption
    | with_reducible apply Kept.refl
    | with_reducible apply modBind_kept
    | with_reducible apply processLines_kept
    | with_reducible apply recordedHalf_kept
    | with_reducible apply recordFrame_kept
    | with_reducible apply seqOutputs_kept

theorem countFrame_kept {z : State} {b : Bind} {f : Frame} {s : State} (kz : Kept z s) : Kept z (countFrame b f s) := by
  unfold countFrame
  repeat'
    first
    | with_reducible assumption
    | with_reducible apply Kept.refl
    | with_reducible apply modVc_kept

theorem endFrame_kept {z : State} {cut : Bool} {b : Bind} {s : State} (kz : Kept z s) : Kept z (endFrame cut b s) := by
  unfold endFrame
  repeat'
    first
    | (extract_lets -merge -useContext -underBinder +onlyGivenNames x; apply Kept.cut (x := x); rotate_left; intro hx; clear_value x; rotate_left; dsimp only [x]; clear x)
    | (extract_lets -merge -useContext -underBinder +onlyGivenNames x; subst x)
    | with_reducible assumption
    | with_reducible apply Kept.refl
    | with_reducible apply Kept.foldl
    | with_reducible apply modBind_kept
    | with_reducible apply seqDropped_kept
    | with_reducible apply countFrame_kept
    | with_reducible apply seqFrameEnd_kept
    | with_reducible apply recordFrame_kept
    | with_reducible apply bindWrite_kept
    | with_reducible apply Kept.ite
    | intro _
    | with_reducible rfl
    | split

theorem endFrames_kept {z : State} {cut : Bool} {ids : List Nat} {s : State} (kz : Kept z s) : Kept z (endFrames cut ids s) := by
  unfold endFrames
  repeat'
    first
    | with_reducible assumption
    | with_reducible apply Kept.refl
    | with_reducible apply Kept.foldl
    | with_reducible apply endFrame_kept
    | intro _
    | with_reducible rfl
    | split

theorem beginFrame_kept {z : State} {no : Nat} {b : Bind} {s : State} (kz : Kept z s) : Kept z (beginFrame no b s) := by
  unfold beginFrame
  repeat'
    first
    | (extract_lets -merge -useContext -underBinder +onlyGivenNames x; apply Kept.cut (x := x); rotate_left; intro hx; clear_value x; rotate_left; dsimp only [x]; clear x)
    | (extract_lets -merge -useContext -underBinder +onlyGivenNames x; subst x)
    | with_reducible assumption
    | with_reducible apply Kept.refl
    | with_reducible apply releaseHalf_kept
    | with_reducible apply modBind_kept
    | with_reducible apply seqFrameStart_kept
    | with_reducible apply Kept.ite
    | intro _
    | with_reducible rfl
    | split
    | with_reducible apply Kept.set
    | (simp only [lengths]; done)

theorem settleInline_kept {z : State} {id : Nat} {s : State} (kz : Kept z s) : Kept z (settleInline id s) := by
  unfold settleInline
  repeat'
    first
    | with_reducible assumption
    | with_reducible apply Kept.refl
    | with_reducible apply completeInline_kept
    | with_reducible rfl
    | split

theorem startFrame_kept {z : State} {p : Nat} {no : Nat} {s : State} {id : Nat} (kz : Kept z s) : Kept z (startFrame p no s id) := by
  unfold startFrame
  repeat'
    first
    | (extract_lets -merge -useContext -underBinder +onlyGivenNames x; apply Kept.cut (x := x); rotate_left; intro hx; clear_value x; rotate_left; dsimp only [x]; clear x)
    | with_reducible assumption
    | with_reducible apply Kept.refl
    | with_reducible apply endFrame_kept
    | with_reducible apply camStatus_kept
    | with_reducible apply settleInline_kept
    | with_reducible apply beginFrame_kept
    | with_reducible apply Kept.ite
    | intro _
    | with_reducible rfl
    | split

theorem execCsiFrameStart_keptR {port : Nat} {vc : Nat} {frameNo : Nat} {s : State} : KeptR s (execCsiFrameStart port vc frameNo s) := by
  unfold execCsiFrameStart
  repeat'
    first
    | with_reducible assumption
    | with_reducible apply Kept.refl
    | with_reducible apply KeptR.unit
    | with_reducible apply KeptR.regWrite
    | with_reducible apply KeptR.ok
    | with_reducible apply KeptR.next
    | with_reducible apply KeptR.fault
    | with_reducible apply Kept.foldl
    | with_reducible apply receive_kept
    | with_reducible apply startFrame_kept
    | with_reducible apply modCamPort_kept
    | intro _

theorem execCsiFrameEnd_keptR {port : Nat} {vc : Nat} {_frameNo : Nat} {s : State} : KeptR s (execCsiFrameEnd port vc _frameNo s) := by
  unfold execCsiFrameEnd
  repeat'
    first
    | (extract_lets -merge -useContext -underBinder +onlyGivenNames x; apply Kept.cut (x := x); rotate_left; intro hx; clear_value x; rotate_left; dsimp only [x]; clear x)
    | (extract_lets -merge -useContext -underBinder +onlyGivenNames x; subst x)
    | with_reducible assumption
    | with_reducible apply Kept.refl
    | with_reducible apply KeptR.unit
    | with_reducible apply KeptR.regWrite
    | with_reducible apply KeptR.ok
    | with_reducible apply KeptR.next
    | with_reducible apply KeptR.fault
    | with_reducible apply receive_kept
    | with_reducible apply modCamPort_kept
    | with_reducible apply camStatus_kept
    | with_reducible apply endFrames_kept
    | with_reducible apply Kept.ite
    | intro _

theorem execFrameEndTimeout_keptR {bind : Nat} {s : State} : KeptR s (execFrameEndTimeout bind s) := by
  unfold execFrameEndTimeout
  repeat'
    first
    | with_reducible assumption
    | with_reducible apply Kept.refl
    | with_reducible apply KeptR.unit
    | with_reducible apply KeptR.regWrite
    | with_reducible apply KeptR.ok
    | with_reducible apply KeptR.next
    | with_reducible apply KeptR.fault
    | with_reducible apply endFrame_kept
    | with_reducible apply camStatus_kept
    | with_reducible apply Kept.ite
    | intro _
    | with_reducible rfl
    | split

theorem countCrc_kept {z : State} {p : Nat} {l : LinePacket} {s : State} (kz : Kept z s) : Kept z (countCrc p l s) := by
  unfold countCrc
  repeat'
    first
    | with_reducible assumption
    | with_reducible apply Kept.refl
    | with_reducible apply modVc_kept
    | with_reducible apply Kept.ite
    | intro _
    | with_reducible rfl
    | split
    | with_reducible apply Kept.set
    | (simp only [lengths, modAt_length, setAt_length, List.length_map, List.length_mapIdx]; done)

theorem embeddedLine_kept {z : State} {l : LinePacket} {s : State} {b : Bind} (kz : Kept z s) : Kept z (embeddedLine l s b) := by
  unfold embeddedLine
  repeat'
    first
    | (extract_lets -merge -useContext -underBinder +onlyGivenNames x; apply Kept.cut (x := x); rotate_left; intro hx; clear_value x; rotate_left; dsimp only [x]; clear x)
    | (extract_lets -merge -useContext -underBinder +onlyGivenNames x; subst x)
    | with_reducible assumption
    | with_reducible apply Kept.refl
    | with_reducible apply modBind_kept
    | with_reducible apply bindWrite_kept
    | with_reducible apply Kept.ite
    | intro _
    | with_reducible rfl
    | split
    | with_reducible apply Kept.set
    | (simp only [lengths, modAt_length, setAt_length, List.length_map, List.length_mapIdx]; done)

theorem embeddedLines_kept {z : State} {p : Nat} {l : LinePacket} {es : List Bind} {s : State} (kz : Kept z s) : Kept z (embeddedLines p l es s) := by
  unfold embeddedLines
  repeat'
    first
    | with_reducible assumption
    | with_reducible apply Kept.refl
    | with_reducible apply Kept.foldl
    | with_reducible apply embeddedLine_kept
    | with_reducible apply camStatus_kept
    | with_reducible apply countCrc_kept
    | with_reducible apply Kept.ite
    | intro _
    | with_reducible rfl
    | split
    | with_reducible apply Kept.set
    | (simp only [lengths, modAt_length, setAt_length, List.length_map, List.length_mapIdx]; done)

theorem imageLine_kept {z : State} {l : LinePacket} {s : State} {b : Bind} (kz : Kept z s) : Kept z (imageLine l s b) := by
  unfold imageLine
  repeat'
    first
    | (extract_lets -merge -useContext -underBinder +onlyGivenNames x; apply Kept.cut (x := x); rotate_left; intro hx; clear_value x; rotate_left; dsimp only [x]; clear x)
    | (extract_lets -merge -useContext -underBinder +onlyGivenNames x; subst x)
    | with_reducible assumption
    | with_reducible apply Kept.refl
    | with_reducible apply countCrc_kept
    | with_reducible apply camStatus_kept
    | with_reducible apply modBind_kept
    | with_reducible apply bindWrite_kept
    | with_reducible apply Kept.ite
    | intro _
    | with_reducible rfl
    | split
    | with_reducible apply Kept.set
    | (simp only [lengths, modAt_length, setAt_length, List.length_map, List.length_mapIdx]; done)

theorem damageFrames_kept {z : State} {p : Nat} {l : LinePacket} {s : State} (kz : Kept z s) : Kept z (damageFrames p l s) := by
  unfold damageFrames
  repeat'
    first
    | (extract_lets -merge -useContext -underBinder +onlyGivenNames x; subst x)
    | with_reducible assumption
    | with_reducible apply Kept.refl
    | with_reducible apply Kept.ite
    | intro _
    | with_reducible rfl
    | split
    | with_reducible apply Kept.set
    | (simp only [lengths]; done)

theorem linePacket_kept {z : State} {port : Nat} {l : LinePacket} {s : State} (kz : Kept z s) : Kept z (linePacket port l s) := by
  unfold linePacket
  repeat'
    first
    | (extract_lets -merge -useContext -underBinder +onlyGivenNames x; apply Kept.cut (x := x); rotate_left; intro hx; clear_value x; rotate_left; dsimp only [x]; clear x)
    | (extract_lets -merge -useContext -underBinder +onlyGivenNames x; subst x)
    | with_reducible assumption
    | with_reducible apply Kept.refl
    | with_reducible apply damageFrames_kept
    | with_reducible apply modCamPort_kept
    | with_reducible apply camStatus_kept
    | with_reducible apply embeddedLines_kept
    | with_reducible apply imageLine_kept
    | with_reducible apply Kept.ite
    | intro _
    | with_reducible rfl
    | split
    | with_reducible apply Kept.set
    | (simp only [lengths, modAt_length, setAt_length, List.length_map, List.length_mapIdx]; done)

theorem execCsiLinePacket_keptR {port : Nat} {line : LinePacket} {s : State} : KeptR s (execCsiLinePacket port line s) := by
  unfold execCsiLinePacket
  repeat'
    first
    | with_reducible assumption
    | with_reducible apply Kept.refl
    | with_reducible apply KeptR.unit
    | with_reducible apply KeptR.regWrite
    | with_reducible apply KeptR.ok
    | with_reducible apply KeptR.next
    | with_reducible apply KeptR.fault
    | with_reducible apply receive_kept
    | with_reducible apply linePacket_kept
    | intro _

theorem execCsiDeskew_keptR {port : Nat} {s : State} : KeptR s (execCsiDeskew port s) := by
  unfold execCsiDeskew
  repeat'
    first
    | with_reducible assumption
    | with_reducible apply Kept.refl
    | with_reducible apply KeptR.unit
    | with_reducible apply KeptR.regWrite
    | with_reducible apply KeptR.ok
    | with_reducible apply KeptR.next
    | with_reducible apply KeptR.fault
    | with_reducible apply Kept.when
    | with_reducible apply modCamPort_kept

theorem execSotError_keptR {port : Nat} {lane : Nat} {s : State} : KeptR s (execSotError port lane s) := by
  unfold execSotError
  repeat'
    first
    | with_reducible assumption
    | with_reducible apply Kept.refl
    | with_reducible apply KeptR.unit
    | with_reducible apply KeptR.regWrite
    | with_reducible apply KeptR.ok
    | with_reducible apply KeptR.next
    | with_reducible apply KeptR.fault
    | with_reducible apply Kept.when
    | with_reducible apply modCamPort_kept

theorem cameraLeavesOn_kept {z : State} {s : State} (kz : Kept z s) : Kept z (cameraLeavesOn s) := by
  unfold cameraLeavesOn
  repeat'
    first
    | (extract_lets -merge -useContext -underBinder +onlyGivenNames x; apply Kept.cut (x := x); rotate_left; intro hx; clear_value x; rotate_left; dsimp only [x]; clear x)
    | (extract_lets -merge -useContext -underBinder +onlyGivenNames x; subst x)
    | with_reducible assumption
    | with_reducible apply Kept.refl
    | with_reducible apply endFrames_kept
    | with_reducible apply latch_kept
    | with_reducible apply Kept.ite
    | intro _
    | with_reducible rfl
    | split
    | with_reducible apply Kept.set
    | (simp only [lengths, List.length_map]; done)

theorem runCameraBind_kept {z : State} {c : Cmd} {s : State} (kz : Kept z s) : Kept z (runCameraBind c s) := by
  unfold runCameraBind
  repeat'
    first
    | with_reducible assumption
    | with_reducible apply Kept.refl
    | with_reducible apply failCmd_kept
    | with_reducible apply stageDone_kept
    | with_reducible rfl
    | split

theorem execCameraBind_keptR {id : Nat} {s : State} : KeptR s (execCameraBind id s) := by
  unfold execCameraBind
  repeat'
    first
    | with_reducible assumption
    | with_reducible apply Kept.refl
    | with_reducible apply KeptR.unit
    | with_reducible apply KeptR.regWrite
    | with_reducible apply KeptR.ok
    | with_reducible apply KeptR.next
    | with_reducible apply KeptR.fault
    | with_reducible apply runReady_kept
    | with_reducible apply runCameraBind_kept
    | intro _

theorem commitCameraBind_keptE {z : State} {c : Cmd} {s : State} {t_ : State} (kz : Kept z s) (e_ : commitCameraBind c s = .ok t_) : Kept z t_ := by
  unfold commitCameraBind at e_
  try dsimp only at e_
  repeat' split at e_
  all_goals first
    | (cases e_; done)
    | (cases e_
       repeat'
         first
         | (extract_lets -merge -useContext -underBinder +onlyGivenNames x; apply Kept.cut (x := x); rotate_left; intro hx; clear_value x; rotate_left; dsimp only [x]; clear x)
         | (extract_lets -merge -useContext -underBinder +onlyGivenNames x; subst x)
         | with_reducible assumption
         | with_reducible apply Kept.refl
         | with_reducible apply modRing_kept
         | with_reducible apply modCmd_kept
         | with_reducible apply doorbell_kept
         | with_reducible apply Kept.ite
         | intro _
         | with_reducible rfl
         | split
         | with_reducible apply Kept.set
         | (simp only [lengths, modAt_length, setAt_length, List.length_map, List.length_mapIdx]; done))

theorem runCameraUnbind_kept {z : State} {c : Cmd} {s : State} (kz : Kept z s) : Kept z (runCameraUnbind c s) := by
  unfold runCameraUnbind
  repeat'
    first
    | with_reducible assumption
    | with_reducible apply Kept.refl
    | with_reducible apply failCmd_kept
    | with_reducible apply stageDone_kept
    | with_reducible apply Kept.ite
    | intro _
    | with_reducible rfl
    | split

theorem execCameraUnbind_keptR {id : Nat} {s : State} : KeptR s (execCameraUnbind id s) := by
  unfold execCameraUnbind
  repeat'
    first
    | with_reducible assumption
    | with_reducible apply Kept.refl
    | with_reducible apply KeptR.unit
    | with_reducible apply KeptR.regWrite
    | with_reducible apply KeptR.ok
    | with_reducible apply KeptR.next
    | with_reducible apply KeptR.fault
    | with_reducible apply runReady_kept
    | with_reducible apply runCameraUnbind_kept
    | intro _

theorem commitCameraUnbind_keptE {z : State} {c : Cmd} {s : State} {t_ : State} (kz : Kept z s) (e_ : commitCameraUnbind c s = .ok t_) : Kept z t_ := by
  unfold commitCameraUnbind at e_
  try dsimp only at e_
  repeat' split at e_
  all_goals first
    | (cases e_; done)
    | (cases e_
       repeat'
         first
         | (extract_lets -merge -useContext -underBinder +onlyGivenNames x; apply Kept.cut (x := x); rotate_left; intro hx; clear_value x; rotate_left; dsimp only [x]; clear x)
         | (extract_lets -merge -useContext -underBinder +onlyGivenNames x; subst x)
         | with_reducible assumption
         | with_reducible apply Kept.refl
         | with_reducible apply releaseBind_kept
         | with_reducible rfl
         | split
         | with_reducible apply Kept.set
         | (simp only [lengths, modAt_length, setAt_length, List.length_map, List.length_mapIdx]; done))

theorem releaseBinds_kept {z : State} {fs : List Nat} {s : State} (kz : Kept z s) : Kept z (releaseBinds fs s) := by
  unfold releaseBinds
  repeat'
    first
    | with_reducible assumption
    | with_reducible apply Kept.refl
    | with_reducible apply Kept.foldl
    | with_reducible apply releaseBind_kept
    | intro _

theorem noteDoorbell_kept {z : State} {r : Nat} {i : Nat} {s : State} (kz : Kept z s) : Kept z (noteDoorbell r i s) := by
  unfold noteDoorbell
  repeat'
    first
    | with_reducible assumption
    | with_reducible apply Kept.refl
    | with_reducible apply modRing_kept

theorem execFrameRingDoorbell_keptR {func : Nat} {offset : Nat} {width : Nat} {value : Nat} {s : State} : KeptR s (execFrameRingDoorbell func offset width value s) := by
  unfold execFrameRingDoorbell
  repeat'
    first
    | with_reducible assumption
    | with_reducible apply Kept.refl
    | with_reducible apply KeptR.unit
    | with_reducible apply KeptR.regWrite
    | with_reducible apply KeptR.ok
    | with_reducible apply KeptR.next
    | with_reducible apply KeptR.fault
    | with_reducible apply modRing_kept
    | with_reducible apply noteDoorbell_kept
    | with_reducible apply modBind_kept
    | with_reducible apply Kept.ite
    | intro _
    | with_reducible rfl
    | split

theorem execVerdictRingDoorbell_keptR {func : Nat} {offset : Nat} {width : Nat} {value : Nat} {s : State} : KeptR s (execVerdictRingDoorbell func offset width value s) := by
  unfold execVerdictRingDoorbell
  repeat'
    first
    | (extract_lets -merge -useContext -underBinder +onlyGivenNames x; subst x)
    | with_reducible assumption
    | with_reducible apply Kept.refl
    | with_reducible apply KeptR.unit
    | with_reducible apply KeptR.regWrite
    | with_reducible apply KeptR.ok
    | with_reducible apply KeptR.next
    | with_reducible apply KeptR.fault
    | with_reducible apply modRing_kept
    | with_reducible apply noteDoorbell_kept
    | with_reducible apply Kept.ite
    | intro _
    | with_reducible rfl
    | split
    | with_reducible apply Kept.set

theorem runVisionPass_kept {z : State} {c : Cmd} {s : State} (kz : Kept z s) : Kept z (runVisionPass c s) := by
  unfold runVisionPass
  repeat'
    first
    | (extract_lets -merge -useContext -underBinder +onlyGivenNames x; subst x)
    | with_reducible assumption
    | with_reducible apply Kept.refl
    | with_reducible apply failCmd_kept
    | with_reducible apply modCmd_kept
    | with_reducible apply Kept.ite
    | intro _
    | with_reducible rfl
    | split
    | with_reducible apply Kept.set
    | (simp only [lengths]; done)

theorem execVisionPass_keptR {id : Nat} {s : State} : KeptR s (execVisionPass id s) := by
  unfold execVisionPass
  repeat'
    first
    | with_reducible assumption
    | with_reducible apply Kept.refl
    | with_reducible apply KeptR.unit
    | with_reducible apply KeptR.regWrite
    | with_reducible apply KeptR.ok
    | with_reducible apply KeptR.next
    | with_reducible apply KeptR.fault
    | with_reducible apply runReady_kept
    | with_reducible apply runVisionPass_kept
    | intro _

theorem leaveQueue_kept {z : State} {id : Nat} {s : State} (kz : Kept z s) : Kept z (leaveQueue id s) := by
  unfold leaveQueue
  repeat'
    first
    | (extract_lets -merge -useContext -underBinder +onlyGivenNames x; subst x)
    | with_reducible assumption
    | with_reducible apply Kept.refl
    | with_reducible rfl
    | split
    | with_reducible apply Kept.set
    | (simp only [lengths]; done)

theorem execMemoryPassStart_keptR {s : State} : KeptR s (execMemoryPassStart s) := by
  unfold execMemoryPassStart
  repeat'
    first
    | (extract_lets -merge -useContext -underBinder +onlyGivenNames x; apply Kept.cut (x := x); rotate_left; intro hx; clear_value x; rotate_left; dsimp only [x]; clear x)
    | (extract_lets -merge -useContext -underBinder +onlyGivenNames x; subst x)
    | with_reducible assumption
    | with_reducible apply Kept.refl
    | with_reducible apply KeptR.unit
    | with_reducible apply KeptR.regWrite
    | with_reducible apply KeptR.ok
    | with_reducible apply KeptR.next
    | with_reducible apply KeptR.fault
    | with_reducible apply leaveQueue_kept
    | with_reducible apply failCmd_kept
    | with_reducible apply Kept.ite
    | intro _
    | with_reducible rfl
    | split
    | with_reducible apply Kept.set
    | (simp only [lengths]; done)

theorem finishPass_kept {z : State} {c : Cmd} {s : State} (kz : Kept z s) : Kept z (finishPass c s) := by
  unfold finishPass
  repeat'
    first
    | (extract_lets -merge -useContext -underBinder +onlyGivenNames x; apply Kept.cut (x := x); rotate_left; intro hx; clear_value x; rotate_left; dsimp only [x]; clear x)
    | (extract_lets -merge -useContext -underBinder +onlyGivenNames x; subst x)
    | with_reducible assumption
    | with_reducible apply Kept.refl
    | with_reducible apply failCmd_kept
    | with_reducible apply stageDone_kept
    | with_reducible rfl
    | split
    | with_reducible apply Kept.set
    | (simp only [lengths]; done)

theorem memoryLine_kept {z : State} {s : State} (kz : Kept z s) : Kept z (memoryLine s) := by
  unfold memoryLine
  repeat'
    first
    | (extract_lets -merge -useContext -underBinder +onlyGivenNames x; apply Kept.cut (x := x); rotate_left; intro hx; clear_value x; rotate_left; dsimp only [x]; clear x)
    | (extract_lets -merge -useContext -underBinder +onlyGivenNames x; subst x)
    | with_reducible assumption
    | with_reducible apply Kept.refl
    | with_reducible apply finishPass_kept
    | with_reducible apply Kept.ite
    | intro _
    | with_reducible rfl
    | split
    | with_reducible apply Kept.set
    | (simp only [lengths]; done)

theorem execPipelineLineBoundary_keptR {s : State} : KeptR s (execPipelineLineBoundary s) := by
  unfold execPipelineLineBoundary
  repeat'
    first
    | (extract_lets -merge -useContext -underBinder +onlyGivenNames x; subst x)
    | with_reducible assumption
    | with_reducible apply Kept.refl
    | with_reducible apply KeptR.unit
    | with_reducible apply KeptR.regWrite
    | with_reducible apply KeptR.ok
    | with_reducible apply KeptR.next
    | with_reducible apply KeptR.fault
    | with_reducible apply memoryLine_kept
    | with_reducible apply modBind_kept
    | with_reducible apply processLines_kept
    | with_reducible apply Kept.ite
    | intro _
    | with_reducible rfl
    | split

theorem execInlineOutputsComplete_keptR {s : State} : KeptR s (execInlineOutputsComplete s) := by
  unfold execInlineOutputsComplete
  repeat'
    first
    | with_reducible assumption
    | with_reducible apply Kept.refl
    | with_reducible apply KeptR.unit
    | with_reducible apply KeptR.regWrite
    | with_reducible apply KeptR.ok
    | with_reducible apply KeptR.next
    | with_reducible apply KeptR.fault
    | with_reducible apply settleInline_kept
    | with_reducible rfl
    | split

end Sys2Proof.Laws
end

