-- ==== Sys2Proof/Laws/KeptDomains.lean ====
section
/-! SUPPORT. Laws/KeptDomains.lean: every operation of Machine/Domains.lean keeps what `Kept` says. -/

set_option Elab.async false

namespace Sys2Proof.Laws
open Sys2Proof Sys2Proof.Machine

theorem chooseDepths_kept {z : State} {s : State} (kz : Kept z s) : Kept z (chooseDepths s) := by
  unfold chooseDepths
  repeat'
    first
    | (extract_lets -merge -useContext -underBinder +onlyGivenNames x; subst x)
    | with_reducible assumption
    | with_reducible apply Kept.refl
    | with_reducible apply Kept.ite
    | intro _
    | with_reducible rfl
    | split
    | with_reducible apply Kept.set
    | (simp only [lengths, List.length_mapIdx]; done)

theorem recordWake_kept {z : State} {code : Nat} {detail : Nat} {s : State} (kz : Kept z s) : Kept z (recordWake code detail s) := by
  unfold recordWake
  repeat'
    first
    | (extract_lets -merge -useContext -underBinder +onlyGivenNames x; subst x)
    | with_reducible assumption
    | with_reducible apply Kept.refl
    | with_reducible rfl
    | split
    | with_reducible apply Kept.set
    | (simp only [lengths]; done)

theorem assertEnables_kept {z : State} {d : Nat} {s : State} (kz : Kept z s) : Kept z (assertEnables d s) := by
  unfold assertEnables
  repeat'
    first
    | (extract_lets -merge -useContext -underBinder +onlyGivenNames x; subst x)
    | with_reducible assumption
    | with_reducible apply Kept.refl
    | with_reducible apply Kept.ite
    | intro _
    | with_reducible rfl
    | split
    | with_reducible apply Kept.set
    | (simp only [lengths]; done)

theorem startBringup_kept {z : State} {d : Nat} {s : State} (kz : Kept z s) : Kept z (startBringup d s) := by
  unfold startBringup
  repeat'
    first
    | with_reducible assumption
    | with_reducible apply Kept.refl
    | with_reducible apply assertEnables_kept
    | with_reducible apply modDomain_kept

theorem evictUnkept_kept {z : State} {j : Nat} {keep : Nat} {s : State} (kz : Kept z s) : Kept z (evictUnkept j keep s) := by
  unfold evictUnkept
  repeat'
    first
    | with_reducible assumption
    | with_reducible apply Kept.refl
    | with_reducible apply Kept.foldl
    | with_reducible apply evictHot_kept
    | intro _

theorem startLeaving_kept {z : State} {d : Nat} {s : State} (kz : Kept z s) : Kept z (startLeaving d s) := by
  unfold startLeaving
  repeat'
    first
    | (extract_lets -merge -useContext -underBinder +onlyGivenNames x; apply Kept.cut (x := x); rotate_left; intro hx; clear_value x; rotate_left; dsimp only [x]; clear x)
    | with_reducible assumption
    | with_reducible apply Kept.refl
    | with_reducible apply modDomain_kept
    | with_reducible apply evictUnkept_kept
    | with_reducible apply cameraLeavesOn_kept
    | with_reducible apply safetyLeavesOn_kept
    | with_reducible apply Kept.ite
    | intro _

theorem settleDomain_kept {z : State} {src : Option (Nat × Nat)} {wanted : List Nat} {s : State} {d : Nat} (kz : Kept z s) : Kept z (settleDomain src wanted s d) := by
  unfold settleDomain
  repeat'
    first
    | (extract_lets -merge -useContext -underBinder +onlyGivenNames x; apply Kept.cut (x := x); rotate_left; intro hx; clear_value x; rotate_left; dsimp only [x]; clear x)
    | (extract_lets -merge -useContext -underBinder +onlyGivenNames x; subst x)
    | with_reducible assumption
    | with_reducible apply Kept.refl
    | with_reducible apply startBringup_kept
    | with_reducible apply modDomain_kept
    | with_reducible apply startLeaving_kept
    | with_reducible apply Kept.ite
    | intro _
    | with_reducible rfl
    | split
    | with_reducible apply Kept.set
    | (simp only [lengths]; done)

theorem settleDomainSets_kept {z : State} {s : State} (kz : Kept z s) : Kept z (settleDomainSets s) := by
  unfold settleDomainSets
  repeat'
    first
    | (extract_lets -merge -useContext -underBinder +onlyGivenNames x; subst x)
    | with_reducible assumption
    | with_reducible apply Kept.refl
    | with_reducible apply Kept.foldl
    | with_reducible apply stageDone_kept
    | with_reducible apply Kept.ite
    | intro _

theorem settlePower_kept {z : State} {src : Option (Nat × Nat)} {s : State} (kz : Kept z s) : Kept z (settlePower src s) := by
  unfold settlePower
  repeat'
    first
    | (extract_lets -merge -useContext -underBinder +onlyGivenNames x; apply Kept.cut (x := x); rotate_left; intro hx; clear_value x; rotate_left; dsimp only [x]; clear x)
    | (extract_lets -merge -useContext -underBinder +onlyGivenNames x; subst x)
    | with_reducible assumption
    | with_reducible apply Kept.refl
    | with_reducible apply Kept.foldl
    | with_reducible apply settleDomain_kept
    | with_reducible apply recordWake_kept
    | with_reducible apply settleDomainSets_kept
    | with_reducible apply Kept.ite
    | intro _
    | with_reducible rfl
    | split
    | with_reducible apply Kept.set
    | (simp only [lengths]; done)

end Sys2Proof.Laws
end

