-- ==== Sys2Proof/Laws/KeptDrone.lean ====
section
/-! SUPPORT. Laws/KeptDrone.lean: every operation of Machine/Drone.lean keeps what `Kept` says. -/

set_option Elab.async false

namespace Sys2Proof.Laws
open Sys2Proof Sys2Proof.Machine

theorem modDrone_kept {z : State} {g : Drone → Drone} {s : State} (kz : Kept z s)
    (k : ∀ d, (g d).plans.length = d.plans.length ∧ (g d).preroll.length = d.preroll.length) : Kept z (modDrone g s) := by
  unfold modDrone
  exact Kept.set kz rfl rfl (by simp only [lengths, (k _).1, (k _).2])

theorem modDet_kept {z : State} {g : Detector → Detector} {s : State} (kz : Kept z s) : Kept z (modDet g s) := by
  unfold modDet
  repeat'
    first
    | (extract_lets -merge -useContext -underBinder +onlyGivenNames x; subst x)
    | with_reducible assumption
    | with_reducible apply Kept.refl
    | with_reducible rfl
    | split
    | with_reducible apply Kept.set
    | (simp only [lengths]; done)

theorem modPlan_kept {z : State} {n : Nat} {g : Plan → Plan} {s : State} (kz : Kept z s) : Kept z (modPlan n g s) := by
  unfold modPlan
  repeat'
    first
    | (extract_lets -merge -useContext -underBinder +onlyGivenNames x; subst x)
    | with_reducible assumption
    | with_reducible apply Kept.refl
    | with_reducible rfl
    | split
    | with_reducible apply Kept.set
    | (simp only [lengths, modAt_length]; done)

theorem drnEvent_kept {z : State} {bits : Nat} {s : State} (kz : Kept z s) : Kept z (drnEvent bits s) := by
  unfold drnEvent
  repeat'
    first
    | with_reducible assumption
    | with_reducible apply Kept.refl
    | with_reducible apply modDrone_kept
    | with_reducible rfl
    | split
    | with_reducible apply Kept.set
    | (simp only [lengths, modAt_length, setAt_length, List.length_map, List.length_mapIdx]; done)
    | intro _
    | (refine ⟨?_, ?_⟩ <;> simp only [modAt_length, setAt_length, List.length_map, List.length_mapIdx]; done)

theorem wakeEvent_kept {z : State} {n : Nat} {kind : Nat} {s : State} (kz : Kept z s) : Kept z (wakeEvent n kind s) := by
  unfold wakeEvent
  repeat'
    first
    | with_reducible assumption
    | with_reducible apply Kept.refl
    | with_reducible apply postBoth_kept

theorem dropPreload_kept {z : State} {n : Nat} {s : State} (kz : Kept z s) : Kept z (dropPreload n s) := by
  unfold dropPreload
  repeat'
    first
    | (extract_lets -merge -useContext -underBinder +onlyGivenNames x; subst x)
    | with_reducible assumption
    | with_reducible apply Kept.refl
    | with_reducible apply modPlan_kept
    | with_reducible rfl
    | split
    | with_reducible apply Kept.set

theorem endAttempt_kept {z : State} {n : Nat} {st : PlanState} {s : State} (kz : Kept z s) : Kept z (endAttempt n st s) := by
  unfold endAttempt
  repeat'
    first
    | with_reducible assumption
    | with_reducible apply Kept.refl
    | with_reducible apply settlePower_kept
    | with_reducible apply modPlan_kept
    | with_reducible apply dropPreload_kept

theorem requestDomains_kept {z : State} {n : Nat} {st : PlanState} {s : State} (kz : Kept z s) : Kept z (requestDomains n st s) := by
  unfold requestDomains
  repeat'
    first
    | with_reducible assumption
    | with_reducible apply Kept.refl
    | with_reducible apply modPlan_kept

theorem notifyPort_kept {z : State} {p : Nat} {s : State} (kz : Kept z s) : Kept z (notifyPort p s) := by
  unfold notifyPort
  repeat'
    first
    | (extract_lets -merge -useContext -underBinder +onlyGivenNames x; subst x)
    | with_reducible assumption
    | with_reducible apply Kept.refl
    | with_reducible apply modPort_kept
    | with_reducible apply Kept.ite
    | intro _

theorem acceptPlan_kept {z : State} {n : Nat} {s : State} (kz : Kept z s) : Kept z (acceptPlan n s) := by
  unfold acceptPlan
  repeat'
    first
    | (extract_lets -merge -useContext -underBinder +onlyGivenNames x; apply Kept.cut (x := x); rotate_left; intro hx; clear_value x; rotate_left; dsimp only [x]; clear x)
    | (extract_lets -merge -useContext -underBinder +onlyGivenNames x; subst x)
    | with_reducible assumption
    | with_reducible apply Kept.refl
    | with_reducible apply modDrone_kept
    | with_reducible apply modPlan_kept
    | with_reducible apply wakeEvent_kept
    | with_reducible apply notifyPort_kept
    | with_reducible apply Kept.ite
    | intro _
    | with_reducible rfl
    | split
    | with_reducible apply Kept.set
    | (simp only [lengths, modAt_length, setAt_length, List.length_map, List.length_mapIdx]; done)
    | intro _
    | (refine ⟨?_, ?_⟩ <;> simp only [modAt_length, setAt_length, List.length_map, List.length_mapIdx]; done)

theorem switchVerifier_kept {z : State} {n : Nat} {s : State} (kz : Kept z s) : Kept z (switchVerifier n s) := by
  unfold switchVerifier
  repeat'
    first
    | (extract_lets -merge -useContext -underBinder +onlyGivenNames x; subst x)
    | with_reducible assumption
    | with_reducible apply Kept.refl
    | with_reducible apply startSwitch_kept
    | with_reducible apply Kept.ite
    | intro _
    | with_reducible rfl
    | split

theorem triggerPlan_kept {z : State} {n : Nat} {info : Nat} {beam : Nat} {s : State} (kz : Kept z s) : Kept z (triggerPlan n info beam s) := by
  unfold triggerPlan
  repeat'
    first
    | (extract_lets -merge -useContext -underBinder +onlyGivenNames x; apply Kept.cut (x := x); rotate_left; intro hx; clear_value x; rotate_left; dsimp only [x]; clear x)
    | (extract_lets -merge -useContext -underBinder +onlyGivenNames x; subst x)
    | with_reducible assumption
    | with_reducible apply Kept.refl
    | with_reducible apply modDrone_kept
    | with_reducible apply recordWake_kept
    | with_reducible apply modPlan_kept
    | with_reducible apply settlePower_kept
    | with_reducible apply acceptPlan_kept
    | with_reducible apply wakeEvent_kept
    | with_reducible apply requestDomains_kept
    | with_reducible apply switchVerifier_kept
    | with_reducible apply endAttempt_kept
    | with_reducible apply Kept.ite
    | intro _
    | with_reducible rfl
    | split
    | with_reducible apply Kept.set
    | (simp only [lengths, modAt_length, setAt_length, List.length_map, List.length_mapIdx]; done)
    | intro _
    | (refine ⟨?_, ?_⟩ <;> simp only [modAt_length, setAt_length, List.length_map, List.length_mapIdx]; done)

theorem hostChanged_kept {z : State} {mask : Nat} {s : State} (kz : Kept z s) : Kept z (hostChanged mask s) := by
  unfold hostChanged
  repeat'
    first
    | (extract_lets -merge -useContext -underBinder +onlyGivenNames x; apply Kept.cut (x := x); rotate_left; intro hx; clear_value x; rotate_left; dsimp only [x]; clear x)
    | (extract_lets -merge -useContext -underBinder +onlyGivenNames x; subst x)
    | with_reducible assumption
    | with_reducible apply Kept.refl
    | with_reducible apply Kept.foldl
    | with_reducible apply modPlan_kept
    | with_reducible apply wakeEvent_kept
    | with_reducible apply drnEvent_kept
    | with_reducible apply dropPreload_kept
    | with_reducible apply Kept.ite
    | intro _

theorem leaveCandidate_kept {z : State} {st : DetState} {s : State} (kz : Kept z s) : Kept z (leaveCandidate st s) := by
  unfold leaveCandidate
  repeat'
    first
    | (extract_lets -merge -useContext -underBinder +onlyGivenNames x; apply Kept.cut (x := x); rotate_left; intro hx; clear_value x; rotate_left; dsimp only [x]; clear x)
    | with_reducible assumption
    | with_reducible apply Kept.refl
    | with_reducible apply Kept.foldl
    | with_reducible apply modDet_kept
    | with_reducible apply modPlan_kept
    | with_reducible apply endAttempt_kept
    | with_reducible apply wakeEvent_kept
    | with_reducible apply modDrone_kept
    | with_reducible apply Kept.ite
    | intro _
    | with_reducible rfl
    | split
    | with_reducible apply Kept.set
    | (simp only [lengths, modAt_length, setAt_length, List.length_map, List.length_mapIdx]; done)
    | intro _
    | (refine ⟨?_, ?_⟩ <;> simp only [modAt_length, setAt_length, List.length_map, List.length_mapIdx]; done)

theorem enterCandidate_kept {z : State} {beam : Nat} {cls : Nat} {s : State} (kz : Kept z s) : Kept z (enterCandidate beam cls s) := by
  unfold enterCandidate
  repeat'
    first
    | (extract_lets -merge -useContext -underBinder +onlyGivenNames x; apply Kept.cut (x := x); rotate_left; intro hx; clear_value x; rotate_left; dsimp only [x]; clear x)
    | (extract_lets -merge -useContext -underBinder +onlyGivenNames x; subst x)
    | with_reducible assumption
    | with_reducible apply Kept.refl
    | with_reducible apply Kept.foldl
    | with_reducible apply modDet_kept
    | with_reducible apply drawn_kept
    | with_reducible apply modDrone_kept
    | with_reducible apply settlePower_kept
    | with_reducible apply wakeEvent_kept
    | with_reducible apply modPlan_kept
    | with_reducible apply requestDomains_kept
    | with_reducible apply Kept.ite
    | intro _
    | with_reducible rfl
    | split
    | with_reducible apply Kept.set
    | (simp only [lengths, modAt_length, setAt_length, List.length_map, List.length_mapIdx]; done)
    | intro _
    | (refine ⟨?_, ?_⟩ <;> simp only [modAt_length, setAt_length, List.length_map, List.length_mapIdx]; done)

theorem candidateFrame_kept {z : State} {l : List (Nat × Nat × Nat)} {s : State} (kz : Kept z s) : Kept z (candidateFrame l s) := by
  unfold candidateFrame
  repeat'
    first
    | (extract_lets -merge -useContext -underBinder +onlyGivenNames x; apply Kept.cut (x := x); rotate_left; intro hx; clear_value x; rotate_left; dsimp only [x]; clear x)
    | (extract_lets -merge -useContext -underBinder +onlyGivenNames x; subst x)
    | with_reducible assumption
    | with_reducible apply Kept.refl
    | with_reducible apply Kept.foldl
    | with_reducible apply modDet_kept
    | with_reducible apply triggerPlan_kept
    | with_reducible apply leaveCandidate_kept
    | with_reducible apply Kept.ite
    | intro _

theorem capture_kept {z : State} {balls : List PdmEdges} {s : State} (kz : Kept z s) : Kept z (capture balls s) := by
  unfold capture
  repeat'
    first
    | (extract_lets -merge -useContext -underBinder +onlyGivenNames x; apply Kept.cut (x := x); rotate_left; intro hx; clear_value x; rotate_left; dsimp only [x]; clear x)
    | (extract_lets -merge -useContext -underBinder +onlyGivenNames x; subst x)
    | with_reducible assumption
    | with_reducible apply Kept.refl
    | with_reducible apply Kept.foldl
    | with_reducible apply modDrone_kept
    | with_reducible apply Kept.ite
    | intro _
    | with_reducible rfl
    | split
    | with_reducible apply Kept.set
    | exact ⟨rfl, rfl⟩
    | (simp only [lengths, modAt_length, setAt_length, List.length_map, List.length_mapIdx]; done)
    | (refine ⟨?_, ?_⟩ <;> simp only [modAt_length, setAt_length, List.length_map, List.length_mapIdx]; done)

theorem takeFeatures_kept {z : State} {s : State} (kz : Kept z s) : Kept z (takeFeatures s) := by
  unfold takeFeatures
  repeat'
    first
    | with_reducible assumption
    | with_reducible apply Kept.refl
    | with_reducible apply modDrone_kept
    | with_reducible apply Kept.ite
    | intro _
    | with_reducible rfl
    | split
    | with_reducible apply Kept.set
    | exact ⟨rfl, rfl⟩
    | (simp only [lengths, modAt_length, setAt_length, List.length_map, List.length_mapIdx]; done)
    | (refine ⟨?_, ?_⟩ <;> simp only [modAt_length, setAt_length, List.length_map, List.length_mapIdx]; done)

theorem scoreFrame_kept {z : State} {scores : List BeamScores} {vib : List Int} {s : State} (kz : Kept z s) : Kept z (scoreFrame scores vib s) := by
  unfold scoreFrame
  repeat'
    first
    | (extract_lets -merge -useContext -underBinder +onlyGivenNames x; apply Kept.cut (x := x); rotate_left; intro hx; clear_value x; rotate_left; dsimp only [x]; clear x)
    | (extract_lets -merge -useContext -underBinder +onlyGivenNames x; subst x)
    | with_reducible assumption
    | with_reducible apply Kept.refl
    | with_reducible apply modDet_kept
    | with_reducible apply idle_kept
    | with_reducible apply enterCandidate_kept
    | with_reducible apply candidateFrame_kept
    | with_reducible apply Kept.ite
    | intro _
    | with_reducible rfl
    | split
    | with_reducible apply Kept.set
    | (simp only [lengths, modAt_length, setAt_length, List.length_map, List.length_mapIdx]; done)

theorem sensorTrigger_kept {z : State} {trig : Nat} {met : Nat → Plan → Bool} {s : State} (kz : Kept z s) : Kept z (sensorTrigger trig met s) := by
  unfold sensorTrigger
  repeat'
    first
    | (extract_lets -merge -useContext -underBinder +onlyGivenNames x; subst x)
    | with_reducible assumption
    | with_reducible apply Kept.refl
    | with_reducible apply Kept.foldl
    | with_reducible apply triggerPlan_kept
    | with_reducible apply Kept.ite
    | intro _

theorem levelTrigger_kept {z : State} {xs : List Int} {s : State} (kz : Kept z s) : Kept z (levelTrigger xs s) := by
  unfold levelTrigger
  repeat'
    first
    | with_reducible assumption
    | with_reducible apply Kept.refl
    | with_reducible apply sensorTrigger_kept
    | with_reducible apply Kept.ite
    | intro _
    | with_reducible rfl
    | split
    | with_reducible apply Kept.set
    | (simp only [lengths, modAt_length, setAt_length, List.length_map, List.length_mapIdx]; done)

theorem vibPeak_kept {z : State} {us : Nat} {x : Int} {s : State} {n : Nat} (kz : Kept z s) : Kept z (vibPeak us x s n) := by
  unfold vibPeak
  repeat'
    first
    | (extract_lets -merge -useContext -underBinder +onlyGivenNames x; apply Kept.cut (x := x); rotate_left; intro hx; clear_value x; rotate_left; dsimp only [x]; clear x)
    | (extract_lets -merge -useContext -underBinder +onlyGivenNames x; subst x)
    | with_reducible assumption
    | with_reducible apply Kept.refl
    | with_reducible apply modDrone_kept
    | with_reducible apply triggerPlan_kept
    | with_reducible apply Kept.ite
    | intro _
    | with_reducible rfl
    | split
    | with_reducible apply Kept.set
    | exact ⟨rfl, rfl⟩
    | (simp only [lengths, modAt_length, setAt_length, List.length_map, List.length_mapIdx]; done)
    | (refine ⟨?_, ?_⟩ <;> simp only [modAt_length, setAt_length, List.length_map, List.length_mapIdx]; done)

theorem takeVibration_kept {z : State} {xs : List (Nat × Int)} {s : State} (kz : Kept z s) : Kept z (takeVibration xs s) := by
  unfold takeVibration
  repeat'
    first
    | with_reducible assumption
    | with_reducible apply Kept.refl
    | with_reducible apply Kept.foldl
    | with_reducible apply vibPeak_kept
    | with_reducible apply Kept.ite
    | intro _
    | with_reducible rfl
    | split
    | with_reducible apply Kept.set
    | (simp only [lengths, modAt_length, setAt_length, List.length_map, List.length_mapIdx]; done)

theorem frameSensors_kept {z : State} {vib : List Int} {s : State} (kz : Kept z s) : Kept z (frameSensors vib s) := by
  unfold frameSensors
  repeat'
    first
    | (extract_lets -merge -useContext -underBinder +onlyGivenNames x; apply Kept.cut (x := x); rotate_left; intro hx; clear_value x; rotate_left; dsimp only [x]; clear x)
    | (extract_lets -merge -useContext -underBinder +onlyGivenNames x; subst x)
    | with_reducible assumption
    | with_reducible apply Kept.refl
    | with_reducible apply takeVibration_kept
    | with_reducible apply levelTrigger_kept
    | with_reducible apply Kept.ite
    | intro _
    | with_reducible rfl
    | split
    | with_reducible apply Kept.set
    | (simp only [lengths, modAt_length, setAt_length, List.length_map, List.length_mapIdx]; done)

theorem lateFrame_kept {z : State} {scoredUs : Nat} {s : State} (kz : Kept z s) : Kept z (lateFrame scoredUs s) := by
  unfold lateFrame
  repeat'
    first
    | with_reducible assumption
    | with_reducible apply Kept.refl
    | with_reducible apply drnEvent_kept
    | with_reducible apply Kept.ite
    | intro _
    | with_reducible rfl
    | split
    | with_reducible apply Kept.set
    | (simp only [lengths, modAt_length, setAt_length, List.length_map, List.length_mapIdx]; done)

theorem detectorFrame_kept {z : State} {heard : Heard} {tdm : List (List Nat)} {s : State} (kz : Kept z s) : Kept z (detectorFrame heard tdm s) := by
  unfold detectorFrame
  repeat'
    first
    | (extract_lets -merge -useContext -underBinder +onlyGivenNames x; apply Kept.cut (x := x); rotate_left; intro hx; clear_value x; rotate_left; dsimp only [x]; clear x)
    | (extract_lets -merge -useContext -underBinder +onlyGivenNames x; subst x)
    | with_reducible assumption
    | with_reducible apply Kept.refl
    | with_reducible apply scoreFrame_kept
    | with_reducible apply lateFrame_kept
    | with_reducible apply frameSensors_kept
    | with_reducible apply takeFeatures_kept
    | with_reducible apply capture_kept
    | with_reducible apply Kept.ite
    | intro _
    | with_reducible rfl
    | split
    | with_reducible apply Kept.set
    | (simp only [lengths, modAt_length, setAt_length, List.length_map, List.length_mapIdx]; done)

theorem execDetectorFrame_keptR {heard : Heard} {tdm : List (List Nat)} {s : State} : KeptR s (execDetectorFrame heard tdm s) := by
  unfold execDetectorFrame
  repeat'
    first
    | with_reducible assumption
    | with_reducible apply Kept.refl
    | with_reducible apply KeptR.unit
    | with_reducible apply KeptR.regWrite
    | with_reducible apply KeptR.ok
    | with_reducible apply KeptR.next
    | with_reducible apply KeptR.fault
    | with_reducible apply KeptR.refused
    | with_reducible apply detectorFrame_kept
    | with_reducible apply Kept.ite
    | intro _
    | with_reducible rfl
    | split
    | with_reducible apply Kept.set
    | (simp only [lengths, modAt_length, setAt_length, List.length_map, List.length_mapIdx]; done)

theorem execDetectorCandidateQuiet_keptR {s : State} : KeptR s (execDetectorCandidateQuiet s) := by
  unfold execDetectorCandidateQuiet
  repeat'
    first
    | with_reducible assumption
    | with_reducible apply Kept.refl
    | with_reducible apply KeptR.unit
    | with_reducible apply KeptR.regWrite
    | with_reducible apply KeptR.ok
    | with_reducible apply KeptR.next
    | with_reducible apply KeptR.fault
    | with_reducible apply Kept.when
    | with_reducible apply leaveCandidate_kept

theorem execDetectorCandidateTimeout_keptR {s : State} : KeptR s (execDetectorCandidateTimeout s) := by
  unfold execDetectorCandidateTimeout
  repeat'
    first
    | with_reducible assumption
    | with_reducible apply Kept.refl
    | with_reducible apply KeptR.unit
    | with_reducible apply KeptR.regWrite
    | with_reducible apply KeptR.ok
    | with_reducible apply KeptR.next
    | with_reducible apply KeptR.fault
    | with_reducible apply Kept.when
    | with_reducible apply leaveCandidate_kept

theorem execDetectorHoldoffExpiry_keptR {s : State} : KeptR s (execDetectorHoldoffExpiry s) := by
  unfold execDetectorHoldoffExpiry
  repeat'
    first
    | with_reducible assumption
    | with_reducible apply Kept.refl
    | with_reducible apply KeptR.unit
    | with_reducible apply KeptR.regWrite
    | with_reducible apply KeptR.ok
    | with_reducible apply KeptR.next
    | with_reducible apply KeptR.fault
    | with_reducible apply Kept.when
    | with_reducible apply modDet_kept

theorem openReplays_kept {z : State} {s : State} (kz : Kept z s) : Kept z (openReplays s) := by
  unfold openReplays
  repeat'
    first
    | (extract_lets -merge -useContext -underBinder +onlyGivenNames x; apply Kept.cut (x := x); rotate_left; intro hx; clear_value x; rotate_left; dsimp only [x]; clear x)
    | (extract_lets -merge -useContext -underBinder +onlyGivenNames x; subst x)
    | with_reducible assumption
    | with_reducible apply Kept.refl
    | with_reducible apply modDrone_kept
    | with_reducible apply Kept.ite
    | intro _
    | with_reducible rfl
    | split
    | with_reducible apply Kept.set
    | exact ⟨rfl, rfl⟩
    | (simp only [lengths, modAt_length, setAt_length, List.length_map, List.length_mapIdx]; done)
    | (refine ⟨?_, ?_⟩ <;> simp only [modAt_length, setAt_length, List.length_map, List.length_mapIdx]; done)

theorem execPrerollBlockBoundary_keptR {balls : List PdmEdges} {s : State} : KeptR s (execPrerollBlockBoundary balls s) := by
  unfold execPrerollBlockBoundary
  repeat'
    first
    | (extract_lets -merge -useContext -underBinder +onlyGivenNames x; apply KeptR.cut (x := x); rotate_left; intro hx; clear_value x; rotate_left; dsimp only [x]; clear x)
    | (extract_lets -merge -useContext -underBinder +onlyGivenNames x; apply Kept.cut (x := x); rotate_left; intro hx; clear_value x; rotate_left; dsimp only [x]; clear x)
    | (extract_lets -merge -useContext -underBinder +onlyGivenNames x; subst x)
    | with_reducible assumption
    | with_reducible apply Kept.refl
    | with_reducible apply KeptR.unit
    | with_reducible apply KeptR.regWrite
    | with_reducible apply KeptR.ok
    | with_reducible apply KeptR.next
    | with_reducible apply KeptR.fault
    | with_reducible apply KeptR.refused
    | with_reducible apply capture_kept
    | with_reducible apply openReplays_kept
    | with_reducible apply modDrone_kept
    | with_reducible apply Kept.ite
    | intro _
    | with_reducible rfl
    | split
    | with_reducible apply Kept.set
    | exact ⟨rfl, rfl⟩
    | (simp only [lengths, modAt_length, setAt_length, List.length_map, List.length_mapIdx]; done)
    | (refine ⟨?_, ?_⟩ <;> simp only [modAt_length, setAt_length, List.length_map, List.length_mapIdx]; done)

theorem applyConfig_kept {z : State} {c : Cmd} {s : State} (kz : Kept z s) : Kept z (applyConfig c s) := by
  unfold applyConfig
  repeat'
    first
    | (extract_lets -merge -useContext -underBinder +onlyGivenNames x; apply Kept.cut (x := x); rotate_left; intro hx; clear_value x; rotate_left; dsimp only [x]; clear x)
    | (extract_lets -merge -useContext -underBinder +onlyGivenNames x; subst x)
    | with_reducible assumption
    | with_reducible apply Kept.refl
    | with_reducible apply modDrone_kept
    | with_reducible apply modDet_kept
    | with_reducible apply leaveCandidate_kept
    | with_reducible apply idle_kept
    | with_reducible apply Kept.ite
    | intro _
    | with_reducible rfl
    | split
    | with_reducible apply Kept.set
    | (simp only [List.length_mapIdx]; done)
    | intro _
    | (refine ⟨?_, ?_⟩ <;> simp only [List.length_mapIdx]; done)

theorem queueConfig_kept {z : State} {c : Cmd} {s : State} (kz : Kept z s) : Kept z (queueConfig c s) := by
  unfold queueConfig
  repeat'
    first
    | (extract_lets -merge -useContext -underBinder +onlyGivenNames x; apply Kept.cut (x := x); rotate_left; intro hx; clear_value x; rotate_left; dsimp only [x]; clear x)
    | (extract_lets -merge -useContext -underBinder +onlyGivenNames x; subst x)
    | with_reducible assumption
    | with_reducible apply Kept.refl
    | with_reducible apply stageDone_kept
    | with_reducible apply applyConfig_kept
    | with_reducible apply modCmd_kept
    | with_reducible apply modDrone_kept
    | with_reducible apply drnEvent_kept
    | with_reducible apply Kept.ite
    | intro _
    | with_reducible rfl
    | split
    | with_reducible apply Kept.set
    | (simp only [lengths, modAt_length, setAt_length, List.length_map, List.length_mapIdx]; done)
    | intro _
    | (refine ⟨?_, ?_⟩ <;> simp only [modAt_length, setAt_length, List.length_map, List.length_mapIdx]; done)

theorem runDroneConfig_kept {z : State} {c : Cmd} {s : State} (kz : Kept z s) : Kept z (runDroneConfig c s) := by
  unfold runDroneConfig
  repeat'
    first
    | with_reducible assumption
    | with_reducible apply Kept.refl
    | with_reducible apply failCmd_kept
    | with_reducible apply queueConfig_kept
    | with_reducible apply modCmd_kept
    | with_reducible apply Kept.ite
    | intro _
    | with_reducible rfl
    | split

theorem execDroneConfig_keptR {id : Nat} {s : State} : KeptR s (execDroneConfig id s) := by
  unfold execDroneConfig
  repeat'
    first
    | with_reducible assumption
    | with_reducible apply Kept.refl
    | with_reducible apply KeptR.unit
    | with_reducible apply KeptR.regWrite
    | with_reducible apply KeptR.ok
    | with_reducible apply KeptR.next
    | with_reducible apply KeptR.fault
    | with_reducible apply runReady_kept
    | with_reducible apply runDroneConfig_kept
    | intro _

theorem takeEffect_kept {z : State} {n : Nat} {s : State} (kz : Kept z s) : Kept z (takeEffect n s) := by
  induction n generalizing s with
  | zero => exact kz
  | succ n ih =>
    unfold takeEffect
    split
    · exact kz
    · exact kz
    · have h := modDrone_kept (g := fun d => { d with waitingCfg := ‹_› }) kz (fun _ => ⟨rfl, rfl⟩)
      refine ih ?_
      split
      · exact h
      · exact Kept.ite (fun _ => h) (fun _ => Kept.ite (fun _ => stageDone_kept (drnEvent_kept (applyConfig_kept h)))
          (fun _ => stageDone_kept (applyConfig_kept h)))

theorem execDroneConfigTakeEffect_keptR {s : State} : KeptR s (execDroneConfigTakeEffect s) := by
  unfold execDroneConfigTakeEffect
  repeat'
    first
    | with_reducible assumption
    | with_reducible apply Kept.refl
    | with_reducible apply KeptR.unit
    | with_reducible apply KeptR.regWrite
    | with_reducible apply KeptR.ok
    | with_reducible apply KeptR.next
    | with_reducible apply KeptR.fault
    | with_reducible apply takeEffect_kept

theorem runWakePlanSet_kept {z : State} {c : Cmd} {s : State} (kz : Kept z s) : Kept z (runWakePlanSet c s) := by
  unfold runWakePlanSet
  repeat'
    first
    | (extract_lets -merge -useContext -underBinder +onlyGivenNames x; apply Kept.cut (x := x); rotate_left; intro hx; clear_value x; rotate_left; dsimp only [x]; clear x)
    | (extract_lets -merge -useContext -underBinder +onlyGivenNames x; subst x)
    | with_reducible assumption
    | with_reducible apply Kept.refl
    | with_reducible apply failCmd_kept
    | with_reducible apply endAttempt_kept
    | with_reducible apply modDrone_kept
    | with_reducible apply modPlan_kept
    | with_reducible apply stageDone_kept
    | with_reducible apply settlePower_kept
    | with_reducible apply chooseDepths_kept
    | with_reducible apply Kept.ite
    | intro _
    | with_reducible rfl
    | split
    | with_reducible apply Kept.set
    | exact ⟨rfl, rfl⟩
    | (simp only [lengths, modAt_length, setAt_length, List.length_map, List.length_mapIdx]; done)
    | (refine ⟨?_, ?_⟩ <;> simp only [modAt_length, setAt_length, List.length_map, List.length_mapIdx]; done)

theorem execWakePlanSet_keptR {id : Nat} {s : State} : KeptR s (execWakePlanSet id s) := by
  unfold execWakePlanSet
  repeat'
    first
    | with_reducible assumption
    | with_reducible apply Kept.refl
    | with_reducible apply KeptR.unit
    | with_reducible apply KeptR.regWrite
    | with_reducible apply KeptR.ok
    | with_reducible apply KeptR.next
    | with_reducible apply KeptR.fault
    | with_reducible apply runReady_kept
    | with_reducible apply runWakePlanSet_kept
    | intro _

theorem execVibSample_keptR {miso : Bytes} {s : State} : KeptR s (execVibSample miso s) := by
  unfold execVibSample
  repeat'
    first
    | with_reducible assumption
    | with_reducible apply Kept.refl
    | with_reducible apply KeptR.unit
    | with_reducible apply KeptR.regWrite
    | with_reducible apply KeptR.ok
    | with_reducible apply KeptR.next
    | with_reducible apply KeptR.fault
    | with_reducible apply KeptR.refused
    | with_reducible apply takeVibration_kept
    | with_reducible apply modDrone_kept
    | with_reducible apply Kept.ite
    | intro _
    | with_reducible rfl
    | split
    | with_reducible apply Kept.set
    | exact ⟨rfl, rfl⟩
    | (simp only [lengths, modAt_length, setAt_length, List.length_map, List.length_mapIdx]; done)
    | (refine ⟨?_, ?_⟩ <;> simp only [modAt_length, setAt_length, List.length_map, List.length_mapIdx]; done)

theorem execLevelSample_keptR {bits : List Bool} {s : State} : KeptR s (execLevelSample bits s) := by
  unfold execLevelSample
  repeat'
    first
    | (extract_lets -merge -useContext -underBinder +onlyGivenNames x; apply KeptR.cut (x := x); rotate_left; intro hx; clear_value x; rotate_left; dsimp only [x]; clear x)
    | (extract_lets -merge -useContext -underBinder +onlyGivenNames x; apply Kept.cut (x := x); rotate_left; intro hx; clear_value x; rotate_left; dsimp only [x]; clear x)
    | (extract_lets -merge -useContext -underBinder +onlyGivenNames x; subst x)
    | with_reducible assumption
    | with_reducible apply Kept.refl
    | with_reducible apply KeptR.unit
    | with_reducible apply KeptR.regWrite
    | with_reducible apply KeptR.ok
    | with_reducible apply KeptR.next
    | with_reducible apply KeptR.fault
    | with_reducible apply KeptR.refused
    | with_reducible apply levelTrigger_kept
    | with_reducible apply Kept.ite
    | intro _
    | with_reducible rfl
    | split
    | with_reducible apply Kept.set
    | (simp only [lengths, modAt_length, setAt_length, List.length_map, List.length_mapIdx]; done)

theorem execCameraMotionSample_keptR {frame : TapFrame} {s : State} : KeptR s (execCameraMotionSample frame s) := by
  unfold execCameraMotionSample
  repeat'
    first
    | (extract_lets -merge -useContext -underBinder +onlyGivenNames x; apply KeptR.cut (x := x); rotate_left; intro hx; clear_value x; rotate_left; dsimp only [x]; clear x)
    | (extract_lets -merge -useContext -underBinder +onlyGivenNames x; apply Kept.cut (x := x); rotate_left; intro hx; clear_value x; rotate_left; dsimp only [x]; clear x)
    | (extract_lets -merge -useContext -underBinder +onlyGivenNames x; subst x)
    | with_reducible assumption
    | with_reducible apply Kept.refl
    | with_reducible apply KeptR.unit
    | with_reducible apply KeptR.regWrite
    | with_reducible apply KeptR.ok
    | with_reducible apply KeptR.next
    | with_reducible apply KeptR.fault
    | with_reducible apply KeptR.refused
    | with_reducible apply sensorTrigger_kept
    | with_reducible apply modDrone_kept
    | with_reducible apply Kept.ite
    | intro _
    | with_reducible rfl
    | split
    | with_reducible apply Kept.set
    | exact ⟨rfl, rfl⟩
    | (simp only [lengths, modAt_length, setAt_length, List.length_map, List.length_mapIdx]; done)
    | (refine ⟨?_, ?_⟩ <;> simp only [modAt_length, setAt_length, List.length_map, List.length_mapIdx]; done)

theorem execCamSampleTimeout_keptR {s : State} : KeptR s (execCamSampleTimeout s) := by
  unfold execCamSampleTimeout
  repeat'
    first
    | with_reducible assumption
    | with_reducible apply Kept.refl
    | with_reducible apply KeptR.unit
    | with_reducible apply KeptR.regWrite
    | with_reducible apply KeptR.ok
    | with_reducible apply KeptR.next
    | with_reducible apply KeptR.fault
    | with_reducible apply KeptR.refused
    | with_reducible apply drnEvent_kept
    | with_reducible apply Kept.ite
    | intro _
    | with_reducible rfl
    | split
    | with_reducible apply Kept.set
    | (simp only [lengths, modAt_length, setAt_length, List.length_map, List.length_mapIdx]; done)

theorem execVibFault_keptR {s : State} : KeptR s (execVibFault s) := by
  unfold execVibFault
  repeat'
    first
    | with_reducible assumption
    | with_reducible apply Kept.refl
    | with_reducible apply KeptR.unit
    | with_reducible apply KeptR.regWrite
    | with_reducible apply KeptR.ok
    | with_reducible apply KeptR.next
    | with_reducible apply KeptR.fault
    | with_reducible apply drnEvent_kept

theorem execPdmFault_keptR {mic : Nat} {s : State} : KeptR s (execPdmFault mic s) := by
  unfold execPdmFault
  repeat'
    first
    | with_reducible assumption
    | with_reducible apply Kept.refl
    | with_reducible apply KeptR.unit
    | with_reducible apply KeptR.regWrite
    | with_reducible apply KeptR.ok
    | with_reducible apply KeptR.next
    | with_reducible apply KeptR.fault
    | with_reducible apply drnEvent_kept
    | with_reducible apply modDrone_kept
    | with_reducible apply Kept.ite
    | intro _
    | with_reducible rfl
    | split
    | with_reducible apply Kept.set
    | (simp only [lengths, modAt_length, setAt_length, List.length_map, List.length_mapIdx]; done)
    | intro _
    | (refine ⟨?_, ?_⟩ <;> simp only [modAt_length, setAt_length, List.length_map, List.length_mapIdx]; done)

theorem execDrnPlanKick_keptR {func : Nat} {value : Nat} {s : State} : KeptR s (execDrnPlanKick func value s) := by
  unfold execDrnPlanKick
  repeat'
    first
    | with_reducible assumption
    | with_reducible apply Kept.refl
    | with_reducible apply KeptR.unit
    | with_reducible apply KeptR.regWrite
    | with_reducible apply KeptR.ok
    | with_reducible apply KeptR.next
    | with_reducible apply KeptR.fault
    | with_reducible apply sensorTrigger_kept
    | with_reducible apply Kept.ite
    | intro _

theorem targetsOn_kept {z : State} {p : Nat} {mask : Nat} {s : State} (kz : Kept z s) : Kept z (targetsOn p mask s) := by
  unfold targetsOn
  repeat'
    first
    | (extract_lets -merge -useContext -underBinder +onlyGivenNames x; subst x)
    | with_reducible assumption
    | with_reducible apply Kept.refl
    | with_reducible apply Kept.ite
    | intro _
    | with_reducible rfl
    | split
    | with_reducible apply Kept.set
    | (simp only [lengths, List.length_mapIdx]; done)

theorem ackPlan_kept {z : State} {func : Nat} {n : Nat} {s : State} (kz : Kept z s) : Kept z (ackPlan func n s) := by
  unfold ackPlan
  repeat'
    first
    | (extract_lets -merge -useContext -underBinder +onlyGivenNames x; apply Kept.cut (x := x); rotate_left; intro hx; clear_value x; rotate_left; dsimp only [x]; clear x)
    | with_reducible assumption
    | with_reducible apply Kept.refl
    | with_reducible apply chooseDepths_kept
    | with_reducible apply targetsOn_kept
    | with_reducible apply settlePower_kept
    | with_reducible apply modPlan_kept
    | with_reducible apply dropPreload_kept
    | with_reducible apply Kept.ite
    | intro _

theorem execDrnPlanAck_keptR {func : Nat} {value : Nat} {s : State} : KeptR s (execDrnPlanAck func value s) := by
  unfold execDrnPlanAck
  repeat'
    first
    | with_reducible assumption
    | with_reducible apply Kept.refl
    | with_reducible apply KeptR.unit
    | with_reducible apply KeptR.regWrite
    | with_reducible apply KeptR.ok
    | with_reducible apply KeptR.next
    | with_reducible apply KeptR.fault
    | with_reducible apply Kept.foldl
    | with_reducible apply ackPlan_kept
    | with_reducible apply Kept.ite
    | intro _

theorem execPlanHoldExpiry_keptR {plan : Nat} {s : State} : KeptR s (execPlanHoldExpiry plan s) := by
  unfold execPlanHoldExpiry
  repeat'
    first
    | with_reducible assumption
    | with_reducible apply Kept.refl
    | with_reducible apply KeptR.unit
    | with_reducible apply KeptR.regWrite
    | with_reducible apply KeptR.ok
    | with_reducible apply KeptR.next
    | with_reducible apply KeptR.fault
    | with_reducible apply wakeEvent_kept
    | with_reducible apply drnEvent_kept
    | with_reducible apply endAttempt_kept
    | with_reducible apply Kept.ite
    | intro _

theorem execVerifierScore_keptR {plan : Nat} {score : Nat} {s : State} : KeptR s (execVerifierScore plan score s) := by
  unfold execVerifierScore
  repeat'
    first
    | (extract_lets -merge -useContext -underBinder +onlyGivenNames x; apply KeptR.cut (x := x); rotate_left; intro hx; clear_value x; rotate_left; dsimp only [x]; clear x)
    | (extract_lets -merge -useContext -underBinder +onlyGivenNames x; apply Kept.cut (x := x); rotate_left; intro hx; clear_value x; rotate_left; dsimp only [x]; clear x)
    | (extract_lets -merge -useContext -underBinder +onlyGivenNames x; subst x)
    | with_reducible assumption
    | with_reducible apply Kept.refl
    | with_reducible apply KeptR.unit
    | with_reducible apply KeptR.regWrite
    | with_reducible apply KeptR.ok
    | with_reducible apply KeptR.next
    | with_reducible apply KeptR.fault
    | with_reducible apply KeptR.refused
    | with_reducible apply modPlan_kept
    | with_reducible apply acceptPlan_kept
    | with_reducible apply wakeEvent_kept
    | with_reducible apply modDrone_kept
    | with_reducible apply endAttempt_kept
    | with_reducible apply Kept.ite
    | intro _
    | with_reducible rfl
    | split
    | with_reducible apply Kept.set
    | exact ⟨rfl, rfl⟩
    | (simp only [lengths, modAt_length, setAt_length, List.length_map, List.length_mapIdx]; done)
    | (refine ⟨?_, ?_⟩ <;> simp only [modAt_length, setAt_length, List.length_map, List.length_mapIdx]; done)

theorem execPreloadStart_keptR {plan : Nat} {s : State} : KeptR s (execPreloadStart plan s) := by
  unfold execPreloadStart
  repeat'
    first
    | (extract_lets -merge -useContext -underBinder +onlyGivenNames x; subst x)
    | with_reducible assumption
    | with_reducible apply Kept.refl
    | with_reducible apply KeptR.unit
    | with_reducible apply KeptR.regWrite
    | with_reducible apply KeptR.ok
    | with_reducible apply KeptR.next
    | with_reducible apply KeptR.fault
    | with_reducible apply modPlan_kept
    | with_reducible apply openPass_kept
    | with_reducible apply Kept.ite
    | intro _
    | with_reducible rfl
    | split

theorem runPrerollReplay_kept {z : State} {c : Cmd} {s : State} (kz : Kept z s) : Kept z (runPrerollReplay c s) := by
  unfold runPrerollReplay
  repeat'
    first
    | (extract_lets -merge -useContext -underBinder +onlyGivenNames x; apply Kept.cut (x := x); rotate_left; intro hx; clear_value x; rotate_left; dsimp only [x]; clear x)
    | (extract_lets -merge -useContext -underBinder +onlyGivenNames x; subst x)
    | with_reducible assumption
    | with_reducible apply Kept.refl
    | with_reducible apply failCmd_kept
    | with_reducible apply openReplays_kept
    | with_reducible apply stageDone_kept
    | with_reducible apply drnEvent_kept
    | with_reducible apply Kept.ite
    | intro _
    | with_reducible rfl
    | split
    | with_reducible apply Kept.set
    | (simp only [lengths, modAt_length, setAt_length, List.length_map, List.length_mapIdx]; done)

theorem execPrerollReplay_keptR {id : Nat} {s : State} : KeptR s (execPrerollReplay id s) := by
  unfold execPrerollReplay
  repeat'
    first
    | with_reducible assumption
    | with_reducible apply Kept.refl
    | with_reducible apply KeptR.unit
    | with_reducible apply KeptR.regWrite
    | with_reducible apply KeptR.ok
    | with_reducible apply KeptR.next
    | with_reducible apply KeptR.fault
    | with_reducible apply runReady_kept
    | with_reducible apply runPrerollReplay_kept
    | intro _

end Sys2Proof.Laws
end

