-- ==== Sys2Proof/Laws/KeptResets.lean ====
section
/-! SUPPORT. Laws/KeptResets.lean: every operation of Machine/Resets.lean keeps what `Kept` says. -/

set_option Elab.async false

namespace Sys2Proof.Laws
open Sys2Proof Sys2Proof.Machine

theorem reopenInstall_kept {z : State} {c : Cmd} {s : State} (kz : Kept z s) : Kept z (reopenInstall c s) := by
  unfold reopenInstall
  repeat'
    first
    | with_reducible assumption
    | with_reducible apply Kept.refl
    | with_reducible apply modInstall_kept
    | with_reducible apply Kept.ite
    | intro _
    | with_reducible rfl
    | split

theorem letGo_kept {z : State} {c : Cmd} {s : State} (kz : Kept z s) : Kept z (letGo c s) := by
  unfold letGo
  repeat'
    first
    | (extract_lets -merge -useContext -underBinder +onlyGivenNames x; apply Kept.cut (x := x); rotate_left; intro hx; clear_value x; rotate_left; dsimp only [x]; clear x)
    | with_reducible assumption
    | with_reducible apply Kept.refl
    | with_reducible apply leaveQueue_kept
    | with_reducible apply leavePasses_kept
    | with_reducible apply modDrone_kept
    | with_reducible rfl
    | split
    | with_reducible apply Kept.set
    | (simp only [lengths, modAt_length, setAt_length, List.length_map, List.length_mapIdx]; done)
    | intro _
    | (refine ⟨?_, ?_⟩ <;> simp only [modAt_length, setAt_length, List.length_map, List.length_mapIdx]; done)

theorem undo_kept {z : State} {c : Cmd} {s : State} (kz : Kept z s) : Kept z (undo c s) := by
  unfold undo
  repeat'
    first
    | with_reducible assumption
    | with_reducible apply Kept.refl
    | with_reducible apply Kept.when
    | with_reducible apply letGo_kept
    | with_reducible apply reopenSession_kept
    | with_reducible apply reopenInstall_kept
    | with_reducible apply dropHandover_kept
    | with_reducible apply dropStagedCopies_kept
    | with_reducible apply dropForming_kept
    | with_reducible apply safetyRunKilled_kept
    | with_reducible apply markDiscarded_kept
    | with_reducible apply Kept.ite
    | intro _
    | with_reducible rfl
    | split
    | with_reducible apply Kept.set
    | (simp only [lengths, modAt_length, setAt_length, List.length_map, List.length_mapIdx]; done)

theorem killReset_kept {z : State} {c : Cmd} {s : State} (kz : Kept z s) : Kept z (killReset c s) := by
  unfold killReset
  repeat'
    first
    | with_reducible assumption
    | with_reducible apply Kept.refl
    | with_reducible apply retire_kept
    | with_reducible apply undo_kept

theorem disableRings_kept {z : State} {f : Nat} {s : State} (kz : Kept z s) : Kept z (disableRings f s) := by
  unfold disableRings
  repeat'
    first
    | with_reducible assumption
    | with_reducible apply Kept.refl
    | with_reducible apply Kept.foldl
    | with_reducible apply modRing_kept
    | intro _

theorem safetyReset_kept {z : State} {fs : List Nat} {s : State} (kz : Kept z s) : Kept z (safetyReset fs s) := by
  unfold safetyReset
  repeat'
    first
    | with_reducible assumption
    | with_reducible apply Kept.refl
    | with_reducible apply latch_kept
    | with_reducible apply Kept.ite
    | intro _
    | with_reducible rfl
    | split

theorem resetFunction_kept {z : State} {f : Nat} {s : State} (kz : Kept z s) : Kept z (resetFunction f s) := by
  unfold resetFunction
  repeat'
    first
    | (extract_lets -merge -useContext -underBinder +onlyGivenNames x; apply Kept.cut (x := x); rotate_left; intro hx; clear_value x; rotate_left; dsimp only [x]; clear x)
    | with_reducible assumption
    | with_reducible apply Kept.refl
    | with_reducible apply Kept.foldl
    | with_reducible apply killReset_kept
    | with_reducible apply releaseBinds_kept
    | with_reducible apply closeSessions_kept
    | with_reducible apply leaveConf_kept
    | with_reducible apply modHifFunc_kept
    | with_reducible apply disableRings_kept
    | intro _

theorem settleAll_kept {z : State} {src : Option (Nat × Nat)} {s : State} (kz : Kept z s) : Kept z (settleAll src s) := by
  unfold settleAll
  repeat'
    first
    | with_reducible assumption
    | with_reducible apply Kept.refl
    | with_reducible apply dispatch_kept
    | with_reducible apply settlePower_kept
    | with_reducible apply sweepVersions_kept
    | with_reducible apply pinMore_kept
    | with_reducible apply settlePins_kept
    | with_reducible apply sweepOld_kept
    | with_reducible apply settleStream_kept
    | with_reducible apply grantPrograms_kept
    | with_reducible apply settleCompaction_kept
    | with_reducible apply Kept.ite
    | intro _
    | with_reducible rfl
    | split
    | with_reducible apply Kept.set
    | (simp only [lengths, modAt_length, setAt_length, List.length_map, List.length_mapIdx]; done)

theorem physReset_kept {z : State} {p : Nat} {s : State} (kz : Kept z s) : Kept z (physReset p s) := by
  unfold physReset
  repeat'
    first
    | (extract_lets -merge -useContext -underBinder +onlyGivenNames x; subst x)
    | with_reducible assumption
    | with_reducible apply Kept.refl
    | with_reducible apply suspendPort_kept
    | with_reducible rfl
    | split
    | with_reducible apply Kept.set
    | (simp only [lengths, setAt_length]; done)

theorem resetFunctions_kept {z : State} {p n : Nat} {fs : List Nat} {s : State} (kz : Kept z s) : Kept z (resetFunctions p n fs s) := by
  unfold resetFunctions
  repeat'
    first
    | (extract_lets -merge -useContext -underBinder +onlyGivenNames x; apply Kept.cut (x := x); rotate_left; intro hx; clear_value x; rotate_left; dsimp only [x]; clear x)
    | (extract_lets -merge -useContext -underBinder +onlyGivenNames x; subst x)
    | with_reducible assumption
    | with_reducible apply Kept.refl
    | with_reducible apply Kept.foldl
    | with_reducible apply resetFunction_kept
    | with_reducible apply safetyReset_kept
    | with_reducible apply physReset_kept
    | with_reducible apply Kept.ite
    | intro _
    | with_reducible rfl
    | split
    | with_reducible apply Kept.set
    | (simp only [lengths, modAt_length]; done)

theorem execFunctionLevelReset_keptR {func : Nat} {s : State} : KeptR s (execFunctionLevelReset func s) := by
  unfold execFunctionLevelReset
  repeat'
    first
    | with_reducible assumption
    | with_reducible apply Kept.refl
    | with_reducible apply KeptR.unit
    | with_reducible apply KeptR.regWrite
    | with_reducible apply KeptR.ok
    | with_reducible apply KeptR.next
    | with_reducible apply KeptR.fault
    | with_reducible apply settleAll_kept
    | with_reducible apply resetFunctions_kept
    | with_reducible apply Kept.ite
    | intro _

theorem execVfEnableChange_keptR {port : Nat} {enable : Bool} {numVfs : Nat} {s : State} : KeptR s (execVfEnableChange port enable numVfs s) := by
  unfold execVfEnableChange
  repeat'
    first
    | (extract_lets -merge -useContext -underBinder +onlyGivenNames x; apply KeptR.cut (x := x); rotate_left; intro hx; clear_value x; rotate_left; dsimp only [x]; clear x)
    | (extract_lets -merge -useContext -underBinder +onlyGivenNames x; subst x)
    | with_reducible assumption
    | with_reducible apply Kept.refl
    | with_reducible apply KeptR.unit
    | with_reducible apply KeptR.regWrite
    | with_reducible apply KeptR.ok
    | with_reducible apply KeptR.next
    | with_reducible apply KeptR.fault
    | with_reducible apply modPort_kept
    | with_reducible apply settleAll_kept
    | with_reducible apply resetFunctions_kept
    | with_reducible apply Kept.ite
    | intro _

theorem clearFunction_kept {z : State} {f : Nat} {s : State} (kz : Kept z s) : Kept z (clearFunction f s) := by
  unfold clearFunction
  repeat'
    first
    | (extract_lets -merge -useContext -underBinder +onlyGivenNames x; apply Kept.cut (x := x); rotate_left; intro hx; clear_value x; rotate_left; dsimp only [x]; clear x)
    | (extract_lets -merge -useContext -underBinder +onlyGivenNames x; subst x)
    | with_reducible assumption
    | with_reducible apply Kept.refl
    | with_reducible apply modFuncCfg_kept
    | with_reducible apply modHifFunc_kept
    | with_reducible rfl
    | split
    | with_reducible apply Kept.set
    | (simp only [lengths, setAt_length]; done)

theorem clearRings_kept {z : State} {p : Nat} {s : State} (kz : Kept z s) : Kept z (clearRings p s) := by
  unfold clearRings
  repeat'
    first
    | (extract_lets -merge -useContext -underBinder +onlyGivenNames x; subst x)
    | with_reducible assumption
    | with_reducible apply Kept.refl
    | with_reducible apply Kept.ite
    | intro _
    | with_reducible rfl
    | split
    | with_reducible apply Kept.set
    | (simp only [lengths]; done)

theorem clearPort_kept {z : State} {p : Nat} {s : State} (kz : Kept z s) : Kept z (clearPort p s) := by
  unfold clearPort
  repeat'
    first
    | with_reducible assumption
    | with_reducible apply Kept.refl
    | with_reducible apply modPort_kept

theorem resetPort_kept {z : State} {p : Nat} {s : State} (kz : Kept z s) : Kept z (resetPort p s) := by
  unfold resetPort
  repeat'
    first
    | (extract_lets -merge -useContext -underBinder +onlyGivenNames x; apply Kept.cut (x := x); rotate_left; intro hx; clear_value x; rotate_left; dsimp only [x]; clear x)
    | (extract_lets -merge -useContext -underBinder +onlyGivenNames x; subst x)
    | with_reducible assumption
    | with_reducible apply Kept.refl
    | with_reducible apply Kept.foldl
    | with_reducible apply resetFunction_kept
    | with_reducible apply safetyReset_kept
    | with_reducible apply physReset_kept
    | with_reducible apply clearPort_kept
    | with_reducible apply clearRings_kept
    | with_reducible apply clearFunction_kept
    | intro _
    | with_reducible rfl
    | split
    | with_reducible apply Kept.set
    | (simp only [lengths, modAt_length]; done)

theorem keptFwu_slots (s : State) : (keptFwu s).slots.length = s.fwu.slots.length := by
  unfold keptFwu
  dsimp only
  split
  · exact setAt_length ..
  · rfl

theorem afterPowerOn_shaped {s : State} (w : Shaped s) : Shaped (afterPowerOn s) where
  functions := rfl
  mmus := rfl
  groups := rfl
  keys := rfl
  hits := rfl
  misses := rfl
  evictions := rfl
  frets := rfl
  strings := rfl
  proposals := rfl
  hotPins := rfl
  quotas := rfl
  vport := rfl
  vfunc := rfl
  bstateSel := rfl
  conf := rfl
  wcopyBase := rfl
  wcopySize := rfl
  slots := (keptFwu_slots s).trans w.slots
  installSel := rfl
  portCount := rfl
  flr := rfl
  plans := rfl
  preroll := rfl
  cameras := rfl
  domains := rfl
  ports := rfl
  funcCfgs := rfl
  capoStrings := rfl
  tempSel := rfl
  supplySel := rfl
  sensors := rfl
  rails := rfl
  fwSel := rfl
  diagSel := rfl

theorem targetsOnAll_kept {z : State} {p : Nat} {s : State} (kz : Kept z s) : Kept z (targetsOnAll p s) := by
  unfold targetsOnAll
  repeat'
    first
    | (extract_lets -merge -useContext -underBinder +onlyGivenNames x; subst x)
    | with_reducible assumption
    | with_reducible apply Kept.refl
    | with_reducible rfl
    | split
    | with_reducible apply Kept.set
    | (simp only [lengths, List.length_map]; done)

theorem portReset_kept {z : State} {p : Nat} {s : State} (kz : Kept z s) : Kept z (portReset p s) := by
  unfold portReset
  repeat'
    first
    | with_reducible assumption
    | with_reducible apply Kept.refl
    | with_reducible apply settleAll_kept
    | with_reducible apply chooseDepths_kept
    | with_reducible apply targetsOnAll_kept
    | with_reducible apply resetPort_kept

theorem execHotReset_keptR {port : Nat} {s : State} : KeptR s (execHotReset port s) := by
  unfold execHotReset
  repeat'
    first
    | with_reducible assumption
    | with_reducible apply Kept.refl
    | with_reducible apply KeptR.unit
    | with_reducible apply KeptR.regWrite
    | with_reducible apply KeptR.ok
    | with_reducible apply KeptR.next
    | with_reducible apply KeptR.fault
    | with_reducible apply Kept.when
    | with_reducible apply portReset_kept

theorem execPerstNAssert_keptR {port : Nat} {s : State} : KeptR s (execPerstNAssert port s) := by
  unfold execPerstNAssert
  repeat'
    first
    | with_reducible assumption
    | with_reducible apply Kept.refl
    | with_reducible apply KeptR.unit
    | with_reducible apply KeptR.regWrite
    | with_reducible apply KeptR.ok
    | with_reducible apply KeptR.next
    | with_reducible apply KeptR.fault
    | with_reducible apply settleAll_kept
    | with_reducible apply modPort_kept
    | with_reducible apply resetPort_kept
    | with_reducible apply Kept.ite
    | intro _

theorem execPerstNRelease_keptR {port : Nat} {s : State} : KeptR s (execPerstNRelease port s) := by
  unfold execPerstNRelease
  repeat'
    first
    | (extract_lets -merge -useContext -underBinder +onlyGivenNames x; apply KeptR.cut (x := x); rotate_left; intro hx; clear_value x; rotate_left; dsimp only [x]; clear x)
    | with_reducible assumption
    | with_reducible apply Kept.refl
    | with_reducible apply KeptR.unit
    | with_reducible apply KeptR.regWrite
    | with_reducible apply KeptR.ok
    | with_reducible apply KeptR.next
    | with_reducible apply KeptR.fault
    | with_reducible apply modPort_kept
    | with_reducible apply settleAll_kept
    | with_reducible apply chooseDepths_kept
    | with_reducible apply targetsOnAll_kept
    | with_reducible apply Kept.ite
    | intro _

theorem drawKeys_kept {z s : State} (kz : Kept z s) : Kept z (drawKeys s) := by
  unfold drawKeys
  exact drawn_kept (kz.trans ⟨rfl, rfl, rfl, rfl, id, id, Nat.le_refl _, .inl rfl, fun w => { w with keys := rfl }⟩)

theorem afterPowerOn_kept {z s : State} (kz : Kept z s) : Kept z (afterPowerOn s) := by
  refine kz.trans ⟨rfl, rfl, rfl, rfl, fun w => ?_, fun _ _ => ⟨rfl, rfl⟩, Nat.le_refl _, .inr rfl, afterPowerOn_shaped⟩
  rw [Mem.wf_iff] at w ⊢
  intro sp
  cases sp with
  | hostA => exact w .hostA
  | hostB => exact w .hostB
  | dev => rfl

theorem afterWarm_shaped {cause rail : Nat} {s : State} (w : Shaped s) : Shaped (afterWarm cause rail s) :=
  { afterPowerOn_shaped w with
    portCount := w.portCount
    flr := w.flr
    bstateSel := rfl
    plans := (List.length_map _).trans w.plans
    preroll := w.preroll
    sensors := w.sensors
    conf := rfl, wcopyBase := rfl, wcopySize := rfl, domains := rfl, ports := rfl, funcCfgs := rfl }

theorem afterWarm_kept {z : State} {cause rail : Nat} {s : State} (kz : Kept z s) : Kept z (afterWarm cause rail s) := by
  have k := afterPowerOn_kept (Kept.refl s)
  exact kz.trans ⟨rfl, rfl, rfl, rfl, k.mem, fun _ _ => ⟨rfl, rfl⟩, Nat.le_refl _, .inl rfl, afterWarm_shaped⟩

theorem startDevice_kept {z : State} {cold : Bool} {s : State} (kz : Kept z s) : Kept z (startDevice cold s) := by
  unfold startDevice
  repeat'
    first
    | (extract_lets -merge -useContext -underBinder +onlyGivenNames x; apply Kept.cut (x := x); rotate_left; intro hx; clear_value x; rotate_left; dsimp only [x]; clear x)
    | (extract_lets -merge -useContext -underBinder +onlyGivenNames x; subst x)
    | with_reducible assumption
    | with_reducible apply Kept.refl
    | with_reducible apply drawKeys_kept
    | with_reducible apply settlePower_kept
    | with_reducible apply suspendPort_kept
    | with_reducible rfl
    | split
    | with_reducible apply Kept.set

theorem warmReset_kept {z : State} {cause : Nat} {rail : Nat} {s : State} (kz : Kept z s) : Kept z (warmReset cause rail s) := by
  unfold warmReset
  repeat'
    first
    | with_reducible assumption
    | with_reducible apply Kept.refl
    | with_reducible apply startDevice_kept
    | with_reducible apply afterWarm_kept
    | with_reducible apply Kept.ite
    | intro _

theorem holdPowerOn_kept {z : State} {s : State} (kz : Kept z s) : Kept z (holdPowerOn s) := by
  have k := afterPowerOn_kept (Kept.refl s)
  exact kz.trans ⟨rfl, rfl, rfl, rfl, k.mem, fun _ _ => ⟨rfl, rfl⟩, Nat.le_refl _, .inr rfl, fun w =>
    { afterPowerOn_shaped w with ports := rfl, funcCfgs := rfl }⟩

theorem execSuppliesValid_keptR {s : State} : KeptR s (execSuppliesValid s) := by
  unfold execSuppliesValid
  refine KeptR.ok (Kept.ite (fun _ => Kept.refl s) (fun _ => startDevice_kept ?_))
  have k := afterPowerOn_kept (Kept.refl s)
  exact ⟨rfl, rfl, rfl, rfl, k.mem, fun _ _ => ⟨rfl, rfl⟩, Nat.le_refl _, .inr rfl, fun w =>
    { afterPowerOn_shaped w with portCount := rfl, flr := rfl, ports := rfl, funcCfgs := rfl }⟩

theorem execResetNAssert_keptR {s : State} : KeptR s (execResetNAssert s) := by
  unfold execResetNAssert
  repeat'
    first
    | with_reducible assumption
    | with_reducible apply Kept.refl
    | with_reducible apply KeptR.unit
    | with_reducible apply KeptR.regWrite
    | with_reducible apply KeptR.ok
    | with_reducible apply KeptR.next
    | with_reducible apply KeptR.fault
    | with_reducible apply warmReset_kept

theorem execRstCtrlWarm_keptR {func : Nat} {value : Nat} {s : State} : KeptR s (execRstCtrlWarm func value s) := by
  unfold execRstCtrlWarm
  repeat'
    first
    | with_reducible assumption
    | with_reducible apply Kept.refl
    | with_reducible apply KeptR.unit
    | with_reducible apply KeptR.regWrite
    | with_reducible apply KeptR.ok
    | with_reducible apply KeptR.next
    | with_reducible apply KeptR.fault
    | with_reducible apply Kept.when
    | with_reducible apply warmReset_kept

theorem execPegWatchdogExpiry_keptR {s : State} : KeptR s (execPegWatchdogExpiry s) := by
  unfold execPegWatchdogExpiry
  repeat'
    first
    | with_reducible assumption
    | with_reducible apply Kept.refl
    | with_reducible apply KeptR.unit
    | with_reducible apply KeptR.regWrite
    | with_reducible apply KeptR.ok
    | with_reducible apply KeptR.next
    | with_reducible apply KeptR.fault
    | with_reducible apply Kept.when
    | with_reducible apply warmReset_kept

theorem execJtagExtest_keptR {s : State} : KeptR s (execJtagExtest s) := by
  unfold execJtagExtest
  refine KeptR.ok ?_
  extract_lets _ s1
  have h1 : Kept s s1 := Kept.set (Kept.refl s) rfl rfl rfl
  split
  · have h2 : Kept s1 (afterWarm s.rst.cause s.rst.rail s1) := afterWarm_kept (Kept.refl s1)
    refine h1.trans ⟨h2.pending, h2.variant, h2.stepping, h2.serial, h2.mem, h2.pins, h2.secVer, h2.time, fun w => ?_⟩
    exact { h2.shape w with portCount := w.portCount, flr := w.flr }
  · exact h1

theorem startEngine_kept {z : State} {e : EngineReset} {s : State} (kz : Kept z s) : Kept z (startEngine e s) := by
  unfold startEngine
  repeat'
    first
    | (extract_lets -merge -useContext -underBinder +onlyGivenNames x; apply Kept.cut (x := x); rotate_left; intro hx; clear_value x; rotate_left; dsimp only [x]; clear x)
    | (extract_lets -merge -useContext -underBinder +onlyGivenNames x; subst x)
    | with_reducible assumption
    | with_reducible apply Kept.refl
    | with_reducible apply Kept.foldl
    | with_reducible apply rerunQuietly_kept
    | with_reducible apply modString_kept
    | with_reducible apply evictString_kept
    | with_reducible apply modFret_kept
    | with_reducible apply Kept.ite
    | intro _
    | with_reducible rfl
    | split
    | with_reducible apply Kept.set
    | (simp only [lengths]; done)

theorem execRstEngineStart_keptR {func : Nat} {value : Nat} {s : State} : KeptR s (execRstEngineStart func value s) := by
  unfold execRstEngineStart
  repeat'
    first
    | (extract_lets -merge -useContext -underBinder +onlyGivenNames x; apply KeptR.cut (x := x); rotate_left; intro hx; clear_value x; rotate_left; dsimp only [x]; clear x)
    | (extract_lets -merge -useContext -underBinder +onlyGivenNames x; apply Kept.cut (x := x); rotate_left; intro hx; clear_value x; rotate_left; dsimp only [x]; clear x)
    | (extract_lets -merge -useContext -underBinder +onlyGivenNames x; subst x)
    | with_reducible assumption
    | with_reducible apply Kept.refl
    | with_reducible apply KeptR.unit
    | with_reducible apply KeptR.regWrite
    | with_reducible apply KeptR.ok
    | with_reducible apply KeptR.next
    | with_reducible apply KeptR.fault
    | with_reducible apply KeptR.refused
    | with_reducible apply settleDispatch_kept
    | with_reducible apply startEngine_kept
    | with_reducible apply Kept.ite
    | intro _
    | with_reducible rfl
    | split
    | with_reducible apply Kept.set
    | (simp only [lengths, modAt_length, setAt_length, List.length_map, List.length_mapIdx]; done)

theorem zeroEngine_kept {z : State} {e : EngineReset} {s : State} (kz : Kept z s) : Kept z (zeroEngine e s) := by
  unfold zeroEngine
  repeat'
    first
    | (extract_lets -merge -useContext -underBinder +onlyGivenNames x; apply Kept.cut (x := x); rotate_left; intro hx; clear_value x; rotate_left; dsimp only [x]; clear x)
    | with_reducible assumption
    | with_reducible apply Kept.refl
    | with_reducible apply Kept.foldl
    | with_reducible apply zeroFret_kept
    | with_reducible apply zeroBuffer_kept
    | with_reducible apply Kept.ite
    | intro _

theorem execEngineResetDone_keptR {passed : Bool} {s : State} : KeptR s (execEngineResetDone passed s) := by
  unfold execEngineResetDone
  repeat'
    first
    | (extract_lets -merge -useContext -underBinder +onlyGivenNames x; apply KeptR.cut (x := x); rotate_left; intro hx; clear_value x; rotate_left; dsimp only [x]; clear x)
    | (extract_lets -merge -useContext -underBinder +onlyGivenNames x; apply Kept.cut (x := x); rotate_left; intro hx; clear_value x; rotate_left; dsimp only [x]; clear x)
    | (extract_lets -merge -useContext -underBinder +onlyGivenNames x; subst x)
    | with_reducible assumption
    | with_reducible apply Kept.refl
    | with_reducible apply KeptR.unit
    | with_reducible apply KeptR.regWrite
    | with_reducible apply KeptR.ok
    | with_reducible apply KeptR.next
    | with_reducible apply KeptR.fault
    | with_reducible apply KeptR.refused
    | with_reducible apply Kept.foldl
    | with_reducible apply zeroEngine_kept
    | with_reducible apply modString_kept
    | with_reducible apply modFret_kept
    | with_reducible apply settleDispatch_kept
    | with_reducible apply quarantineFret_kept
    | with_reducible apply Kept.ite
    | intro _
    | with_reducible rfl
    | split
    | with_reducible apply Kept.set
    | (simp only [lengths, modAt_length, setAt_length, List.length_map, List.length_mapIdx]; done)

end Sys2Proof.Laws
end

