-- ==== Sys2Proof/Laws/KeptPower.lean ====
section
/-! SUPPORT. Laws/KeptPower.lean: every operation of Machine/Power.lean keeps what `Kept` says. -/

set_option Elab.async false

namespace Sys2Proof.Laws
open Sys2Proof Sys2Proof.Machine

theorem applyTargets_kept {z : State} {p : Nat} {b : Bytes} {s : State} (kz : Kept z s) : Kept z (applyTargets p b s) := by
  unfold applyTargets
  repeat'
    first
    | (extract_lets -merge -useContext -underBinder +onlyGivenNames x; subst x)
    | with_reducible assumption
    | with_reducible apply Kept.refl
    | with_reducible apply Kept.ite
    | intro _
    | with_reducible rfl
    | split
    | with_reducible apply Kept.set
    | (simp only [lengths, List.length_mapIdx]; done)

theorem runDomainSet_kept {z : State} {c : Cmd} {s : State} (kz : Kept z s) : Kept z (runDomainSet c s) := by
  unfold runDomainSet
  repeat'
    first
    | (extract_lets -merge -useContext -underBinder +onlyGivenNames x; apply Kept.cut (x := x); rotate_left; intro hx; clear_value x; rotate_left; dsimp only [x]; clear x)
    | (extract_lets -merge -useContext -underBinder +onlyGivenNames x; subst x)
    | with_reducible assumption
    | with_reducible apply Kept.refl
    | with_reducible apply failCmd_kept
    | with_reducible apply hostChanged_kept
    | with_reducible apply chooseDepths_kept
    | with_reducible apply applyTargets_kept
    | with_reducible apply settlePower_kept
    | with_reducible apply settleDispatch_kept
    | with_reducible apply settleDomainSets_kept
    | with_reducible apply modCmd_kept
    | with_reducible apply Kept.ite
    | intro _
    | with_reducible rfl
    | split
    | with_reducible apply Kept.set
    | (simp only [lengths, modAt_length, setAt_length, List.length_map, List.length_mapIdx]; done)

theorem execDomainSet_keptR {id : Nat} {s : State} : KeptR s (execDomainSet id s) := by
  unfold execDomainSet
  repeat'
    first
    | with_reducible assumption
    | with_reducible apply Kept.refl
    | with_reducible apply KeptR.unit
    | with_reducible apply KeptR.regWrite
    | with_reducible apply KeptR.ok
    | with_reducible apply KeptR.next
    | with_reducible apply KeptR.fault
    | with_reducible apply runReady_kept
    | with_reducible apply runDomainSet_kept
    | intro _

theorem execPowerGood_keptR {rail : Nat} {s : State} : KeptR s (execPowerGood rail s) := by
  unfold execPowerGood
  repeat'
    first
    | (extract_lets -merge -useContext -underBinder +onlyGivenNames x; apply KeptR.cut (x := x); rotate_left; intro hx; clear_value x; rotate_left; dsimp only [x]; clear x)
    | (extract_lets -merge -useContext -underBinder +onlyGivenNames x; subst x)
    | with_reducible assumption
    | with_reducible apply Kept.refl
    | with_reducible apply KeptR.unit
    | with_reducible apply KeptR.regWrite
    | with_reducible apply KeptR.ok
    | with_reducible apply KeptR.next
    | with_reducible apply KeptR.fault
    | with_reducible apply Kept.foldl
    | with_reducible apply assertEnables_kept
    | with_reducible apply Kept.ite
    | intro _
    | with_reducible rfl
    | split
    | with_reducible apply Kept.set
    | (simp only [lengths]; done)

theorem execPowerGoodTimeout_keptR {rail : Nat} {s : State} : KeptR s (execPowerGoodTimeout rail s) := by
  unfold execPowerGoodTimeout
  repeat'
    first
    | (extract_lets -merge -useContext -underBinder +onlyGivenNames x; subst x)
    | with_reducible assumption
    | with_reducible apply Kept.refl
    | with_reducible apply KeptR.unit
    | with_reducible apply KeptR.regWrite
    | with_reducible apply KeptR.ok
    | with_reducible apply KeptR.next
    | with_reducible apply KeptR.fault
    | with_reducible apply Kept.ite
    | intro _
    | with_reducible rfl
    | split
    | with_reducible apply Kept.set
    | (simp only [lengths]; done)

theorem execPowerSwitchReady_keptR {domain : Nat} {s : State} : KeptR s (execPowerSwitchReady domain s) := by
  unfold execPowerSwitchReady
  repeat'
    first
    | with_reducible assumption
    | with_reducible apply Kept.refl
    | with_reducible apply KeptR.unit
    | with_reducible apply KeptR.regWrite
    | with_reducible apply KeptR.ok
    | with_reducible apply KeptR.next
    | with_reducible apply KeptR.fault
    | with_reducible apply Kept.when
    | with_reducible apply modDomain_kept

theorem startClocks_kept {z : State} {d : Nat} {s : State} (kz : Kept z s) : Kept z (startClocks d s) := by
  unfold startClocks
  repeat'
    first
    | (extract_lets -merge -useContext -underBinder +onlyGivenNames x; subst x)
    | with_reducible assumption
    | with_reducible apply Kept.refl
    | with_reducible rfl
    | split
    | with_reducible apply Kept.set

theorem stopClocks_kept {z : State} {d : Nat} {s : State} (kz : Kept z s) : Kept z (stopClocks d s) := by
  unfold stopClocks
  repeat'
    first
    | (extract_lets -merge -useContext -underBinder +onlyGivenNames x; subst x)
    | with_reducible assumption
    | with_reducible apply Kept.refl
    | with_reducible rfl
    | split
    | with_reducible apply Kept.set

theorem execClockLock_keptR {domain : Nat} {s : State} : KeptR s (execClockLock domain s) := by
  unfold execClockLock
  repeat'
    first
    | with_reducible assumption
    | with_reducible apply Kept.refl
    | with_reducible apply KeptR.unit
    | with_reducible apply KeptR.regWrite
    | with_reducible apply KeptR.ok
    | with_reducible apply KeptR.next
    | with_reducible apply KeptR.fault
    | with_reducible apply Kept.when
    | with_reducible apply startClocks_kept
    | with_reducible apply modDomain_kept

theorem zeroBanks_kept {z : State} {j : Nat} {mask : Nat} {s : State} (kz : Kept z s) : Kept z (zeroBanks j mask s) := by
  unfold zeroBanks
  repeat'
    first
    | with_reducible assumption
    | with_reducible apply Kept.refl
    | with_reducible apply Kept.foldl
    | with_reducible apply zeroDev_kept
    | intro _

theorem lostBanks_kept {z : State} {d : Nat} {mask : Nat} {s : State} (kz : Kept z s) : Kept z (lostBanks d mask s) := by
  unfold lostBanks
  repeat'
    first
    | (extract_lets -merge -useContext -underBinder +onlyGivenNames x; apply Kept.cut (x := x); rotate_left; intro hx; clear_value x; rotate_left; dsimp only [x]; clear x)
    | (extract_lets -merge -useContext -underBinder +onlyGivenNames x; subst x)
    | with_reducible assumption
    | with_reducible apply Kept.refl
    | with_reducible apply Kept.foldl
    | with_reducible apply modDomain_kept
    | with_reducible apply zeroBanks_kept
    | with_reducible apply evictBank_kept
    | with_reducible apply Kept.ite
    | intro _
    | with_reducible rfl
    | split
    | with_reducible apply Kept.set
    | (simp only [lengths]; done)

theorem trainDdr_kept {z : State} {found : MemoryPhase} {s : State} (kz : Kept z s) : Kept z (trainDdr found s) := by
  unfold trainDdr
  repeat'
    first
    | (extract_lets -merge -useContext -underBinder +onlyGivenNames x; subst x)
    | with_reducible assumption
    | with_reducible apply Kept.refl
    | with_reducible apply chooseDepths_kept
    | with_reducible apply Kept.ite
    | intro _
    | with_reducible rfl
    | split
    | with_reducible apply Kept.set
    | (simp only [lengths]; done)

theorem execMemoryPhaseDone_keptR {domain : Nat} {found : MemoryPhase} {s : State} : KeptR s (execMemoryPhaseDone domain found s) := by
  unfold execMemoryPhaseDone
  repeat'
    first
    | (extract_lets -merge -useContext -underBinder +onlyGivenNames x; apply KeptR.cut (x := x); rotate_left; intro hx; clear_value x; rotate_left; dsimp only [x]; clear x)
    | with_reducible assumption
    | with_reducible apply Kept.refl
    | with_reducible apply KeptR.unit
    | with_reducible apply KeptR.regWrite
    | with_reducible apply KeptR.ok
    | with_reducible apply KeptR.next
    | with_reducible apply KeptR.fault
    | with_reducible apply lostBanks_kept
    | with_reducible apply trainDdr_kept
    | with_reducible apply modDomain_kept
    | with_reducible apply Kept.ite
    | intro _

theorem loseDdr_kept {z : State} {s : State} (kz : Kept z s) : Kept z (loseDdr s) := by
  unfold loseDdr
  repeat'
    first
    | with_reducible assumption
    | with_reducible apply Kept.refl
    | with_reducible apply zeroDev_kept

theorem restoreFailed_kept {z : State} {d : Nat} {s : State} (kz : Kept z s) : Kept z (restoreFailed d s) := by
  unfold restoreFailed
  repeat'
    first
    | (extract_lets -merge -useContext -underBinder +onlyGivenNames x; apply Kept.cut (x := x); rotate_left; intro hx; clear_value x; rotate_left; dsimp only [x]; clear x)
    | (extract_lets -merge -useContext -underBinder +onlyGivenNames x; subst x)
    | with_reducible assumption
    | with_reducible apply Kept.refl
    | with_reducible apply modDomain_kept
    | with_reducible apply loseDdr_kept
    | with_reducible apply Kept.ite
    | intro _
    | with_reducible rfl
    | split
    | with_reducible apply Kept.set
    | (simp only [lengths, modAt_length, setAt_length, List.length_map, List.length_mapIdx, offBegins_bstateSel]; done)

theorem reachStage_kept {z : State} {n : Nat} {s : State} (kz : Kept z s) : Kept z (reachStage n s) := by
  unfold reachStage
  repeat'
    first
    | (extract_lets -merge -useContext -underBinder +onlyGivenNames x; subst x)
    | with_reducible assumption
    | with_reducible apply Kept.refl
    | with_reducible rfl
    | split
    | with_reducible apply Kept.set

theorem domainUp_kept {z : State} {d : Nat} {s : State} (kz : Kept z s) : Kept z (domainUp d s) := by
  unfold domainUp
  repeat'
    first
    | (extract_lets -merge -useContext -underBinder +onlyGivenNames x; apply Kept.cut (x := x); rotate_left; intro hx; clear_value x; rotate_left; dsimp only [x]; clear x)
    | with_reducible assumption
    | with_reducible apply Kept.refl
    | with_reducible apply reachStage_kept
    | with_reducible apply boot_kept
    | with_reducible apply mountKeys_kept
    | with_reducible apply mountStore_kept
    | with_reducible apply Kept.ite
    | intro _
    | with_reducible rfl
    | split

theorem verifiersSwitch_kept {z : State} {s : State} (kz : Kept z s) : Kept z (verifiersSwitch s) := by
  unfold verifiersSwitch
  repeat'
    first
    | with_reducible assumption
    | with_reducible apply Kept.refl
    | with_reducible apply Kept.foldl
    | with_reducible apply switchVerifier_kept
    | with_reducible apply Kept.ite
    | intro _

theorem execLogicPhaseDone_keptR {domain : Nat} {saveCrcOk : Bool} {s : State} : KeptR s (execLogicPhaseDone domain saveCrcOk s) := by
  unfold execLogicPhaseDone
  repeat'
    first
    | (extract_lets -merge -useContext -underBinder +onlyGivenNames x; apply KeptR.cut (x := x); rotate_left; intro hx; clear_value x; rotate_left; dsimp only [x]; clear x)
    | (extract_lets -merge -useContext -underBinder +onlyGivenNames x; apply Kept.cut (x := x); rotate_left; intro hx; clear_value x; rotate_left; dsimp only [x]; clear x)
    | (extract_lets -merge -useContext -underBinder +onlyGivenNames x; subst x)
    | with_reducible assumption
    | with_reducible apply Kept.refl
    | with_reducible apply KeptR.unit
    | with_reducible apply KeptR.regWrite
    | with_reducible apply KeptR.ok
    | with_reducible apply KeptR.next
    | with_reducible apply KeptR.fault
    | with_reducible apply KeptR.refused
    | with_reducible apply restoreFailed_kept
    | with_reducible apply modDomain_kept
    | with_reducible apply domainUp_kept
    | with_reducible apply settleDispatch_kept
    | with_reducible apply verifiersSwitch_kept
    | with_reducible apply settlePower_kept
    | with_reducible apply Kept.ite
    | intro _
    | with_reducible rfl
    | split
    | with_reducible apply Kept.set
    | (simp only [lengths, modAt_length, setAt_length, List.length_map, List.length_mapIdx]; done)

theorem execStartFretTestDone_keptR {failed : List Nat} {s : State} : KeptR s (execStartFretTestDone failed s) := by
  unfold execStartFretTestDone
  repeat'
    first
    | (extract_lets -merge -useContext -underBinder +onlyGivenNames x; apply KeptR.cut (x := x); rotate_left; intro hx; clear_value x; rotate_left; dsimp only [x]; clear x)
    | (extract_lets -merge -useContext -underBinder +onlyGivenNames x; apply Kept.cut (x := x); rotate_left; intro hx; clear_value x; rotate_left; dsimp only [x]; clear x)
    | (extract_lets -merge -useContext -underBinder +onlyGivenNames x; subst x)
    | with_reducible assumption
    | with_reducible apply Kept.refl
    | with_reducible apply KeptR.unit
    | with_reducible apply KeptR.regWrite
    | with_reducible apply KeptR.ok
    | with_reducible apply KeptR.next
    | with_reducible apply KeptR.fault
    | with_reducible apply KeptR.refused
    | with_reducible apply Kept.foldl
    | with_reducible apply quarantineFret_kept
    | with_reducible apply settleDispatch_kept
    | with_reducible apply Kept.ite
    | intro _
    | with_reducible rfl
    | split
    | with_reducible apply Kept.set
    | (simp only [lengths, modAt_length, setAt_length, List.length_map, List.length_mapIdx]; done)

theorem suspendInstalls_kept {z : State} {s : State} (kz : Kept z s) : Kept z (suspendInstalls s) := by
  unfold suspendInstalls
  repeat'
    first
    | with_reducible assumption
    | with_reducible apply Kept.refl
    | with_reducible apply Kept.foldl
    | with_reducible apply suspendInstall_kept
    | intro _

theorem execDomainPowerDownStart_keptR {domain : Nat} {s : State} : KeptR s (execDomainPowerDownStart domain s) := by
  unfold execDomainPowerDownStart
  repeat'
    first
    | (extract_lets -merge -useContext -underBinder +onlyGivenNames x; apply KeptR.cut (x := x); rotate_left; intro hx; clear_value x; rotate_left; dsimp only [x]; clear x)
    | (extract_lets -merge -useContext -underBinder +onlyGivenNames x; subst x)
    | with_reducible assumption
    | with_reducible apply Kept.refl
    | with_reducible apply KeptR.unit
    | with_reducible apply KeptR.regWrite
    | with_reducible apply KeptR.ok
    | with_reducible apply KeptR.next
    | with_reducible apply KeptR.fault
    | with_reducible apply suspendInstalls_kept
    | with_reducible apply flushDeltas_kept
    | with_reducible apply unmountStore_kept
    | with_reducible apply modDomain_kept
    | with_reducible apply Kept.ite
    | intro _

theorem loseHost_kept {z : State} {p : Nat} {s : State} (kz : Kept z s) : Kept z (loseHost p s) := by
  have k : Kept s (resetPort p s) := resetPort_kept (Kept.refl s)
  unfold loseHost
  generalize resetPort p s = t at k ⊢
  exact kz.trans ⟨k.pending, k.variant, k.stepping, k.serial, k.mem, k.pins, k.secVer, k.time, fun w =>
    { k.shape w with portCount := w.portCount, flr := (k.shape w).flr }⟩

theorem domainDown_kept {z : State} {d : Nat} {s : State} (kz : Kept z s) : Kept z (domainDown d s) := by
  unfold domainDown
  repeat'
    first
    | (extract_lets -merge -useContext -underBinder +onlyGivenNames x; apply Kept.cut (x := x); rotate_left; intro hx; clear_value x; rotate_left; dsimp only [x]; clear x)
    | (extract_lets -merge -useContext -underBinder +onlyGivenNames x; subst x)
    | with_reducible assumption
    | with_reducible apply Kept.refl
    | with_reducible apply zeroBuffer_kept
    | with_reducible apply zeroBanks_kept
    | with_reducible apply unconfigure_kept
    | with_reducible apply loseDdr_kept
    | with_reducible apply loseHost_kept
    | with_reducible apply Kept.ite
    | intro _
    | with_reducible rfl
    | split
    | with_reducible apply Kept.set
    | (simp only [lengths]; done)

theorem dropRails_kept {z : State} {d : Nat} {s : State} (kz : Kept z s) : Kept z (dropRails d s) := by
  unfold dropRails
  repeat'
    first
    | (extract_lets -merge -useContext -underBinder +onlyGivenNames x; subst x)
    | with_reducible assumption
    | with_reducible apply Kept.refl
    | with_reducible rfl
    | split
    | with_reducible apply Kept.set
    | (simp only [lengths]; done)

theorem execPowerDownDone_keptR {domain : Nat} {s : State} : KeptR s (execPowerDownDone domain s) := by
  unfold execPowerDownDone
  repeat'
    first
    | (extract_lets -merge -useContext -underBinder +onlyGivenNames x; apply KeptR.cut (x := x); rotate_left; intro hx; clear_value x; rotate_left; dsimp only [x]; clear x)
    | (extract_lets -merge -useContext -underBinder +onlyGivenNames x; subst x)
    | with_reducible assumption
    | with_reducible apply Kept.refl
    | with_reducible apply KeptR.unit
    | with_reducible apply KeptR.regWrite
    | with_reducible apply KeptR.ok
    | with_reducible apply KeptR.next
    | with_reducible apply KeptR.fault
    | with_reducible apply domainDown_kept
    | with_reducible apply stopClocks_kept
    | with_reducible apply modDomain_kept
    | with_reducible apply dropRails_kept
    | with_reducible apply settleAll_kept
    | with_reducible apply Kept.ite
    | intro _

theorem execAutoIdleExpiry_keptR {domain : Nat} {s : State} : KeptR s (execAutoIdleExpiry domain s) := by
  unfold execAutoIdleExpiry
  repeat'
    first
    | with_reducible assumption
    | with_reducible apply Kept.refl
    | with_reducible apply KeptR.unit
    | with_reducible apply KeptR.regWrite
    | with_reducible apply KeptR.ok
    | with_reducible apply KeptR.next
    | with_reducible apply KeptR.fault
    | with_reducible apply settleAll_kept
    | with_reducible apply startLeaving_kept
    | with_reducible apply Kept.ite
    | intro _

theorem execDdrTrainInvalidate_keptR {func : Nat} {s : State} : KeptR s (execDdrTrainInvalidate func s) := by
  unfold execDdrTrainInvalidate
  repeat'
    first
    | (extract_lets -merge -useContext -underBinder +onlyGivenNames x; subst x)
    | with_reducible assumption
    | with_reducible apply Kept.refl
    | with_reducible apply KeptR.unit
    | with_reducible apply KeptR.regWrite
    | with_reducible apply KeptR.ok
    | with_reducible apply KeptR.next
    | with_reducible apply KeptR.fault
    | with_reducible apply Kept.when
    | with_reducible apply chooseDepths_kept
    | with_reducible rfl
    | split
    | with_reducible apply Kept.set
    | (simp only [lengths]; done)

theorem wakeHost_kept {z : State} {s : State} {p : Nat} (kz : Kept z s) : Kept z (wakeHost s p) := by
  unfold wakeHost
  repeat'
    first
    | with_reducible assumption
    | with_reducible apply Kept.refl
    | with_reducible apply startBringup_kept
    | with_reducible apply recordWake_kept
    | with_reducible apply Kept.ite
    | intro _

theorem gapEnds_kept {z : State} {s : State} (kz : Kept z s) : Kept z (gapEnds s) := by
  unfold gapEnds
  repeat'
    first
    | with_reducible assumption
    | with_reducible apply Kept.refl
    | with_reducible apply Kept.foldl
    | with_reducible apply settleDispatch_kept
    | with_reducible apply settlePower_kept
    | with_reducible apply wakeHost_kept
    | with_reducible apply Kept.ite
    | intro _
    | with_reducible rfl
    | split
    | with_reducible apply Kept.set
    | (simp only [lengths, modAt_length, setAt_length, List.length_map, List.length_mapIdx]; done)

theorem execHandoverTakeover_keptR {snapshotCrcOk : Bool} {s : State} : KeptR s (execHandoverTakeover snapshotCrcOk s) := by
  unfold execHandoverTakeover
  repeat'
    first
    | (extract_lets -merge -useContext -underBinder +onlyGivenNames x; apply Kept.cut (x := x); rotate_left; intro hx; clear_value x; rotate_left; dsimp only [x]; clear x)
    | (extract_lets -merge -useContext -underBinder +onlyGivenNames x; subst x)
    | with_reducible assumption
    | with_reducible apply Kept.refl
    | with_reducible apply KeptR.unit
    | with_reducible apply KeptR.regWrite
    | with_reducible apply KeptR.ok
    | with_reducible apply KeptR.next
    | with_reducible apply KeptR.fault
    | with_reducible apply gapEnds_kept
    | with_reducible apply takeCharge_kept
    | with_reducible apply activationFailed_kept
    | with_reducible apply Kept.ite
    | intro _
    | with_reducible rfl
    | split
    | with_reducible apply Kept.set
    | (simp only [lengths]; done)

theorem execHandoverTimeout_keptR {s : State} : KeptR s (execHandoverTimeout s) := by
  unfold execHandoverTimeout
  repeat'
    first
    | (extract_lets -merge -useContext -underBinder +onlyGivenNames x; subst x)
    | with_reducible assumption
    | with_reducible apply Kept.refl
    | with_reducible apply KeptR.unit
    | with_reducible apply KeptR.regWrite
    | with_reducible apply KeptR.ok
    | with_reducible apply KeptR.next
    | with_reducible apply KeptR.fault
    | with_reducible apply gapEnds_kept
    | with_reducible apply activationFailed_kept
    | with_reducible rfl
    | split
    | with_reducible apply Kept.set
    | (simp only [lengths]; done)

end Sys2Proof.Laws
end

