-- ==== Sys2Proof/Laws/KeptCapo.lean ====
section
/-! SUPPORT. Laws/KeptCapo.lean: every operation of Machine/Capo.lean keeps what `Kept` says. -/

set_option Elab.async false

namespace Sys2Proof.Laws
open Sys2Proof Sys2Proof.Machine

theorem modCapoString_kept {z : State} {j : Nat} {g : CapoString → CapoString} {s : State} (kz : Kept z s) : Kept z (modCapoString j g s) := by
  unfold modCapoString
  repeat'
    first
    | (extract_lets -merge -useContext -underBinder +onlyGivenNames x; subst x)
    | with_reducible assumption
    | with_reducible apply Kept.refl
    | with_reducible rfl
    | split
    | with_reducible apply Kept.set
    | (simp only [lengths, modAt_length]; done)

theorem modRail_kept {z : State} {r : Nat} {g : Rail → Rail} {s : State} (kz : Kept z s) : Kept z (modRail r g s) := by
  unfold modRail
  repeat'
    first
    | (extract_lets -merge -useContext -underBinder +onlyGivenNames x; subst x)
    | with_reducible assumption
    | with_reducible apply Kept.refl
    | with_reducible rfl
    | split
    | with_reducible apply Kept.set
    | (simp only [lengths, modAt_length]; done)

theorem capoEvent_kept {z : State} {bits : Nat} {s : State} (kz : Kept z s) : Kept z (capoEvent bits s) := by
  unfold capoEvent
  repeat'
    first
    | (extract_lets -merge -useContext -underBinder +onlyGivenNames x; subst x)
    | with_reducible assumption
    | with_reducible apply Kept.refl
    | with_reducible rfl
    | split
    | with_reducible apply Kept.set
    | (simp only [lengths]; done)

theorem execCapoTick_keptR {strings : List StringPower} {outsideMw : Nat} {s : State} : KeptR s (execCapoTick strings outsideMw s) := by
  unfold execCapoTick
  repeat'
    first
    | (extract_lets -merge -useContext -underBinder +onlyGivenNames x; apply KeptR.cut (x := x); rotate_left; intro hx; clear_value x; rotate_left; dsimp only [x]; clear x)
    | (extract_lets -merge -useContext -underBinder +onlyGivenNames x; subst x)
    | with_reducible assumption
    | with_reducible apply Kept.refl
    | with_reducible apply KeptR.unit
    | with_reducible apply KeptR.regWrite
    | with_reducible apply KeptR.ok
    | with_reducible apply KeptR.next
    | with_reducible apply KeptR.fault
    | with_reducible apply drawn_kept
    | with_reducible apply capoEvent_kept
    | with_reducible apply Kept.ite
    | intro _
    | with_reducible rfl
    | split
    | with_reducible apply Kept.set
    | (simp only [lengths, List.length_mapIdx]; done)

theorem setBudget_kept {z : State} {s : State} (kz : Kept z s) : Kept z (setBudget s) := by
  unfold setBudget
  repeat'
    first
    | with_reducible assumption
    | with_reducible apply Kept.refl
    | with_reducible apply grantPrograms_kept
    | with_reducible apply Kept.ite
    | intro _
    | with_reducible rfl
    | split
    | with_reducible apply Kept.set
    | (simp only [lengths, modAt_length, setAt_length, List.length_map, List.length_mapIdx]; done)

theorem execPgmBudgetTick_keptR {s : State} : KeptR s (execPgmBudgetTick s) := by
  unfold execPgmBudgetTick
  repeat'
    first
    | with_reducible assumption
    | with_reducible apply Kept.refl
    | with_reducible apply KeptR.unit
    | with_reducible apply KeptR.regWrite
    | with_reducible apply KeptR.ok
    | with_reducible apply KeptR.next
    | with_reducible apply KeptR.fault
    | with_reducible apply setBudget_kept

theorem execAvsCurrentCheck_keptR {measuredMw : Nat} {s : State} : KeptR s (execAvsCurrentCheck measuredMw s) := by
  unfold execAvsCurrentCheck
  repeat'
    first
    | (extract_lets -merge -useContext -underBinder +onlyGivenNames x; subst x)
    | with_reducible assumption
    | with_reducible apply Kept.refl
    | with_reducible apply KeptR.unit
    | with_reducible apply KeptR.regWrite
    | with_reducible apply KeptR.ok
    | with_reducible apply KeptR.next
    | with_reducible apply KeptR.fault
    | with_reducible apply Kept.ite
    | intro _
    | with_reducible rfl
    | split
    | with_reducible apply Kept.set
    | (simp only [lengths]; done)

theorem execDroopCrossing_keptR {string : Nat} {detector : Nat} {level : Nat} {s : State} : KeptR s (execDroopCrossing string detector level s) := by
  unfold execDroopCrossing
  repeat'
    first
    | with_reducible assumption
    | with_reducible apply Kept.refl
    | with_reducible apply KeptR.unit
    | with_reducible apply KeptR.regWrite
    | with_reducible apply KeptR.ok
    | with_reducible apply KeptR.next
    | with_reducible apply KeptR.fault
    | with_reducible apply Kept.when
    | with_reducible apply modCapoString_kept

theorem execDroopRecovery_keptR {string : Nat} {s : State} : KeptR s (execDroopRecovery string s) := by
  unfold execDroopRecovery
  repeat'
    first
    | with_reducible assumption
    | with_reducible apply Kept.refl
    | with_reducible apply KeptR.unit
    | with_reducible apply KeptR.regWrite
    | with_reducible apply KeptR.ok
    | with_reducible apply KeptR.next
    | with_reducible apply KeptR.fault
    | with_reducible apply modCapoString_kept

theorem stuckDetector_kept {z : State} {j : Nat} {s : State} (kz : Kept z s) : Kept z (stuckDetector j s) := by
  unfold stuckDetector
  repeat'
    first
    | with_reducible assumption
    | with_reducible apply Kept.refl
    | with_reducible apply quarantineString_kept
    | with_reducible apply capoEvent_kept

theorem execDroopStuck_keptR {string : Nat} {detector : Nat} {s : State} : KeptR s (execDroopStuck string detector s) := by
  unfold execDroopStuck
  repeat'
    first
    | with_reducible assumption
    | with_reducible apply Kept.refl
    | with_reducible apply KeptR.unit
    | with_reducible apply KeptR.regWrite
    | with_reducible apply KeptR.ok
    | with_reducible apply KeptR.next
    | with_reducible apply KeptR.fault
    | with_reducible apply KeptR.refused
    | with_reducible apply settleDispatch_kept
    | with_reducible apply stuckDetector_kept
    | with_reducible apply Kept.ite
    | intro _
    | with_reducible rfl
    | split
    | with_reducible apply Kept.set
    | (simp only [lengths, modAt_length, setAt_length, List.length_map, List.length_mapIdx]; done)

theorem execDroopSelfCheck_keptR {failed : List (Nat × Nat)} {s : State} : KeptR s (execDroopSelfCheck failed s) := by
  unfold execDroopSelfCheck
  repeat'
    first
    | with_reducible assumption
    | with_reducible apply Kept.refl
    | with_reducible apply KeptR.unit
    | with_reducible apply KeptR.regWrite
    | with_reducible apply KeptR.ok
    | with_reducible apply KeptR.next
    | with_reducible apply KeptR.fault
    | with_reducible apply KeptR.refused
    | with_reducible apply Kept.foldl
    | with_reducible apply settleDispatch_kept
    | with_reducible apply stuckDetector_kept
    | with_reducible apply Kept.ite
    | intro _
    | with_reducible rfl
    | split
    | with_reducible apply Kept.set
    | (simp only [lengths, modAt_length, setAt_length, List.length_map, List.length_mapIdx]; done)

theorem tripDevice_kept {z s : State} (kz : Kept z s) : Kept z (tripDevice s) := by
  unfold tripDevice
  extract_lets s1 s2 _ _
  have h1 : Kept z s1 := dropStore_kept (loseHost_kept (loseHost_kept kz))
  have h2 : Kept z s2 := by
    dsimp only [s2]
    with_reducible apply Kept.foldl h1
    intro t _
    with_reducible refine stopClocks_kept (modDomain_kept (domainDown_kept (modDomain_kept ?_)))
    split
    · exact startLeaving_kept (Kept.refl t)
    · exact Kept.refl t
  clear_value s2
  exact h2.trans ⟨rfl, rfl, rfl, rfl, id, id, Nat.le_refl _, .inl rfl, shaped_of_lengths rfl⟩

theorem levelAction_kept {z : State} {l : Nat} {sensor : Nat} {s : State} (kz : Kept z s) : Kept z (levelAction l sensor s) := by
  unfold levelAction
  repeat'
    first
    | with_reducible assumption
    | with_reducible apply Kept.refl
    | with_reducible apply settleHints_kept
    | with_reducible apply tripDevice_kept
    | with_reducible apply pinsLow_kept
    | with_reducible apply latch_kept
    | with_reducible apply Kept.ite
    | intro _
    | with_reducible rfl
    | split
    | with_reducible apply Kept.set
    | (simp only [lengths, modAt_length, setAt_length, List.length_map, List.length_mapIdx]; done)

theorem enterLevel_kept {z : State} {sensor : Nat} {t : Int} {s : State} {l : Nat} (kz : Kept z s) : Kept z (enterLevel sensor t s l) := by
  unfold enterLevel
  repeat'
    first
    | (extract_lets -merge -useContext -underBinder +onlyGivenNames x; apply Kept.cut (x := x); rotate_left; intro hx; clear_value x; rotate_left; dsimp only [x]; clear x)
    | (extract_lets -merge -useContext -underBinder +onlyGivenNames x; subst x)
    | with_reducible assumption
    | with_reducible apply Kept.refl
    | with_reducible apply capoEvent_kept
    | with_reducible apply levelAction_kept
    | with_reducible apply postBoth_kept
    | with_reducible apply Kept.ite
    | intro _
    | with_reducible rfl
    | split
    | with_reducible apply Kept.set
    | (simp only [lengths, modAt_length, setAt_length, List.length_map, List.length_mapIdx]; done)

theorem holdStart_kept {z : State} {s : State} (kz : Kept z s) : Kept z (holdStart s) := by
  unfold holdStart
  repeat'
    first
    | (extract_lets -merge -useContext -underBinder +onlyGivenNames x; subst x)
    | with_reducible assumption
    | with_reducible apply Kept.refl
    | with_reducible apply Kept.ite
    | intro _
    | with_reducible rfl
    | split
    | with_reducible apply Kept.set

theorem execTempSample_keptR {sensor : Nat} {deciC : Int} {s : State} : KeptR s (execTempSample sensor deciC s) := by
  unfold execTempSample
  repeat'
    first
    | (extract_lets -merge -useContext -underBinder +onlyGivenNames x; apply KeptR.cut (x := x); rotate_left; intro hx; clear_value x; rotate_left; dsimp only [x]; clear x)
    | (extract_lets -merge -useContext -underBinder +onlyGivenNames x; apply Kept.cut (x := x); rotate_left; intro hx; clear_value x; rotate_left; dsimp only [x]; clear x)
    | (extract_lets -merge -useContext -underBinder +onlyGivenNames x; subst x)
    | with_reducible assumption
    | with_reducible apply Kept.refl
    | with_reducible apply KeptR.unit
    | with_reducible apply KeptR.regWrite
    | with_reducible apply KeptR.ok
    | with_reducible apply KeptR.next
    | with_reducible apply KeptR.fault
    | with_reducible apply KeptR.refused
    | with_reducible apply Kept.foldl
    | with_reducible apply enterLevel_kept
    | with_reducible apply holdStart_kept
    | with_reducible apply Kept.ite
    | intro _
    | with_reducible rfl
    | split
    | with_reducible apply Kept.set
    | (simp only [lengths, modAt_length, setAt_length, List.length_map, List.length_mapIdx]; done)

theorem execThermalCapStep_keptR {s : State} : KeptR s (execThermalCapStep s) := by
  unfold execThermalCapStep
  repeat'
    first
    | (extract_lets -merge -useContext -underBinder +onlyGivenNames x; apply KeptR.cut (x := x); rotate_left; intro hx; clear_value x; rotate_left; dsimp only [x]; clear x)
    | (extract_lets -merge -useContext -underBinder +onlyGivenNames x; apply Kept.cut (x := x); rotate_left; intro hx; clear_value x; rotate_left; dsimp only [x]; clear x)
    | (extract_lets -merge -useContext -underBinder +onlyGivenNames x; subst x)
    | with_reducible assumption
    | with_reducible apply Kept.refl
    | with_reducible apply KeptR.unit
    | with_reducible apply KeptR.regWrite
    | with_reducible apply KeptR.ok
    | with_reducible apply KeptR.next
    | with_reducible apply KeptR.fault
    | with_reducible apply KeptR.refused
    | with_reducible apply settleHints_kept
    | with_reducible apply Kept.ite
    | intro _
    | with_reducible rfl
    | split
    | with_reducible apply Kept.set
    | (simp only [lengths, modAt_length, setAt_length, List.length_map, List.length_mapIdx]; done)

theorem execThermalLevelExit_keptR {level : Nat} {s : State} : KeptR s (execThermalLevelExit level s) := by
  unfold execThermalLevelExit
  repeat'
    first
    | (extract_lets -merge -useContext -underBinder +onlyGivenNames x; apply KeptR.cut (x := x); rotate_left; intro hx; clear_value x; rotate_left; dsimp only [x]; clear x)
    | (extract_lets -merge -useContext -underBinder +onlyGivenNames x; subst x)
    | with_reducible assumption
    | with_reducible apply Kept.refl
    | with_reducible apply KeptR.unit
    | with_reducible apply KeptR.regWrite
    | with_reducible apply KeptR.ok
    | with_reducible apply KeptR.next
    | with_reducible apply KeptR.fault
    | with_reducible apply postBoth_kept
    | with_reducible apply Kept.ite
    | intro _
    | with_reducible rfl
    | split
    | with_reducible apply Kept.set
    | (simp only [lengths]; done)

theorem beginDip_kept {z : State} {s : State} (kz : Kept z s) : Kept z (beginDip s) := by
  unfold beginDip
  repeat'
    first
    | (extract_lets -merge -useContext -underBinder +onlyGivenNames x; apply Kept.cut (x := x); rotate_left; intro hx; clear_value x; rotate_left; dsimp only [x]; clear x)
    | (extract_lets -merge -useContext -underBinder +onlyGivenNames x; subst x)
    | with_reducible assumption
    | with_reducible apply Kept.refl
    | with_reducible apply settleHints_kept
    | with_reducible apply capoEvent_kept
    | with_reducible apply Kept.ite
    | intro _
    | with_reducible rfl
    | split
    | with_reducible apply Kept.set
    | (simp only [lengths, modAt_length, setAt_length, List.length_map, List.length_mapIdx]; done)

theorem enterDip_kept {z : State} {s : State} (kz : Kept z s) : Kept z (enterDip s) := by
  unfold enterDip
  repeat'
    first
    | (extract_lets -merge -useContext -underBinder +onlyGivenNames x; apply Kept.cut (x := x); rotate_left; intro hx; clear_value x; rotate_left; dsimp only [x]; clear x)
    | (extract_lets -merge -useContext -underBinder +onlyGivenNames x; subst x)
    | with_reducible assumption
    | with_reducible apply Kept.refl
    | with_reducible apply beginDip_kept
    | with_reducible apply setBudget_kept
    | with_reducible apply capoEvent_kept
    | with_reducible apply Kept.ite
    | intro _
    | with_reducible rfl
    | split
    | with_reducible apply Kept.set
    | (simp only [lengths]; done)

theorem execSupplyWarningCrossing_keptR {rail : Nat} {mv : Nat} {s : State} : KeptR s (execSupplyWarningCrossing rail mv s) := by
  unfold execSupplyWarningCrossing
  repeat'
    first
    | (extract_lets -merge -useContext -underBinder +onlyGivenNames x; apply KeptR.cut (x := x); rotate_left; intro hx; clear_value x; rotate_left; dsimp only [x]; clear x)
    | with_reducible assumption
    | with_reducible apply Kept.refl
    | with_reducible apply KeptR.unit
    | with_reducible apply KeptR.regWrite
    | with_reducible apply KeptR.ok
    | with_reducible apply KeptR.next
    | with_reducible apply KeptR.fault
    | with_reducible apply modRail_kept
    | with_reducible apply enterDip_kept
    | with_reducible apply Kept.ite
    | intro _

theorem execSupplyRecovered_keptR {rail : Nat} {mv : Nat} {minMv : Nat} {belowUs : Nat} {s : State} : KeptR s (execSupplyRecovered rail mv minMv belowUs s) := by
  unfold execSupplyRecovered
  repeat'
    first
    | (extract_lets -merge -useContext -underBinder +onlyGivenNames x; apply KeptR.cut (x := x); rotate_left; intro hx; clear_value x; rotate_left; dsimp only [x]; clear x)
    | (extract_lets -merge -useContext -underBinder +onlyGivenNames x; subst x)
    | with_reducible assumption
    | with_reducible apply Kept.refl
    | with_reducible apply KeptR.unit
    | with_reducible apply KeptR.regWrite
    | with_reducible apply KeptR.ok
    | with_reducible apply KeptR.next
    | with_reducible apply KeptR.fault
    | with_reducible apply modRail_kept
    | with_reducible apply postBoth_kept
    | with_reducible apply Kept.ite
    | intro _
    | with_reducible rfl
    | split
    | with_reducible apply Kept.set
    | (simp only [lengths]; done)

theorem execDipHoldoffExpiry_keptR {s : State} : KeptR s (execDipHoldoffExpiry s) := by
  unfold execDipHoldoffExpiry
  repeat'
    first
    | (extract_lets -merge -useContext -underBinder +onlyGivenNames x; subst x)
    | with_reducible assumption
    | with_reducible apply Kept.refl
    | with_reducible apply KeptR.unit
    | with_reducible apply KeptR.regWrite
    | with_reducible apply KeptR.ok
    | with_reducible apply KeptR.next
    | with_reducible apply KeptR.fault
    | with_reducible apply setBudget_kept
    | with_reducible apply Kept.ite
    | intro _
    | with_reducible rfl
    | split
    | with_reducible apply Kept.set
    | (simp only [lengths, List.length_map]; done)

theorem execStormCapEnd_keptR {s : State} : KeptR s (execStormCapEnd s) := by
  unfold execStormCapEnd
  repeat'
    first
    | with_reducible assumption
    | with_reducible apply Kept.refl
    | with_reducible apply KeptR.unit
    | with_reducible apply KeptR.regWrite
    | with_reducible apply KeptR.ok
    | with_reducible apply KeptR.next
    | with_reducible apply KeptR.fault
    | with_reducible apply KeptR.refused
    | with_reducible apply Kept.when
    | with_reducible apply settleHints_kept
    | with_reducible apply Kept.ite
    | intro _
    | with_reducible rfl
    | split
    | with_reducible apply Kept.set
    | (simp only [lengths, modAt_length, setAt_length, List.length_map, List.length_mapIdx]; done)

theorem flashFault_kept {z : State} {s : State} (kz : Kept z s) : Kept z (flashFault s) := by
  unfold flashFault
  repeat'
    first
    | (extract_lets -merge -useContext -underBinder +onlyGivenNames x; apply Kept.cut (x := x); rotate_left; intro hx; clear_value x; rotate_left; dsimp only [x]; clear x)
    | (extract_lets -merge -useContext -underBinder +onlyGivenNames x; subst x)
    | with_reducible assumption
    | with_reducible apply Kept.refl
    | with_reducible apply Kept.foldl
    | with_reducible apply capoEvent_kept
    | with_reducible apply failPass_kept
    | with_reducible apply suspendInstalls_kept
    | with_reducible apply retireBlock_kept
    | with_reducible apply stopClocks_kept
    | with_reducible apply modDomain_kept
    | with_reducible apply dropStore_kept
    | with_reducible apply settlePower_kept
    | with_reducible apply dropRails_kept
    | intro _
    | with_reducible rfl
    | split
    | with_reducible apply Kept.set

theorem islandReset_kept {z : State} {s : State} (kz : Kept z s) : Kept z (islandReset s) := by
  unfold islandReset
  repeat'
    first
    | (extract_lets -merge -useContext -underBinder +onlyGivenNames x; apply Kept.cut (x := x); rotate_left; intro hx; clear_value x; rotate_left; dsimp only [x]; clear x)
    | (extract_lets -merge -useContext -underBinder +onlyGivenNames x; subst x)
    | with_reducible assumption
    | with_reducible apply Kept.refl
    | with_reducible apply unconfigure_kept
    | with_reducible apply safetyLeavesOn_kept
    | with_reducible rfl
    | split
    | with_reducible apply Kept.set
    | (simp only [lengths]; done)

theorem execSupplyResetCrossing_keptR {rail : Nat} {mv : Nat} {s : State} : KeptR s (execSupplyResetCrossing rail mv s) := by
  unfold execSupplyResetCrossing
  repeat'
    first
    | (extract_lets -merge -useContext -underBinder +onlyGivenNames x; apply KeptR.cut (x := x); rotate_left; intro hx; clear_value x; rotate_left; dsimp only [x]; clear x)
    | (extract_lets -merge -useContext -underBinder +onlyGivenNames x; apply Kept.cut (x := x); rotate_left; intro hx; clear_value x; rotate_left; dsimp only [x]; clear x)
    | (extract_lets -merge -useContext -underBinder +onlyGivenNames x; subst x)
    | with_reducible assumption
    | with_reducible apply Kept.refl
    | with_reducible apply KeptR.unit
    | with_reducible apply KeptR.regWrite
    | with_reducible apply KeptR.ok
    | with_reducible apply KeptR.next
    | with_reducible apply KeptR.fault
    | with_reducible apply KeptR.refused
    | with_reducible apply modRail_kept
    | with_reducible apply settleDispatch_kept
    | with_reducible apply quarantineString_kept
    | with_reducible apply islandReset_kept
    | with_reducible apply holdPowerOn_kept
    | with_reducible apply dispatch_kept
    | with_reducible apply settleStream_kept
    | with_reducible apply flashFault_kept
    | with_reducible apply portReset_kept
    | with_reducible apply endFrames_kept
    | with_reducible apply warmReset_kept
    | with_reducible apply Kept.ite
    | intro _
    | with_reducible rfl
    | split
    | with_reducible apply Kept.set
    | (simp only [lengths, modAt_length, setAt_length, List.length_map, List.length_mapIdx]; done)

end Sys2Proof.Laws
end

