-- ==== Sys2Proof/Laws/KeptClocks.lean ====
section
/-! SUPPORT. Laws/KeptClocks.lean: every operation of Machine/Clocks.lean keeps what `Kept` says. -/

set_option Elab.async false

namespace Sys2Proof.Laws
open Sys2Proof Sys2Proof.Machine

theorem noteFault_kept {z : State} {k : Nat} {s : State} (kz : Kept z s) : Kept z (noteFault k s) := by
  unfold noteFault
  repeat'
    first
    | (extract_lets -merge -useContext -underBinder +onlyGivenNames x; subst x)
    | with_reducible assumption
    | with_reducible apply Kept.refl
    | with_reducible rfl
    | split
    | with_reducible apply Kept.set

theorem clockLatch_kept {z : State} {s : State} (kz : Kept z s) : Kept z (clockLatch s) := by
  unfold clockLatch
  repeat'
    first
    | (extract_lets -merge -useContext -underBinder +onlyGivenNames x; subst x)
    | with_reducible assumption
    | with_reducible apply Kept.refl
    | with_reducible apply latch_kept
    | with_reducible rfl
    | split
    | with_reducible apply Kept.set
    | (simp only [lengths]; done)

theorem rootLost_kept {z : State} {s : State} (kz : Kept z s) : Kept z (rootLost s) := by
  unfold rootLost
  repeat'
    first
    | (extract_lets -merge -useContext -underBinder +onlyGivenNames x; apply Kept.cut (x := x); rotate_left; intro hx; clear_value x; rotate_left; dsimp only [x]; clear x)
    | (extract_lets -merge -useContext -underBinder +onlyGivenNames x; subst x)
    | with_reducible assumption
    | with_reducible apply Kept.refl
    | with_reducible apply clockLatch_kept
    | with_reducible rfl
    | split
    | with_reducible apply Kept.set

theorem clockFault_kept {z : State} {s : State} {k : Nat} (kz : Kept z s) : Kept z (clockFault s k) := by
  unfold clockFault
  repeat'
    first
    | (extract_lets -merge -useContext -underBinder +onlyGivenNames x; apply Kept.cut (x := x); rotate_left; intro hx; clear_value x; rotate_left; dsimp only [x]; clear x)
    | with_reducible assumption
    | with_reducible apply Kept.refl
    | with_reducible apply noteFault_kept
    | with_reducible apply quarantineString_kept
    | with_reducible apply rootLost_kept
    | with_reducible apply loseDdr_kept
    | with_reducible apply settleStream_kept
    | with_reducible apply flashFault_kept
    | with_reducible apply portReset_kept
    | with_reducible apply pinsLow_kept
    | with_reducible apply clockLatch_kept
    | with_reducible apply Kept.ite
    | intro _

theorem clockFaults_kept {z : State} {l : List Nat} {s : State} (kz : Kept z s) : Kept z (clockFaults l s) := by
  unfold clockFaults
  repeat'
    first
    | (extract_lets -merge -useContext -underBinder +onlyGivenNames x; apply Kept.cut (x := x); rotate_left; intro hx; clear_value x; rotate_left; dsimp only [x]; clear x)
    | (extract_lets -merge -useContext -underBinder +onlyGivenNames x; subst x)
    | with_reducible assumption
    | with_reducible apply Kept.refl
    | with_reducible apply Kept.foldl
    | with_reducible apply settleDispatch_kept
    | with_reducible apply noteFault_kept
    | with_reducible apply clockFault_kept
    | with_reducible apply Kept.ite
    | intro _
    | with_reducible rfl
    | split
    | with_reducible apply Kept.set
    | (simp only [lengths, modAt_length, setAt_length, List.length_map, List.length_mapIdx]; done)

theorem execClockMonitorWindow_keptR {off : List Nat} {s : State} : KeptR s (execClockMonitorWindow off s) := by
  unfold execClockMonitorWindow
  repeat'
    first
    | (extract_lets -merge -useContext -underBinder +onlyGivenNames x; subst x)
    | with_reducible assumption
    | with_reducible apply Kept.refl
    | with_reducible apply KeptR.unit
    | with_reducible apply KeptR.regWrite
    | with_reducible apply KeptR.ok
    | with_reducible apply KeptR.next
    | with_reducible apply KeptR.fault
    | with_reducible apply clockFaults_kept
    | with_reducible rfl
    | split
    | with_reducible apply Kept.set

theorem aonFault_kept {z : State} {s : State} (kz : Kept z s) : Kept z (aonFault s) := by
  unfold aonFault
  repeat'
    first
    | (extract_lets -merge -useContext -underBinder +onlyGivenNames x; apply Kept.cut (x := x); rotate_left; intro hx; clear_value x; rotate_left; dsimp only [x]; clear x)
    | (extract_lets -merge -useContext -underBinder +onlyGivenNames x; subst x)
    | with_reducible assumption
    | with_reducible apply Kept.refl
    | with_reducible apply noteFault_kept
    | with_reducible apply drnEvent_kept
    | with_reducible rfl
    | split
    | with_reducible apply Kept.set

theorem rtcFault_kept {z : State} {s : State} (kz : Kept z s) : Kept z (rtcFault s) := by
  unfold rtcFault
  repeat'
    first
    | (extract_lets -merge -useContext -underBinder +onlyGivenNames x; apply Kept.cut (x := x); rotate_left; intro hx; clear_value x; rotate_left; dsimp only [x]; clear x)
    | (extract_lets -merge -useContext -underBinder +onlyGivenNames x; subst x)
    | with_reducible assumption
    | with_reducible apply Kept.refl
    | with_reducible apply noteFault_kept
    | with_reducible rfl
    | split
    | with_reducible apply Kept.set

theorem execAonRtcMonitorWindow_keptR {aonOff : Bool} {rtcOff : Bool} {s : State} : KeptR s (execAonRtcMonitorWindow aonOff rtcOff s) := by
  unfold execAonRtcMonitorWindow
  repeat'
    first
    | (extract_lets -merge -useContext -underBinder +onlyGivenNames x; apply KeptR.cut (x := x); rotate_left; intro hx; clear_value x; rotate_left; dsimp only [x]; clear x)
    | (extract_lets -merge -useContext -underBinder +onlyGivenNames x; subst x)
    | with_reducible assumption
    | with_reducible apply Kept.refl
    | with_reducible apply KeptR.unit
    | with_reducible apply KeptR.regWrite
    | with_reducible apply KeptR.ok
    | with_reducible apply KeptR.next
    | with_reducible apply KeptR.fault
    | with_reducible apply aonFault_kept
    | with_reducible apply rtcFault_kept
    | with_reducible apply Kept.ite
    | intro _
    | with_reducible rfl
    | split
    | with_reducible apply Kept.set

theorem execPllLossOfLock_keptR {pll : Pll} {s : State} : KeptR s (execPllLossOfLock pll s) := by
  unfold execPllLossOfLock
  repeat'
    first
    | with_reducible assumption
    | with_reducible apply Kept.refl
    | with_reducible apply KeptR.unit
    | with_reducible apply KeptR.regWrite
    | with_reducible apply KeptR.ok
    | with_reducible apply KeptR.next
    | with_reducible apply KeptR.fault
    | with_reducible apply clockFaults_kept

end Sys2Proof.Laws
end

