-- ==== Sys2Proof/Laws/KeptPorts.lean ====
section
/-! SUPPORT. Laws/KeptPorts.lean: every operation of Machine/Ports.lean keeps what `Kept` says. -/

set_option Elab.async false

namespace Sys2Proof.Laws
open Sys2Proof Sys2Proof.Machine

theorem execLinkUp_keptR {port : Nat} {speed : Nat} {width : Nat} {s : State} : KeptR s (execLinkUp port speed width s) := by
  unfold execLinkUp
  repeat'
    first
    | (extract_lets -merge -useContext -underBinder +onlyGivenNames x; apply KeptR.cut (x := x); rotate_left; intro hx; clear_value x; rotate_left; dsimp only [x]; clear x)
    | (extract_lets -merge -useContext -underBinder +onlyGivenNames x; subst x)
    | with_reducible assumption
    | with_reducible apply Kept.refl
    | with_reducible apply KeptR.unit
    | with_reducible apply KeptR.regWrite
    | with_reducible apply KeptR.ok
    | with_reducible apply KeptR.next
    | with_reducible apply KeptR.fault
    | with_reducible apply modPort_kept
    | with_reducible apply Kept.ite
    | intro _
    | with_reducible rfl
    | split
    | with_reducible apply Kept.set

theorem execLinkRecovery_keptR {port : Nat} {s : State} : KeptR s (execLinkRecovery port s) := by
  unfold execLinkRecovery
  repeat'
    first
    | with_reducible assumption
    | with_reducible apply Kept.refl
    | with_reducible apply KeptR.unit
    | with_reducible apply KeptR.regWrite
    | with_reducible apply KeptR.ok
    | with_reducible apply KeptR.next
    | with_reducible apply KeptR.fault
    | with_reducible apply Kept.when
    | with_reducible apply modPort_kept

theorem execAspmL1Request_keptR {port : Nat} {s : State} : KeptR s (execAspmL1Request port s) := by
  unfold execAspmL1Request
  repeat'
    first
    | with_reducible assumption
    | with_reducible apply Kept.refl
    | with_reducible apply KeptR.unit
    | with_reducible apply KeptR.regWrite
    | with_reducible apply KeptR.ok
    | with_reducible apply KeptR.next
    | with_reducible apply KeptR.fault
    | with_reducible apply Kept.when
    | with_reducible apply modPort_kept

theorem execLinkL1Exit_keptR {port : Nat} {s : State} : KeptR s (execLinkL1Exit port s) := by
  unfold execLinkL1Exit
  repeat'
    first
    | with_reducible assumption
    | with_reducible apply Kept.refl
    | with_reducible apply KeptR.unit
    | with_reducible apply KeptR.regWrite
    | with_reducible apply KeptR.ok
    | with_reducible apply KeptR.next
    | with_reducible apply KeptR.fault
    | with_reducible apply KeptR.refused
    | with_reducible apply settleDispatch_kept
    | with_reducible apply settlePower_kept
    | with_reducible apply wakeHost_kept
    | with_reducible apply modPort_kept
    | with_reducible apply Kept.ite
    | intro _
    | with_reducible rfl
    | split
    | with_reducible apply Kept.set
    | (simp only [lengths, modAt_length, setAt_length, List.length_map, List.length_mapIdx]; done)

theorem logAer_kept {z : State} {port : Nat} {kind : Nat} {s : State} (kz : Kept z s) : Kept z (logAer port kind s) := by
  unfold logAer
  repeat'
    first
    | with_reducible assumption
    | with_reducible apply Kept.refl
    | with_reducible apply modPort_kept

theorem execPcieCorrectableError_keptR {port : Nat} {s : State} : KeptR s (execPcieCorrectableError port s) := by
  unfold execPcieCorrectableError
  repeat'
    first
    | with_reducible assumption
    | with_reducible apply Kept.refl
    | with_reducible apply KeptR.unit
    | with_reducible apply KeptR.regWrite
    | with_reducible apply KeptR.ok
    | with_reducible apply KeptR.next
    | with_reducible apply KeptR.fault
    | with_reducible apply logAer_kept
    | with_reducible apply modPort_kept

theorem execUnsupportedRequest_keptR {port : Nat} {s : State} : KeptR s (execUnsupportedRequest port s) := by
  unfold execUnsupportedRequest
  repeat'
    first
    | with_reducible assumption
    | with_reducible apply Kept.refl
    | with_reducible apply KeptR.unit
    | with_reducible apply KeptR.regWrite
    | with_reducible apply KeptR.ok
    | with_reducible apply KeptR.next
    | with_reducible apply KeptR.fault
    | with_reducible apply logAer_kept

theorem execPoisonedWrite_keptR {func : Nat} {_bar : Nat} {_offset : Nat} {s : State} : KeptR s (execPoisonedWrite func _bar _offset s) := by
  unfold execPoisonedWrite
  repeat'
    first
    | with_reducible assumption
    | with_reducible apply Kept.refl
    | with_reducible apply KeptR.unit
    | with_reducible apply KeptR.regWrite
    | with_reducible apply KeptR.ok
    | with_reducible apply KeptR.next
    | with_reducible apply KeptR.fault
    | with_reducible apply logAer_kept

theorem requestFailed_kept {z : State} {r : Nat} {s : State} (kz : Kept z s) : Kept z (requestFailed r s) := by
  unfold requestFailed
  repeat'
    first
    | with_reducible assumption
    | with_reducible apply Kept.refl
    | with_reducible apply ringError_kept
    | with_reducible apply logAer_kept
    | with_reducible apply Kept.ite
    | intro _
    | with_reducible rfl
    | split

theorem dataReadFailed_kept {z : State} {id : Nat} {code : Nat} {s : State} (kz : Kept z s) : Kept z (dataReadFailed id code s) := by
  unfold dataReadFailed
  repeat'
    first
    | with_reducible assumption
    | with_reducible apply Kept.refl
    | with_reducible apply failCmd_kept
    | with_reducible apply logAer_kept
    | with_reducible rfl
    | split

theorem execCompletionError_keptR {target : ReadTarget} {code : Nat} {s : State} : KeptR s (execCompletionError target code s) := by
  unfold execCompletionError
  repeat'
    first
    | with_reducible assumption
    | with_reducible apply Kept.refl
    | with_reducible apply KeptR.unit
    | with_reducible apply KeptR.regWrite
    | with_reducible apply KeptR.ok
    | with_reducible apply KeptR.next
    | with_reducible apply KeptR.fault
    | with_reducible apply KeptR.refused
    | with_reducible apply requestFailed_kept
    | with_reducible apply settleDispatch_kept
    | with_reducible apply dataReadFailed_kept
    | with_reducible apply Kept.ite
    | intro _
    | with_reducible rfl
    | split
    | with_reducible apply Kept.set
    | (simp only [lengths, modAt_length, setAt_length, List.length_map, List.length_mapIdx]; done)

theorem execPcieFatalError_keptR {port : Nat} {s : State} : KeptR s (execPcieFatalError port s) := by
  unfold execPcieFatalError
  repeat'
    first
    | with_reducible assumption
    | with_reducible apply Kept.refl
    | with_reducible apply KeptR.unit
    | with_reducible apply KeptR.regWrite
    | with_reducible apply KeptR.ok
    | with_reducible apply KeptR.next
    | with_reducible apply KeptR.fault
    | with_reducible apply portReset_kept
    | with_reducible apply logAer_kept

theorem stopRequests_kept {z : State} {fs : List Nat} {s : State} (kz : Kept z s) : Kept z (stopRequests fs s) := by
  unfold stopRequests
  repeat'
    first
    | (extract_lets -merge -useContext -underBinder +onlyGivenNames x; apply Kept.cut (x := x); rotate_left; intro hx; clear_value x; rotate_left; dsimp only [x]; clear x)
    | (extract_lets -merge -useContext -underBinder +onlyGivenNames x; subst x)
    | with_reducible assumption
    | with_reducible apply Kept.refl
    | with_reducible apply Kept.foldl
    | with_reducible apply modRing_kept
    | with_reducible apply postBoth_kept
    | with_reducible apply bindWriteError_kept
    | with_reducible apply latch_kept
    | with_reducible apply Kept.ite
    | intro _
    | with_reducible rfl
    | split
    | with_reducible apply Kept.set
    | (simp only [lengths, modAt_length, setAt_length, List.length_map, List.length_mapIdx]; done)

theorem masterOff_kept {z : State} {f : Nat} {s : State} (kz : Kept z s) : Kept z (masterOff f s) := by
  unfold masterOff
  repeat'
    first
    | with_reducible assumption
    | with_reducible apply Kept.refl
    | with_reducible apply stopRequests_kept
    | with_reducible apply modFuncCfg_kept
    | with_reducible apply Kept.ite
    | intro _

theorem enterD3_kept {z : State} {f : Nat} {s : State} (kz : Kept z s) : Kept z (enterD3 f s) := by
  unfold enterD3
  repeat'
    first
    | with_reducible assumption
    | with_reducible apply Kept.refl
    | with_reducible apply stopRequests_kept
    | with_reducible apply modFuncCfg_kept
    | with_reducible apply Kept.ite
    | intro _

theorem execBusMasterDisable_keptR {func : Nat} {s : State} : KeptR s (execBusMasterDisable func s) := by
  unfold execBusMasterDisable
  repeat'
    first
    | with_reducible assumption
    | with_reducible apply Kept.refl
    | with_reducible apply KeptR.unit
    | with_reducible apply KeptR.regWrite
    | with_reducible apply KeptR.ok
    | with_reducible apply KeptR.next
    | with_reducible apply KeptR.fault
    | with_reducible apply KeptR.refused
    | with_reducible apply settleDispatch_kept
    | with_reducible apply masterOff_kept
    | with_reducible apply Kept.ite
    | intro _
    | with_reducible rfl
    | split
    | with_reducible apply Kept.set
    | (simp only [lengths, modAt_length, setAt_length, List.length_map, List.length_mapIdx]; done)

theorem execD3hotEntry_keptR {func : Nat} {s : State} : KeptR s (execD3hotEntry func s) := by
  unfold execD3hotEntry
  repeat'
    first
    | with_reducible assumption
    | with_reducible apply Kept.refl
    | with_reducible apply KeptR.unit
    | with_reducible apply KeptR.regWrite
    | with_reducible apply KeptR.ok
    | with_reducible apply KeptR.next
    | with_reducible apply KeptR.fault
    | with_reducible apply KeptR.refused
    | with_reducible apply settleDispatch_kept
    | with_reducible apply enterD3_kept
    | with_reducible apply Kept.ite
    | intro _
    | with_reducible rfl
    | split
    | with_reducible apply Kept.set
    | (simp only [lengths, modAt_length, setAt_length, List.length_map, List.length_mapIdx]; done)

theorem sendPending_kept {z : State} {f : Nat} {s : State} {v : Nat} (kz : Kept z s) : Kept z (sendPending f s v) := by
  unfold sendPending
  repeat'
    first
    | (extract_lets -merge -useContext -underBinder +onlyGivenNames x; subst x)
    | with_reducible assumption
    | with_reducible apply Kept.refl
    | with_reducible apply sendMsg_kept
    | with_reducible apply modVector_kept
    | with_reducible apply Kept.ite
    | intro _

theorem setMask_kept {z : State} {f : Nat} {v : Nat} {m : Bool} {s : State} (kz : Kept z s) : Kept z (setMask f v m s) := by
  unfold setMask
  repeat'
    first
    | with_reducible assumption
    | with_reducible apply Kept.refl
    | with_reducible apply sendPending_kept
    | with_reducible apply modVector_kept

theorem execMsixUnmask_keptR {func : Nat} {vector : Nat} {s : State} : KeptR s (execMsixUnmask func vector s) := by
  unfold execMsixUnmask
  repeat'
    first
    | with_reducible assumption
    | with_reducible apply Kept.refl
    | with_reducible apply KeptR.unit
    | with_reducible apply KeptR.regWrite
    | with_reducible apply KeptR.ok
    | with_reducible apply KeptR.next
    | with_reducible apply KeptR.fault
    | with_reducible apply setMask_kept

theorem configWrite_kept {z : State} {f : Nat} {w : CfgWrite} {s : State} (kz : Kept z s) : Kept z (configWrite f w s) := by
  unfold configWrite
  repeat'
    first
    | (extract_lets -merge -useContext -underBinder +onlyGivenNames x; apply Kept.cut (x := x); rotate_left; intro hx; clear_value x; rotate_left; dsimp only [x]; clear x)
    | (extract_lets -merge -useContext -underBinder +onlyGivenNames x; subst x)
    | with_reducible assumption
    | with_reducible apply Kept.refl
    | with_reducible apply Kept.foldl
    | with_reducible apply modFuncCfg_kept
    | with_reducible apply masterOff_kept
    | with_reducible apply enterD3_kept
    | with_reducible apply sendPending_kept
    | with_reducible apply modPort_kept
    | with_reducible apply Kept.ite
    | intro _
    | with_reducible rfl
    | split

theorem execConfigurationRequest_keptR {func : Nat} {write : CfgWrite} {s : State} : KeptR s (execConfigurationRequest func write s) := by
  unfold execConfigurationRequest
  repeat'
    first
    | with_reducible assumption
    | with_reducible apply Kept.refl
    | with_reducible apply KeptR.unit
    | with_reducible apply KeptR.regWrite
    | with_reducible apply KeptR.ok
    | with_reducible apply KeptR.next
    | with_reducible apply KeptR.fault
    | with_reducible apply KeptR.refused
    | with_reducible apply logAer_kept
    | with_reducible apply settleDispatch_kept
    | with_reducible apply configWrite_kept
    | with_reducible apply Kept.ite
    | intro _
    | with_reducible rfl
    | split
    | with_reducible apply Kept.set
    | (simp only [lengths, modAt_length, setAt_length, List.length_map, List.length_mapIdx]; done)

theorem execPtmDialogue_keptR {port : Nat} {hostNs : Option Int} {s : State} : KeptR s (execPtmDialogue port hostNs s) := by
  unfold execPtmDialogue
  repeat'
    first
    | with_reducible assumption
    | with_reducible apply Kept.refl
    | with_reducible apply KeptR.unit
    | with_reducible apply KeptR.regWrite
    | with_reducible apply KeptR.ok
    | with_reducible apply KeptR.next
    | with_reducible apply KeptR.fault
    | with_reducible apply modPort_kept
    | with_reducible apply drawn_kept
    | with_reducible apply Kept.ite
    | intro _
    | with_reducible rfl
    | split

theorem execHifPtmStampRead_keptR {func : Nat} {s : State} : KeptR s (execHifPtmStampRead func s) := by
  unfold execHifPtmStampRead
  repeat'
    first
    | with_reducible assumption
    | with_reducible apply Kept.refl
    | with_reducible apply KeptR.unit
    | with_reducible apply KeptR.regWrite
    | with_reducible apply KeptR.ok
    | with_reducible apply KeptR.next
    | with_reducible apply KeptR.fault
    | with_reducible apply modPort_kept

theorem windowFailed_kept {z : State} {f : Nat} {va : Nat} {write : Bool} {e : Fail} {s : State} (kz : Kept z s) : Kept z (windowFailed f va write e s) := by
  unfold windowFailed
  repeat'
    first
    | with_reducible assumption
    | with_reducible apply Kept.refl
    | with_reducible apply recordFail_kept
    | with_reducible apply drawn_kept
    | with_reducible rfl
    | split

theorem execBar4WindowRead_keptR {func : Nat} {offset : Nat} {len : Nat} {s : State} : KeptR s (execBar4WindowRead func offset len s) := by
  unfold execBar4WindowRead
  repeat'
    first
    | with_reducible assumption
    | with_reducible apply Kept.refl
    | with_reducible apply KeptR.unit
    | with_reducible apply KeptR.regWrite
    | with_reducible apply KeptR.ok
    | with_reducible apply KeptR.next
    | with_reducible apply KeptR.fault
    | with_reducible apply windowFailed_kept
    | with_reducible apply Kept.ite
    | intro _
    | with_reducible rfl
    | split

theorem execBar4WindowWrite_keptR {func : Nat} {offset : Nat} {data : Bytes} {s : State} : KeptR s (execBar4WindowWrite func offset data s) := by
  unfold execBar4WindowWrite
  repeat'
    first
    | with_reducible assumption
    | with_reducible apply Kept.refl
    | with_reducible apply KeptR.unit
    | with_reducible apply KeptR.regWrite
    | with_reducible apply KeptR.ok
    | with_reducible apply KeptR.next
    | with_reducible apply KeptR.fault
    | with_reducible apply commitSegs_kept
    | with_reducible apply windowFailed_kept
    | with_reducible apply Kept.ite
    | intro _
    | with_reducible rfl
    | split

end Sys2Proof.Laws
end

