-- ==== Sys2Proof/Laws/KeptOperands.lean ====
section
/-! SUPPORT. Laws/KeptOperands.lean: every operation of Machine/Operands.lean keeps what `Kept` says. -/

set_option Elab.async false

namespace Sys2Proof.Laws
open Sys2Proof Sys2Proof.Machine

theorem bindWeights_kept {z : State} {c : Cmd} {img : Image} {x : Config.TensorInfo} {s : State} (kz : Kept z s) :
    Kept z (bindWeights c img x s) := by
  unfold bindWeights
  extract_lets _ hot s1
  have k : Kept z s1 := modCmd_kept kz
  clear_value hot
  split
  · exact modCmd_kept k
  · exact bindStream_kept k

theorem bindStage_kept {z : State} {c : Cmd} {t : Stage} {s : State} (kz : Kept z s) : Kept z (bindStage c t s) := by
  unfold bindStage
  repeat'
    first
    | with_reducible assumption
    | with_reducible apply Kept.refl
    | with_reducible apply bindWeights_kept
    | with_reducible apply Kept.ite
    | intro _
    | with_reducible rfl
    | split

end Sys2Proof.Laws
end

