-- ==== Sys2Proof/Laws/KeptMatmul.lean ====
section
/-! SUPPORT. Laws/KeptMatmul.lean: every operation of Machine/Matmul.lean keeps what `Kept` says. -/

set_option Elab.async false

namespace Sys2Proof.Laws
open Sys2Proof Sys2Proof.Machine

theorem runStage_kept {z : State} {f : State → Cmd → Stage → Option Bytes → Except Fail OpOut} {c : Cmd} {s : State} (kz : Kept z s) : Kept z (runStage f c s) := by
  unfold runStage
  repeat'
    first
    | (extract_lets -merge -useContext -underBinder +onlyGivenNames x; apply Kept.cut (x := x); rotate_left; intro hx; clear_value x; rotate_left; dsimp only [x]; clear x)
    | (extract_lets -merge -useContext -underBinder +onlyGivenNames x; subst x)
    | with_reducible assumption
    | with_reducible apply Kept.refl
    | with_reducible apply failCmd_kept
    | with_reducible apply drawn_kept
    | with_reducible apply bindStage_kept
    | with_reducible apply dispatch_kept
    | with_reducible apply settleStream_kept
    | with_reducible apply startWork_kept
    | with_reducible apply modCmd_kept
    | with_reducible rfl
    | split

theorem execMatmul_keptR {id : Nat} {s : State} : KeptR s (execMatmul id s) := by
  unfold execMatmul
  repeat'
    first
    | with_reducible assumption
    | with_reducible apply Kept.refl
    | with_reducible apply KeptR.unit
    | with_reducible apply KeptR.regWrite
    | with_reducible apply KeptR.ok
    | with_reducible apply KeptR.next
    | with_reducible apply KeptR.fault
    | with_reducible apply runReady_kept
    | with_reducible apply runStage_kept
    | intro _

end Sys2Proof.Laws
end

