-- ==== Sys2Proof/Laws/KeptAttention.lean ====
section
/-! SUPPORT. Laws/KeptAttention.lean: every operation of Machine/Attention.lean keeps what `Kept` says. -/

set_option Elab.async false

namespace Sys2Proof.Laws
open Sys2Proof Sys2Proof.Machine

theorem runOrdered_kept {z : State} {run : Cmd → State → State} {c : Cmd} {s : State}
    (hr : ∀ (a : Cmd) (y : State), Kept y (run a y)) (kz : Kept z s) : Kept z (runOrdered run c s) := by
  unfold runOrdered
  extract_lets k s1
  have h1 : Kept z s1 := modCmd_kept kz
  split
  · exact h1
  · exact h1.trans (hr _ _)

theorem execAttention_keptR {id : Nat} {s : State} : KeptR s (execAttention id s) :=
  KeptR.ok (runReady_kept (fun _ _ => runOrdered_kept (fun _ _ => runStage_kept (Kept.refl _)) (Kept.refl _)) (Kept.refl _))

theorem writePage_kept {z : State} {f : Nat} {va : Nat} {bs : Bytes} {s : State} (kz : Kept z s) : Kept z (writePage f va bs s) := by
  unfold writePage
  repeat'
    first
    | with_reducible assumption
    | with_reducible apply Kept.refl
    | with_reducible apply writeBytes_kept
    | with_reducible rfl
    | split

theorem writeAperture_kept {z : State} {f : Nat} {va : Nat} {bs : Bytes} {s : State} (kz : Kept z s) : Kept z (writeAperture f va bs s) := by
  unfold writeAperture
  repeat'
    first
    | (extract_lets -merge -useContext -underBinder +onlyGivenNames x; subst x)
    | with_reducible assumption
    | with_reducible apply Kept.refl
    | with_reducible apply writePage_kept

theorem ownRuns_keptO {z : State} {f : Nat} : ∀ {l : List Nat} {s t : State}, Kept z s → ownRuns f l s = some t → Kept z t
  | [], _, _, k, e => by cases e; exact k
  | [_], _, _, k, e => by cases e; exact k
  | [_, _], _, _, k, e => by cases e; exact k
  | [_, _, _], _, _, k, e => by cases e; exact k
  | _ :: _ :: _ :: _ :: _, _, _, k, e => by
    unfold ownRuns at e
    split at e
    · exact ownRuns_keptO k e
    · obtain ⟨_, e0, e1⟩ := Option.bind_eq_some_iff.1 e
      exact ownRuns_keptO (ownSlots_keptO k e0) e1

theorem setFills_kept {z : State} {f : Nat} : ∀ {l : List Nat} {s : State}, Kept z s → Kept z (setFills f l s)
  | [], _, k => k
  | [_], _, k => k
  | [_, _], _, k => k
  | [_, _, _], _, k => k
  | _ :: _ :: _ :: _ :: _, _, k => by
    unfold setFills
    exact setFills_kept (modSession_kept k)

theorem commitKv_keptE {z : State} {c : Cmd} {s : State} {t_ : State} (kz : Kept z s) (e_ : commitKv c s = .ok t_) : Kept z t_ := by
  unfold commitKv at e_
  try dsimp only at e_
  repeat' split at e_
  all_goals first
    | (cases e_; done)
    | (cases e_
       repeat'
         first
         | (extract_lets -merge -useContext -underBinder +onlyGivenNames x; apply Kept.cut (x := x); rotate_left; intro hx; clear_value x; rotate_left; dsimp only [x]; clear x)
         | (extract_lets -merge -useContext -underBinder +onlyGivenNames x; subst x)
         | with_reducible assumption
         | with_reducible apply Kept.refl
         | with_reducible apply Kept.foldl
         | (with_reducible apply ownRuns_keptO; rotate_left; assumption)
         | with_reducible apply setFills_kept
         | with_reducible apply writeAperture_kept
         | intro _
         | with_reducible rfl
         | split
         | with_reducible apply Kept.set
         | (simp only [lengths, modAt_length, setAt_length, List.length_map, List.length_mapIdx]; done))

theorem execAttentionBwd_keptR {id : Nat} {s : State} : KeptR s (execAttentionBwd id s) := by
  unfold execAttentionBwd
  repeat'
    first
    | with_reducible assumption
    | with_reducible apply Kept.refl
    | with_reducible apply KeptR.unit
    | with_reducible apply KeptR.regWrite
    | with_reducible apply KeptR.ok
    | with_reducible apply KeptR.next
    | with_reducible apply KeptR.fault
    | with_reducible apply runReady_kept
    | with_reducible apply runStage_kept
    | intro _

end Sys2Proof.Laws
end

