-- ==== Sys2Proof/Laws/KeptSequence.lean ====
section
/-! SUPPORT. Laws/KeptSequence.lean: every operation of Machine/Sequence.lean keeps what `Kept` says. -/

set_option Elab.async false

namespace Sys2Proof.Laws
open Sys2Proof Sys2Proof.Machine

theorem execRecurrent_keptR {id : Nat} {s : State} : KeptR s (execRecurrent id s) := by
  unfold execRecurrent
  repeat'
    first
    | with_reducible assumption
    | with_reducible apply Kept.refl
    | with_reducible apply KeptR.unit
    | with_reducible apply KeptR.regWrite
    | with_reducible apply KeptR.ok
    | with_reducible apply KeptR.next
    | with_reducible apply KeptR.fault
    | with_reducible apply runReady_kept
    | with_reducible apply runStage_kept
    | intro _

theorem execScan_keptR {id : Nat} {s : State} : KeptR s (execScan id s) := by
  unfold execScan
  repeat'
    first
    | with_reducible assumption
    | with_reducible apply Kept.refl
    | with_reducible apply KeptR.unit
    | with_reducible apply KeptR.regWrite
    | with_reducible apply KeptR.ok
    | with_reducible apply KeptR.next
    | with_reducible apply KeptR.fault
    | with_reducible apply runReady_kept
    | with_reducible apply runStage_kept
    | intro _

end Sys2Proof.Laws
end

