-- ==== Sys2Proof/Laws/KeptImage.lean ====
section
/-! SUPPORT. Laws/KeptImage.lean: every operation of Machine/Image.lean keeps what `Kept` says. -/

set_option Elab.async false

namespace Sys2Proof.Laws
open Sys2Proof Sys2Proof.Machine

theorem execConv_keptR {id : Nat} {s : State} : KeptR s (execConv id s) := by
  unfold execConv
  repeat'
    first
    | with_reducible assumption
    | with_reducible apply Kept.refl
    | with_reducible apply KeptR.unit
    | with_reducible apply KeptR.regWrite
    | with_reducible apply KeptR.ok
    | with_reducible apply KeptR.next
    | with_reducible apply KeptR.fault
    | with_reducible apply runReady_kept
    | with_reducible apply runStage_kept
    | intro _

theorem execPool_keptR {id : Nat} {s : State} : KeptR s (execPool id s) := by
  unfold execPool
  repeat'
    first
    | with_reducible assumption
    | with_reducible apply Kept.refl
    | with_reducible apply KeptR.unit
    | with_reducible apply KeptR.regWrite
    | with_reducible apply KeptR.ok
    | with_reducible apply KeptR.next
    | with_reducible apply KeptR.fault
    | with_reducible apply runReady_kept
    | with_reducible apply runStage_kept
    | intro _

theorem execRegroup_keptR {id : Nat} {s : State} : KeptR s (execRegroup id s) := by
  unfold execRegroup
  repeat'
    first
    | with_reducible assumption
    | with_reducible apply Kept.refl
    | with_reducible apply KeptR.unit
    | with_reducible apply KeptR.regWrite
    | with_reducible apply KeptR.ok
    | with_reducible apply KeptR.next
    | with_reducible apply KeptR.fault
    | with_reducible apply runReady_kept
    | with_reducible apply runStage_kept
    | intro _

end Sys2Proof.Laws
end

