-- ==== Sys2Proof/Laws/KeptFused.lean ====
section
/-! SUPPORT. Laws/KeptFused.lean: every operation of Machine/Fused.lean keeps what `Kept` says. -/

set_option Elab.async false

namespace Sys2Proof.Laws
open Sys2Proof Sys2Proof.Machine

theorem groupRun_keptE {z : State} {c : Cmd} {l : List Stage} {prev : Option (Stage × Bytes)} {acc a : GroupAcc} {s t : State}
    (kz : Kept z s) (e_ : groupRun c l prev acc s = .ok (a, t)) : Kept z t := by
  induction l generalizing prev acc s with
  | nil => cases e_; exact kz
  | cons x l ih =>
    unfold groupRun at e_
    dsimp only [bind, Except.bind] at e_
    repeat' split at e_
    all_goals first
      | exact ih (drawn_kept (bindStage_kept (drawn_kept kz))) e_
      | (exact absurd e_ (by simp))

theorem runFusedGroup_kept {z : State} {c : Cmd} {s : State} (kz : Kept z s) : Kept z (runFusedGroup c s) := by
  unfold runFusedGroup
  split
  · exact failCmd_kept kz
  · exact dispatch_kept (settleStream_kept (startWork_kept (modCmd_kept (groupRun_keptE kz ‹_›))))

theorem execFusedGroup_keptR {id : Nat} {s : State} : KeptR s (execFusedGroup id s) :=
  KeptR.ok (runReady_kept (fun _ _ => runOrdered_kept (fun _ _ => runFusedGroup_kept (Kept.refl _)) (Kept.refl _)) (Kept.refl _))

end Sys2Proof.Laws
end

