-- ==== Sys2Proof/Laws/KeptAccept.lean ====
section
/-! SUPPORT. Laws/KeptAccept.lean: every operation of Machine/Accept.lean keeps what `Kept` says. -/

set_option Elab.async false

namespace Sys2Proof.Laws
open Sys2Proof Sys2Proof.Machine

theorem headShadow_kept {z : State} {r : Nat} {f : Nat} {s : State} (kz : Kept z s) : Kept z (headShadow r f s) := by
  unfold headShadow
  repeat'
    first
    | (extract_lets -merge -useContext -underBinder +onlyGivenNames x; subst x)
    | with_reducible assumption
    | with_reducible apply Kept.refl
    | with_reducible apply modRing_kept
    | with_reducible apply writeBytes_kept
    | with_reducible apply Kept.ite
    | intro _

theorem enterCmd_kept {z : State} {r : Nat} {f : Nat} {c : Cmd} {s : State} (kz : Kept z s) : Kept z (enterCmd r f c s) := by
  unfold enterCmd
  repeat'
    first
    | (extract_lets -merge -useContext -underBinder +onlyGivenNames x; apply Kept.cut (x := x); rotate_left; intro hx; clear_value x; rotate_left; dsimp only [x]; clear x)
    | (extract_lets -merge -useContext -underBinder +onlyGivenNames x; subst x)
    | with_reducible assumption
    | with_reducible apply Kept.refl
    | with_reducible apply modRing_kept
    | with_reducible apply headShadow_kept
    | with_reducible apply Kept.ite
    | intro _
    | with_reducible rfl
    | split
    | with_reducible apply Kept.set
    | (simp only [lengths]; done)

theorem acceptCmd_kept {z : State} {r : Nat} {f : Nat} {d : Bytes} {s : State} (kz : Kept z s) : Kept z (acceptCmd r f d s) := by
  unfold acceptCmd
  repeat'
    first
    | (extract_lets -merge -useContext -underBinder +onlyGivenNames x; apply Kept.cut (x := x); rotate_left; intro hx; clear_value x; rotate_left; dsimp only [x]; clear x)
    | (extract_lets -merge -useContext -underBinder +onlyGivenNames x; subst x)
    | with_reducible assumption
    | with_reducible apply Kept.refl
    | with_reducible apply recordFail_kept
    | with_reducible apply enterCmd_kept
    | with_reducible apply markAccepted_kept
    | with_reducible apply modSession_kept
    | with_reducible apply dispatch_kept
    | with_reducible apply settlePower_kept
    | with_reducible apply openReplays_kept
    | with_reducible apply Kept.ite
    | intro _
    | with_reducible rfl
    | split
    | with_reducible apply Kept.set
    | (simp only [lengths, modAt_length, setAt_length, List.length_map, List.length_mapIdx]; done)

theorem execDescriptorAccept_keptR {ring : Nat} {s : State} : KeptR s (execDescriptorAccept ring s) := by
  unfold execDescriptorAccept
  repeat'
    first
    | with_reducible assumption
    | with_reducible apply Kept.refl
    | with_reducible apply KeptR.unit
    | with_reducible apply KeptR.regWrite
    | with_reducible apply KeptR.ok
    | with_reducible apply KeptR.next
    | with_reducible apply KeptR.fault
    | with_reducible apply ringError_kept
    | with_reducible apply modConf_kept
    | with_reducible apply acceptCmd_kept
    | with_reducible apply Kept.ite
    | intro _
    | with_reducible rfl
    | split

theorem execDescriptorFetchError_keptR {ring : Nat} {s : State} : KeptR s (execDescriptorFetchError ring s) := by
  unfold execDescriptorFetchError
  repeat'
    first
    | with_reducible assumption
    | with_reducible apply Kept.refl
    | with_reducible apply KeptR.unit
    | with_reducible apply KeptR.regWrite
    | with_reducible apply KeptR.ok
    | with_reducible apply KeptR.next
    | with_reducible apply KeptR.fault
    | with_reducible apply requestFailed_kept
    | with_reducible apply Kept.ite
    | intro _

theorem execFencedCommandStart_keptR {id : Nat} {s : State} : KeptR s (execFencedCommandStart id s) := by
  unfold execFencedCommandStart
  repeat'
    first
    | with_reducible assumption
    | with_reducible apply Kept.refl
    | with_reducible apply KeptR.unit
    | with_reducible apply KeptR.regWrite
    | with_reducible apply KeptR.ok
    | with_reducible apply KeptR.next
    | with_reducible apply KeptR.fault
    | with_reducible apply KeptR.refused
    | with_reducible apply openReplays_kept
    | with_reducible apply modCmd_kept
    | with_reducible apply Kept.ite
    | intro _
    | with_reducible rfl
    | split
    | with_reducible apply Kept.set
    | (simp only [lengths, modAt_length, setAt_length, List.length_map, List.length_mapIdx]; done)

end Sys2Proof.Laws
end

