-- ==== Sys2Proof/Laws/KeptRings.lean ====
section
/-! SUPPORT. Laws/KeptRings.lean: every operation of Machine/Rings.lean keeps what `Kept` says. -/

set_option Elab.async false

namespace Sys2Proof.Laws
open Sys2Proof Sys2Proof.Machine

theorem ringDoorbell_kept {z : State} {r : Nat} {i : Nat} {s : State} (kz : Kept z s) : Kept z (ringDoorbell r i s) := by
  unfold ringDoorbell
  repeat'
    first
    | (extract_lets -merge -useContext -underBinder +onlyGivenNames x; apply Kept.cut (x := x); rotate_left; intro hx; clear_value x; rotate_left; dsimp only [x]; clear x)
    | (extract_lets -merge -useContext -underBinder +onlyGivenNames x; subst x)
    | with_reducible assumption
    | with_reducible apply Kept.refl
    | with_reducible apply noteDoorbell_kept
    | with_reducible apply ringError_kept
    | with_reducible apply modRing_kept
    | with_reducible apply Kept.ite
    | intro _
    | with_reducible rfl
    | split
    | with_reducible apply Kept.set
    | (simp only [lengths, modAt_length, setAt_length, List.length_map, List.length_mapIdx]; done)

theorem doorbell_kept {z : State} {submission : Bool} {func : Nat} {offset : Nat} {width : Nat} {value : Nat} {s : State} (kz : Kept z s) : Kept z (doorbell submission func offset width value s) := by
  unfold doorbell
  repeat'
    first
    | with_reducible assumption
    | with_reducible apply Kept.refl
    | with_reducible apply noteDoorbell_kept
    | with_reducible apply ringDoorbell_kept
    | with_reducible apply Kept.ite
    | intro _
    | with_reducible rfl
    | split
    | with_reducible apply Kept.set
    | (simp only [lengths, modAt_length, setAt_length, List.length_map, List.length_mapIdx]; done)

theorem execSubmissionDoorbell_keptR {func : Nat} {offset : Nat} {width : Nat} {value : Nat} {s : State} : KeptR s (execSubmissionDoorbell func offset width value s) := by
  unfold execSubmissionDoorbell
  repeat'
    first
    | with_reducible assumption
    | with_reducible apply Kept.refl
    | with_reducible apply KeptR.unit
    | with_reducible apply KeptR.regWrite
    | with_reducible apply KeptR.ok
    | with_reducible apply KeptR.next
    | with_reducible apply KeptR.fault
    | with_reducible apply doorbell_kept

theorem execHeadDoorbell_keptR {func : Nat} {offset : Nat} {width : Nat} {value : Nat} {s : State} : KeptR s (execHeadDoorbell func offset width value s) := by
  unfold execHeadDoorbell
  repeat'
    first
    | with_reducible assumption
    | with_reducible apply Kept.refl
    | with_reducible apply KeptR.unit
    | with_reducible apply KeptR.regWrite
    | with_reducible apply KeptR.ok
    | with_reducible apply KeptR.next
    | with_reducible apply KeptR.fault
    | with_reducible apply doorbell_kept

theorem setErr_kept {z : State} {r : Nat} {e : Nat} {s : State} (kz : Kept z s) : Kept z (setErr r e s) := by
  unfold setErr
  repeat'
    first
    | with_reducible assumption
    | with_reducible apply Kept.refl
    | with_reducible apply modRing_kept

theorem activate_kept {z : State} {r : Nat} {s : State} (kz : Kept z s) : Kept z (activate r s) := by
  unfold activate
  repeat'
    first
    | with_reducible assumption
    | with_reducible apply Kept.refl
    | with_reducible apply modRing_kept

theorem enableRing_kept {z : State} {f : Nat} {r : Nat} {s : State} (kz : Kept z s) : Kept z (enableRing f r s) := by
  unfold enableRing
  repeat'
    first
    | (extract_lets -merge -useContext -underBinder +onlyGivenNames x; subst x)
    | with_reducible assumption
    | with_reducible apply Kept.refl
    | with_reducible apply activate_kept
    | with_reducible apply setErr_kept
    | with_reducible apply Kept.ite
    | intro _
    | with_reducible rfl
    | split

theorem leaveActive_kept {z : State} {r : Nat} {st : RingState} {s : State} (kz : Kept z s) : Kept z (leaveActive r st s) := by
  unfold leaveActive
  repeat'
    first
    | with_reducible assumption
    | with_reducible apply Kept.refl
    | with_reducible apply modRing_kept

theorem drainRing_kept {z : State} {r : Nat} {s : State} (kz : Kept z s) : Kept z (drainRing r s) := by
  unfold drainRing
  repeat'
    first
    | with_reducible assumption
    | with_reducible apply Kept.refl
    | with_reducible apply leaveActive_kept
    | with_reducible apply setErr_kept
    | with_reducible apply Kept.ite
    | intro _

theorem abortRing_kept {z : State} {r : Nat} {s : State} (kz : Kept z s) : Kept z (abortRing r s) := by
  unfold abortRing
  repeat'
    first
    | (extract_lets -merge -useContext -underBinder +onlyGivenNames x; apply Kept.cut (x := x); rotate_left; intro hx; clear_value x; rotate_left; dsimp only [x]; clear x)
    | (extract_lets -merge -useContext -underBinder +onlyGivenNames x; subst x)
    | with_reducible assumption
    | with_reducible apply Kept.refl
    | with_reducible apply Kept.foldl
    | with_reducible apply leaveActive_kept
    | with_reducible apply settleDispatch_kept
    | with_reducible apply leavePasses_kept
    | with_reducible apply failCmd_kept
    | with_reducible apply setErr_kept
    | with_reducible apply Kept.ite
    | intro _
    | with_reducible rfl
    | split
    | with_reducible apply Kept.set
    | (simp only [lengths, modAt_length, setAt_length, List.length_map, List.length_mapIdx]; done)

theorem disableRing_kept {z : State} {r : Nat} {s : State} (kz : Kept z s) : Kept z (disableRing r s) := by
  unfold disableRing
  repeat'
    first
    | (extract_lets -merge -useContext -underBinder +onlyGivenNames x; subst x)
    | with_reducible assumption
    | with_reducible apply Kept.refl
    | with_reducible apply modRing_kept
    | with_reducible apply setErr_kept
    | with_reducible apply Kept.ite
    | intro _

theorem ringOp_keptR {func : Nat} {held : Bool} {f : Nat → State → State} {s : State} (h_f : ∀ (a0 : Nat) (y : State), Kept y (f a0 y)) : KeptR s (ringOp func held f s) := by
  unfold ringOp
  repeat'
    first
    | (extract_lets -merge -useContext -underBinder +onlyGivenNames x; subst x)
    | with_reducible assumption
    | with_reducible apply Kept.refl
    | with_reducible apply KeptR.unit
    | with_reducible apply KeptR.regWrite
    | with_reducible apply KeptR.ok
    | with_reducible apply KeptR.next
    | with_reducible apply KeptR.fault
    | with_reducible apply h_f
    | (with_reducible refine Kept.trans ?_ (h_f ..))
    | with_reducible apply Kept.ite
    | intro _

theorem execRingEnable_keptR {func : Nat} {s : State} : KeptR s (execRingEnable func s) := by
  unfold execRingEnable
  repeat'
    first
    | with_reducible assumption
    | with_reducible apply Kept.refl
    | with_reducible apply KeptR.unit
    | with_reducible apply KeptR.regWrite
    | with_reducible apply KeptR.ok
    | with_reducible apply KeptR.next
    | with_reducible apply KeptR.fault
    | with_reducible apply ringOp_keptR
    | with_reducible apply enableRing_kept
    | intro _

theorem execRingDrain_keptR {func : Nat} {s : State} : KeptR s (execRingDrain func s) := by
  unfold execRingDrain
  repeat'
    first
    | with_reducible assumption
    | with_reducible apply Kept.refl
    | with_reducible apply KeptR.unit
    | with_reducible apply KeptR.regWrite
    | with_reducible apply KeptR.ok
    | with_reducible apply KeptR.next
    | with_reducible apply KeptR.fault
    | with_reducible apply ringOp_keptR
    | with_reducible apply drainRing_kept
    | intro _

theorem execRingAbort_keptR {func : Nat} {s : State} : KeptR s (execRingAbort func s) := by
  unfold execRingAbort
  repeat'
    first
    | with_reducible assumption
    | with_reducible apply Kept.refl
    | with_reducible apply KeptR.unit
    | with_reducible apply KeptR.regWrite
    | with_reducible apply KeptR.ok
    | with_reducible apply KeptR.next
    | with_reducible apply KeptR.fault
    | with_reducible apply KeptR.refused
    | with_reducible apply ringOp_keptR
    | with_reducible apply abortRing_kept
    | with_reducible apply Kept.ite
    | intro _
    | with_reducible rfl
    | split
    | with_reducible apply Kept.set
    | (simp only [lengths, modAt_length, setAt_length, List.length_map, List.length_mapIdx]; done)

theorem execRingDisable_keptR {func : Nat} {s : State} : KeptR s (execRingDisable func s) := by
  unfold execRingDisable
  repeat'
    first
    | with_reducible assumption
    | with_reducible apply Kept.refl
    | with_reducible apply KeptR.unit
    | with_reducible apply KeptR.regWrite
    | with_reducible apply KeptR.ok
    | with_reducible apply KeptR.next
    | with_reducible apply KeptR.fault
    | with_reducible apply ringOp_keptR
    | with_reducible apply disableRing_kept
    | intro _

theorem execInterruptCoalesceTimeout_keptR {ring : Nat} {s : State} : KeptR s (execInterruptCoalesceTimeout ring s) := by
  unfold execInterruptCoalesceTimeout
  repeat'
    first
    | (extract_lets -merge -useContext -underBinder +onlyGivenNames x; subst x)
    | with_reducible assumption
    | with_reducible apply Kept.refl
    | with_reducible apply KeptR.unit
    | with_reducible apply KeptR.regWrite
    | with_reducible apply KeptR.ok
    | with_reducible apply KeptR.next
    | with_reducible apply KeptR.fault
    | with_reducible apply raiseVector_kept
    | with_reducible apply modRing_kept
    | with_reducible apply Kept.ite
    | intro _
    | with_reducible rfl
    | split

theorem execEventLostRecord_keptR {func : Nat} {s : State} : KeptR s (execEventLostRecord func s) := by
  unfold execEventLostRecord
  repeat'
    first
    | with_reducible assumption
    | with_reducible apply Kept.refl
    | with_reducible apply KeptR.unit
    | with_reducible apply KeptR.regWrite
    | with_reducible apply KeptR.ok
    | with_reducible apply KeptR.next
    | with_reducible apply KeptR.fault
    | with_reducible apply flushLost_kept

theorem execRecordWriteError_keptR {ring : Nat} {s : State} : KeptR s (execRecordWriteError ring s) := by
  unfold execRecordWriteError
  repeat'
    first
    | with_reducible assumption
    | with_reducible apply Kept.refl
    | with_reducible apply KeptR.unit
    | with_reducible apply KeptR.regWrite
    | with_reducible apply KeptR.ok
    | with_reducible apply KeptR.next
    | with_reducible apply KeptR.fault
    | with_reducible apply bindWriteError_kept
    | with_reducible apply logAer_kept
    | with_reducible apply latch_kept
    | with_reducible apply setErr_kept
    | with_reducible apply ringError_kept
    | with_reducible apply Kept.ite
    | intro _
    | with_reducible rfl
    | split

theorem execHifVersionWrite_keptR {func : Nat} {hostMax : Nat} {s : State} : KeptR s (execHifVersionWrite func hostMax s) := by
  unfold execHifVersionWrite
  repeat'
    first
    | with_reducible assumption
    | with_reducible apply Kept.refl
    | with_reducible apply KeptR.unit
    | with_reducible apply KeptR.regWrite
    | with_reducible apply KeptR.ok
    | with_reducible apply KeptR.next
    | with_reducible apply KeptR.fault
    | with_reducible apply modHifFunc_kept
    | with_reducible apply Kept.ite
    | intro _

theorem execHifFuncRingsWrite_keptR {func : Nat} {n : Nat} {value : Nat} {s : State} : KeptR s (execHifFuncRingsWrite func n value s) := by
  unfold execHifFuncRingsWrite
  repeat'
    first
    | (extract_lets -merge -useContext -underBinder +onlyGivenNames x; subst x)
    | with_reducible assumption
    | with_reducible apply Kept.refl
    | with_reducible apply KeptR.unit
    | with_reducible apply KeptR.regWrite
    | with_reducible apply KeptR.ok
    | with_reducible apply KeptR.next
    | with_reducible apply KeptR.fault
    | with_reducible apply modHifFunc_kept
    | with_reducible apply Kept.ite
    | intro _

theorem runBarrier_kept {z : State} {c : Cmd} {s : State} (kz : Kept z s) : Kept z (runBarrier c s) := by
  unfold runBarrier
  repeat'
    first
    | with_reducible assumption
    | with_reducible apply Kept.refl
    | with_reducible apply stageDone_kept
    | with_reducible apply Kept.ite
    | intro _

theorem execBarrier_keptR {id : Nat} {s : State} : KeptR s (execBarrier id s) := by
  unfold execBarrier
  repeat'
    first
    | with_reducible assumption
    | with_reducible apply Kept.refl
    | with_reducible apply KeptR.unit
    | with_reducible apply KeptR.regWrite
    | with_reducible apply KeptR.ok
    | with_reducible apply KeptR.next
    | with_reducible apply KeptR.fault
    | with_reducible apply runReady_kept
    | with_reducible apply runBarrier_kept
    | intro _

theorem runFenceSignal_kept {z : State} {c : Cmd} {s : State} (kz : Kept z s) : Kept z (runFenceSignal c s) := by
  unfold runFenceSignal
  repeat'
    first
    | with_reducible assumption
    | with_reducible apply Kept.refl
    | with_reducible apply failCmd_kept
    | with_reducible apply stageDone_kept
    | with_reducible rfl
    | split

theorem execFenceSignal_keptR {id : Nat} {s : State} : KeptR s (execFenceSignal id s) := by
  unfold execFenceSignal
  repeat'
    first
    | with_reducible assumption
    | with_reducible apply Kept.refl
    | with_reducible apply KeptR.unit
    | with_reducible apply KeptR.regWrite
    | with_reducible apply KeptR.ok
    | with_reducible apply KeptR.next
    | with_reducible apply KeptR.fault
    | with_reducible apply runReady_kept
    | with_reducible apply runFenceSignal_kept
    | intro _

theorem runNop_kept {z : State} {c : Cmd} {s : State} (kz : Kept z s) : Kept z (runNop c s) := by
  unfold runNop
  repeat'
    first
    | with_reducible assumption
    | with_reducible apply Kept.refl
    | with_reducible apply stageDone_kept

theorem execNop_keptR {id : Nat} {s : State} : KeptR s (execNop id s) := by
  unfold execNop
  repeat'
    first
    | with_reducible assumption
    | with_reducible apply Kept.refl
    | with_reducible apply KeptR.unit
    | with_reducible apply KeptR.regWrite
    | with_reducible apply KeptR.ok
    | with_reducible apply KeptR.next
    | with_reducible apply KeptR.fault
    | with_reducible apply runReady_kept
    | with_reducible apply runNop_kept
    | intro _

end Sys2Proof.Laws
end

