-- ==== Sys2Proof/Laws/KeptComplete.lean ====
section
/-! SUPPORT. Laws/KeptComplete.lean: every operation of Machine/Complete.lean keeps what `Kept` says. -/

set_option Elab.async false

namespace Sys2Proof.Laws
open Sys2Proof Sys2Proof.Machine

theorem safIdle_not_running {s : State} (i : safIdle s = true) : s.saf.state ≠ .running := by
  unfold safIdle at i
  intro h
  rw [h] at i
  exact absurd i (by decide)

theorem commitState_keptE {z : State} {c : Cmd} {s t : State} (kz : Kept z s) (e_ : commitState c s = .ok t) : Kept z t := by
  unfold commitState at e_
  repeat' split at e_
  all_goals first
    | exact commitKv_keptE kz e_
    | exact commitSessionOpen_keptE kz e_
    | exact commitPrefixAttach_keptE kz e_
    | exact commitCameraBind_keptE kz e_
    | exact commitCameraUnbind_keptE kz e_
    | exact commitInstallBegin_keptE kz e_
    | exact commitModelRelease_keptE kz e_
    | exact commitInstallData_keptE kz e_
    | exact commitFwWrite_keptE kz e_
    | exact commitGoldenSet_keptE kz e_
    | (cases e_; done)
    | (cases e_
       first
         | exact kz
         | exact commitModelPlace_kept kz
         | exact commitPowerHint_kept kz
         | exact commitSessionClose_kept kz
         | exact commitSessionTruncate_kept kz
         | exact commitPrefixPublish_kept kz
         | exact commitPrefixDrop_kept kz
         | exact commitInstallCommit_kept kz
         | exact commitInstallCancel_kept kz
         | exact commitSafetyConfigure_kept kz (safIdle_not_running ‹_›)
         | exact commitSelftest_kept kz)

theorem commit_keptE {z : State} {c : Cmd} {s : State} {t_ : State} (kz : Kept z s) (e_ : commit c s = .ok t_) : Kept z t_ := by
  unfold commit at e_
  try dsimp only at e_
  repeat' split at e_
  all_goals first
    | (cases e_; done)
    | (cases e_
       repeat'
         first
         | (extract_lets -merge -useContext -underBinder +onlyGivenNames x; apply Kept.cut (x := x); rotate_left; intro hx; clear_value x; rotate_left; dsimp only [x]; clear x)
         | (extract_lets -merge -useContext -underBinder +onlyGivenNames x; subst x)
         | with_reducible assumption
         | with_reducible apply Kept.refl
         | (with_reducible apply commitState_keptE; rotate_left; assumption)
         | with_reducible apply commitSegs_kept
         | with_reducible apply Kept.ite
         | intro _
         | with_reducible rfl
         | split
         | with_reducible apply Kept.set
         | (simp only [lengths, modAt_length, setAt_length, List.length_map, List.length_mapIdx]; done))

theorem spoil_kept {z : State} {c : Cmd} {s : State} (kz : Kept z s) : Kept z (spoil c s) := by
  unfold spoil
  repeat'
    first
    | (extract_lets -merge -useContext -underBinder +onlyGivenNames x; apply Kept.cut (x := x); rotate_left; intro hx; clear_value x; rotate_left; dsimp only [x]; clear x)
    | (extract_lets -merge -useContext -underBinder +onlyGivenNames x; subst x)
    | with_reducible assumption
    | with_reducible apply Kept.refl
    | with_reducible apply Kept.foldl
    | with_reducible apply commitSegs_kept
    | with_reducible apply writeAperture_kept
    | with_reducible apply drawn_kept
    | with_reducible apply modSlot_kept
    | with_reducible apply modInstall_kept
    | with_reducible apply Kept.ite
    | intro _
    | with_reducible rfl
    | split
    | with_reducible apply Kept.set
    | (simp only [lengths, modAt_length, setAt_length, List.length_map, List.length_mapIdx]; done)

theorem releaseHeld_kept {z : State} {s : State} (kz : Kept z s) : Kept z (releaseHeld s) := by
  unfold releaseHeld
  repeat'
    first
    | (extract_lets -merge -useContext -underBinder +onlyGivenNames x; subst x)
    | with_reducible assumption
    | with_reducible apply Kept.refl
    | with_reducible apply Kept.ite
    | intro _
    | with_reducible rfl
    | split
    | with_reducible apply Kept.set
    | (simp only [lengths]; done)

theorem keySpent_kept {z : State} {f : Nat} {s : State} (kz : Kept z s) : Kept z (keySpent f s) := by
  unfold keySpent
  repeat'
    first
    | with_reducible assumption
    | with_reducible apply Kept.refl
    | with_reducible apply leaveConf_kept
    | with_reducible apply modConf_kept
    | with_reducible apply Kept.ite
    | intro _

theorem retireCmd_kept {z : State} {c : Cmd} {status : Nat} {result : Nat} {s : State} (kz : Kept z s) : Kept z (retireCmd c status result s) := by
  unfold retireCmd
  repeat'
    first
    | with_reducible assumption
    | with_reducible apply Kept.refl
    | with_reducible apply settleAll_kept
    | with_reducible apply openReplays_kept
    | with_reducible apply releaseHeld_kept
    | with_reducible apply complete_kept
    | with_reducible apply Kept.ite
    | intro _
    | with_reducible rfl
    | split
    | with_reducible apply Kept.set
    | (simp only [lengths, modAt_length, setAt_length, List.length_map, List.length_mapIdx]; done)

theorem finishFailed_kept {z : State} {c : Cmd} {status : Nat} {result : Nat} {s : State} (kz : Kept z s) : Kept z (finishFailed c status result s) := by
  unfold finishFailed
  repeat'
    first
    | with_reducible assumption
    | with_reducible apply Kept.refl
    | with_reducible apply retireCmd_kept
    | with_reducible apply undo_kept

theorem struckCommit_kept {z : State} {c : Cmd} {s : State} (kz : Kept z s) : Kept z (struckCommit c s) := by
  unfold struckCommit
  repeat'
    first
    | with_reducible assumption
    | with_reducible apply Kept.refl
    | with_reducible apply finishFailed_kept
    | with_reducible apply keySpent_kept
    | with_reducible apply spoil_kept
    | with_reducible apply drawn_kept
    | with_reducible apply Kept.ite
    | intro _
    | with_reducible rfl
    | split
    | with_reducible apply Kept.set
    | (simp only [lengths, modAt_length, setAt_length, List.length_map, List.length_mapIdx]; done)

theorem struckBy_kept {z : State} {c : Cmd} {status : Nat} {result : Nat} {s : State} (kz : Kept z s) : Kept z (struckBy c status result s) := by
  unfold struckBy
  repeat'
    first
    | with_reducible assumption
    | with_reducible apply Kept.refl
    | with_reducible apply struckCommit_kept
    | with_reducible apply finishFailed_kept
    | with_reducible apply failCmd_kept
    | with_reducible apply Kept.ite
    | intro _
    | with_reducible rfl
    | split
    | with_reducible apply Kept.set
    | (simp only [lengths, modAt_length, setAt_length, List.length_map, List.length_mapIdx]; done)

theorem finishDone_kept {z : State} {c : Cmd} {commitFault : Bool} {s : State} (kz : Kept z s) : Kept z (finishDone c commitFault s) := by
  unfold finishDone
  repeat'
    first
    | with_reducible assumption
    | with_reducible apply Kept.refl
    | with_reducible apply struckCommit_kept
    | (with_reducible apply commit_keptE; rotate_left; assumption)
    | with_reducible apply finishFailed_kept
    | with_reducible apply recordFail_kept
    | with_reducible apply retireCmd_kept
    | with_reducible apply letGo_kept
    | with_reducible apply keySpent_kept
    | with_reducible apply Kept.ite
    | intro _
    | with_reducible rfl
    | split
    | with_reducible apply Kept.set
    | (simp only [lengths, modAt_length, setAt_length, List.length_map, List.length_mapIdx]; done)

theorem execCommandComplete_keptR {id : Nat} {fault : EndFault} {s : State} : KeptR s (execCommandComplete id fault s) := by
  unfold execCommandComplete
  repeat'
    first
    | with_reducible assumption
    | with_reducible apply Kept.refl
    | with_reducible apply KeptR.unit
    | with_reducible apply KeptR.regWrite
    | with_reducible apply KeptR.ok
    | with_reducible apply KeptR.next
    | with_reducible apply KeptR.fault
    | with_reducible apply KeptR.refused
    | with_reducible apply finishFailed_kept
    | with_reducible apply struckBy_kept
    | with_reducible apply drawn_kept
    | with_reducible apply finishDone_kept
    | (with_reducible apply commit_keptE; rotate_left; assumption)
    | with_reducible apply Kept.ite
    | intro _
    | with_reducible rfl
    | split
    | with_reducible apply Kept.set
    | (simp only [lengths, modAt_length, setAt_length, List.length_map, List.length_mapIdx]; done)

end Sys2Proof.Laws
end

