-- ==== Sys2Proof/Laws/KeptRegisters.lean ====
section
/-! SUPPORT. Laws/KeptRegisters.lean: every operation of Machine/Registers.lean keeps what `Kept` says. -/

set_option Elab.async false

namespace Sys2Proof.Laws
open Sys2Proof Sys2Proof.Machine

theorem write32_kept {z : State} {a : Access} {f : Nat → State → State} {s : State} (h_f : ∀ (a0 : Nat) (y : State), Kept y (f a0 y)) (kz : Kept z s) : Kept z (write32 a f s) := by
  unfold write32
  repeat'
    first
    | with_reducible assumption
    | with_reducible apply Kept.refl
    | with_reducible apply h_f
    | (with_reducible refine Kept.trans ?_ (h_f ..))
    | with_reducible apply Kept.ite
    | intro _

theorem write64_kept {z : State} {a : Access} {cur : Nat} {f : Nat → State → State} {s : State} (h_f : ∀ (a0 : Nat) (y : State), Kept y (f a0 y)) (kz : Kept z s) : Kept z (write64 a cur f s) := by
  unfold write64
  repeat'
    first
    | with_reducible assumption
    | with_reducible apply Kept.refl
    | with_reducible apply h_f
    | (with_reducible refine Kept.trans ?_ (h_f ..))

theorem writeWhole_kept {z : State} {a : Access} {f : Nat → State → State} {s : State} (h_f : ∀ (a0 : Nat) (y : State), Kept y (f a0 y)) (kz : Kept z s) : Kept z (writeWhole a f s) := by
  unfold writeWhole
  repeat'
    first
    | with_reducible assumption
    | with_reducible apply Kept.refl
    | with_reducible apply h_f
    | (with_reducible refine Kept.trans ?_ (h_f ..))
    | with_reducible apply Kept.ite
    | intro _

theorem ringWindowWrite_kept {z : State} {f : Nat} {a : Access} {s : State} (kz : Kept z s) : Kept z (ringWindowWrite f a s) := by
  unfold ringWindowWrite
  repeat'
    first
    | (extract_lets -merge -useContext -underBinder +onlyGivenNames x; subst x)
    | with_reducible assumption
    | with_reducible apply Kept.refl
    | with_reducible apply write32_kept
    | with_reducible apply modHifFunc_kept
    | with_reducible apply write64_kept
    | with_reducible apply modRing_kept
    | with_reducible apply writeWhole_kept
    | with_reducible apply Kept.ite
    | intro _
    | with_reducible rfl
    | split

theorem portRegWrite_kept {z : State} {f : Nat} {a : Access} {s : State} (kz : Kept z s) : Kept z (portRegWrite f a s) := by
  unfold portRegWrite
  dsimp only
  split
  · exact write64_kept (fun _ y => Kept.ite (fun _ => modFuncCfg_kept (Kept.refl y)) (fun _ => Kept.refl y)) kz
  · exact Kept.ite (fun _ => write32_kept (fun _ y => modPort_kept (Kept.refl y)) kz) (fun _ => kz)
  · exact Kept.ite (fun _ => write32_kept (fun _ y => modPort_kept (Kept.refl y)) kz) (fun _ => kz)
  · exact kz

theorem hifWrite_kept {z : State} {f : Nat} {a : Access} {s : State} (kz : Kept z s) : Kept z (hifWrite f a s) := by
  unfold hifWrite
  repeat'
    first
    | with_reducible assumption
    | with_reducible apply Kept.refl
    | with_reducible apply portRegWrite_kept
    | with_reducible apply ringWindowWrite_kept
    | with_reducible apply Kept.ite
    | intro _

theorem quotaWrite_kept {z : State} {g : Nat} {v : Nat} {s : State} (kz : Kept z s) : Kept z (quotaWrite g v s) := by
  unfold quotaWrite
  repeat'
    first
    | (extract_lets -merge -useContext -underBinder +onlyGivenNames x; apply Kept.cut (x := x); rotate_left; intro hx; clear_value x; rotate_left; dsimp only [x]; clear x)
    | (extract_lets -merge -useContext -underBinder +onlyGivenNames x; subst x)
    | with_reducible assumption
    | with_reducible apply Kept.refl
    | with_reducible apply Kept.ite
    | intro _
    | with_reducible rfl
    | split
    | with_reducible apply Kept.set
    | (simp only [lengths, setAt_length]; done)

theorem bowWrite_kept {z : State} {f : Nat} {a : Access} {s : State} (kz : Kept z s) : Kept z (bowWrite f a s) := by
  unfold bowWrite
  repeat'
    first
    | (extract_lets -merge -useContext -underBinder +onlyGivenNames x; subst x)
    | with_reducible assumption
    | with_reducible apply Kept.refl
    | with_reducible apply write32_kept
    | with_reducible apply write64_kept
    | with_reducible apply quotaWrite_kept
    | with_reducible apply Kept.ite
    | intro _
    | with_reducible rfl
    | split
    | with_reducible apply Kept.set
    | (simp only [lengths]; done)

theorem poolWrite_kept {z : State} {g : Nat} {h : Mmu → Mmu} {s : State} (kz : Kept z s) : Kept z (poolWrite g h s) := by
  unfold poolWrite
  repeat'
    first
    | (extract_lets -merge -useContext -underBinder +onlyGivenNames x; apply Kept.cut (x := x); rotate_left; intro hx; clear_value x; rotate_left; dsimp only [x]; clear x)
    | with_reducible assumption
    | with_reducible apply Kept.refl
    | with_reducible apply modMmu_kept
    | with_reducible apply Kept.ite
    | intro _

theorem mmuWrite_kept {z : State} {f : Nat} {a : Access} {s : State} (kz : Kept z s) : Kept z (mmuWrite f a s) := by
  unfold mmuWrite
  repeat'
    first
    | (extract_lets -merge -useContext -underBinder +onlyGivenNames x; subst x)
    | with_reducible assumption
    | with_reducible apply Kept.refl
    | with_reducible apply write64_kept
    | with_reducible apply modMmu_kept
    | with_reducible apply write32_kept
    | with_reducible apply poolWrite_kept
    | with_reducible apply Kept.ite
    | intro _
    | with_reducible rfl
    | split

theorem atnWrite_kept {z : State} {f : Nat} {a : Access} {s : State} (kz : Kept z s) : Kept z (atnWrite f a s) := by
  unfold atnWrite
  repeat'
    first
    | (extract_lets -merge -useContext -underBinder +onlyGivenNames x; subst x)
    | with_reducible assumption
    | with_reducible apply Kept.refl
    | with_reducible apply write32_kept
    | with_reducible apply Kept.ite
    | intro _
    | with_reducible rfl
    | split
    | with_reducible apply Kept.set
    | (simp only [lengths, setAt_length]; done)

theorem wstWrite_kept {z : State} {f : Nat} {a : Access} {s : State} (kz : Kept z s) : Kept z (wstWrite f a s) := by
  unfold wstWrite
  repeat'
    first
    | with_reducible assumption
    | with_reducible apply Kept.refl
    | with_reducible apply write32_kept
    | with_reducible apply setBudget_kept
    | with_reducible apply Kept.ite
    | intro _
    | with_reducible rfl
    | split
    | with_reducible apply Kept.set
    | (simp only [lengths, modAt_length, setAt_length, List.length_map, List.length_mapIdx]; done)

theorem cacheWrite_kept {z : State} {h : Mig → Mig} {s : State} (kz : Kept z s) : Kept z (cacheWrite h s) := by
  unfold cacheWrite
  repeat'
    first
    | (extract_lets -merge -useContext -underBinder +onlyGivenNames x; apply Kept.cut (x := x); rotate_left; intro hx; clear_value x; rotate_left; dsimp only [x]; clear x)
    | (extract_lets -merge -useContext -underBinder +onlyGivenNames x; subst x)
    | with_reducible assumption
    | with_reducible apply Kept.refl
    | with_reducible apply Kept.foldl
    | with_reducible apply zeroDev_kept
    | with_reducible apply Kept.ite
    | intro _
    | with_reducible rfl
    | split
    | with_reducible apply Kept.set
    | (simp only [lengths, modAt_length, setAt_length, List.length_map, List.length_mapIdx]; done)

theorem ddrWrite_kept {z : State} {f : Nat} {a : Access} {s : State} (kz : Kept z s) : Kept z (ddrWrite f a s) := by
  unfold ddrWrite
  repeat'
    first
    | with_reducible assumption
    | with_reducible apply Kept.refl
    | with_reducible apply write64_kept
    | with_reducible apply cacheWrite_kept
    | with_reducible apply write32_kept
    | with_reducible apply Kept.ite
    | intro _
    | with_reducible rfl
    | split

theorem camWrite_kept {z : State} {f : Nat} {a : Access} {s : State} (kz : Kept z s) : Kept z (camWrite f a s) := by
  unfold camWrite
  repeat'
    first
    | (extract_lets -merge -useContext -underBinder +onlyGivenNames x; subst x)
    | with_reducible assumption
    | with_reducible apply Kept.refl
    | with_reducible apply write32_kept
    | with_reducible apply write64_kept
    | with_reducible apply modCamPort_kept
    | with_reducible apply Kept.ite
    | intro _
    | with_reducible rfl
    | split
    | with_reducible apply Kept.set
    | (simp only [lengths]; done)

theorem drnWrite_kept {z : State} {f : Nat} {a : Access} {s : State} (kz : Kept z s) : Kept z (drnWrite f a s) := by
  unfold drnWrite
  repeat'
    first
    | (extract_lets -merge -useContext -underBinder +onlyGivenNames x; subst x)
    | with_reducible assumption
    | with_reducible apply Kept.refl
    | with_reducible apply write32_kept
    | with_reducible apply Kept.ite
    | intro _
    | with_reducible rfl
    | split
    | with_reducible apply Kept.set
    | (simp only [lengths]; done)

theorem pegWrite_kept {z : State} {f : Nat} {a : Access} {s : State} (kz : Kept z s) : Kept z (pegWrite f a s) := by
  unfold pegWrite
  repeat'
    first
    | (extract_lets -merge -useContext -underBinder +onlyGivenNames x; subst x)
    | with_reducible assumption
    | with_reducible apply Kept.refl
    | with_reducible apply write32_kept
    | with_reducible apply writeWhole_kept
    | with_reducible apply Kept.ite
    | intro _
    | with_reducible rfl
    | split
    | with_reducible apply Kept.set
    | (simp only [lengths]; done)

theorem capWrite_kept {z : State} {v : Nat} {s : State} (kz : Kept z s) : Kept z (capWrite v s) := by
  unfold capWrite
  repeat'
    first
    | (extract_lets -merge -useContext -underBinder +onlyGivenNames x; apply Kept.cut (x := x); rotate_left; intro hx; clear_value x; rotate_left; dsimp only [x]; clear x)
    | (extract_lets -merge -useContext -underBinder +onlyGivenNames x; subst x)
    | with_reducible assumption
    | with_reducible apply Kept.refl
    | with_reducible apply settleHints_kept
    | with_reducible apply Kept.ite
    | intro _
    | with_reducible rfl
    | split
    | with_reducible apply Kept.set
    | (simp only [lengths, modAt_length, setAt_length, List.length_map, List.length_mapIdx]; done)

theorem capoWrite_kept {z : State} {f : Nat} {a : Access} {s : State} (kz : Kept z s) : Kept z (capoWrite f a s) := by
  unfold capoWrite
  repeat'
    first
    | (extract_lets -merge -useContext -underBinder +onlyGivenNames x; apply Kept.cut (x := x); rotate_left; intro hx; clear_value x; rotate_left; dsimp only [x]; clear x)
    | (extract_lets -merge -useContext -underBinder +onlyGivenNames x; subst x)
    | with_reducible assumption
    | with_reducible apply Kept.refl
    | with_reducible apply write32_kept
    | with_reducible apply capWrite_kept
    | with_reducible apply writeWhole_kept
    | with_reducible apply Kept.ite
    | intro _
    | with_reducible rfl
    | split
    | with_reducible apply Kept.set
    | (simp only [lengths, modAt_length, setAt_length, List.length_map, List.length_mapIdx]; done)

theorem modRegion_kept {z : State} {n : Nat} {g : Region → Region} {s : State} (kz : Kept z s) : Kept z (modRegion n g s) := by
  unfold modRegion
  repeat'
    first
    | (extract_lets -merge -useContext -underBinder +onlyGivenNames x; subst x)
    | with_reducible assumption
    | with_reducible apply Kept.refl
    | with_reducible rfl
    | split
    | with_reducible apply Kept.set
    | (simp only [lengths]; done)

theorem safWrite_kept {z : State} {f : Nat} {a : Access} {s : State} (kz : Kept z s) : Kept z (safWrite f a s) := by
  unfold safWrite
  repeat'
    first
    | (extract_lets -merge -useContext -underBinder +onlyGivenNames x; subst x)
    | with_reducible assumption
    | with_reducible apply Kept.refl
    | with_reducible apply write32_kept
    | with_reducible apply write64_kept
    | with_reducible apply modRegion_kept
    | with_reducible apply writeWhole_kept
    | with_reducible apply Kept.ite
    | intro _
    | with_reducible rfl
    | split
    | with_reducible apply Kept.set
    | (simp only [lengths, setAt_length]; done)

theorem copyAreaWrite_kept {z : State} {p : Nat} {h : Sec → Sec} {s : State} (kz : Kept z s)
    (k : ∀ d, (h d).conf.length = d.conf.length ∧ (h d).wcopyBase.length = d.wcopyBase.length ∧
      (h d).wcopySize.length = d.wcopySize.length) : Kept z (copyAreaWrite p h s) := by
  unfold copyAreaWrite
  refine Kept.ite (fun _ => kz) (fun _ => Kept.set kz rfl rfl ?_)
  simp only [lengths, (k _).1, (k _).2.1, (k _).2.2]

theorem secWrite_kept {z : State} {f : Nat} {a : Access} {s : State} (kz : Kept z s) : Kept z (secWrite f a s) := by
  unfold secWrite
  repeat'
    first
    | (extract_lets -merge -useContext -underBinder +onlyGivenNames x; subst x)
    | with_reducible assumption
    | with_reducible apply Kept.refl
    | with_reducible apply write64_kept
    | with_reducible apply copyAreaWrite_kept
    | with_reducible apply write32_kept
    | with_reducible apply writeWhole_kept
    | with_reducible apply modConf_kept
    | with_reducible apply Kept.ite
    | intro _
    | with_reducible rfl
    | split
    | with_reducible apply Kept.set
    | (refine ⟨?_, ?_, ?_⟩ <;> simp only [modAt_length, setAt_length]; done)
    | (simp only [lengths]; done)

theorem fwuWrite_kept {z : State} {f : Nat} {a : Access} {s : State} (kz : Kept z s) : Kept z (fwuWrite f a s) := by
  unfold fwuWrite
  repeat'
    first
    | (extract_lets -merge -useContext -underBinder +onlyGivenNames x; subst x)
    | with_reducible assumption
    | with_reducible apply Kept.refl
    | with_reducible apply writeWhole_kept
    | with_reducible apply write32_kept
    | with_reducible apply Kept.ite
    | intro _
    | with_reducible rfl
    | split
    | with_reducible apply Kept.set
    | (simp only [lengths, setAt_length]; done)

theorem rstWrite_kept {z : State} {f : Nat} {a : Access} {s : State} (kz : Kept z s) : Kept z (rstWrite f a s) := by
  unfold rstWrite
  repeat'
    first
    | (extract_lets -merge -useContext -underBinder +onlyGivenNames x; subst x)
    | with_reducible assumption
    | with_reducible apply Kept.refl
    | with_reducible apply write32_kept
    | with_reducible apply Kept.ite
    | intro _
    | with_reducible rfl
    | split
    | with_reducible apply Kept.set
    | (simp only [lengths]; done)

theorem msixWrite_kept {z : State} {f : Nat} {v : Nat} {part : Nat} {a : Access} {s : State} (kz : Kept z s) : Kept z (msixWrite f v part a s) := by
  unfold msixWrite
  repeat'
    first
    | with_reducible assumption
    | with_reducible apply Kept.refl
    | with_reducible apply modVector_kept
    | with_reducible apply setMask_kept
    | with_reducible apply Kept.ite
    | intro _

theorem blockWrite_kept {z : State} {f : Nat} {block : Nat} {a : Access} {s : State} (kz : Kept z s) : Kept z (blockWrite f block a s) := by
  unfold blockWrite
  repeat'
    first
    | with_reducible assumption
    | with_reducible apply Kept.refl
    | with_reducible apply bowWrite_kept
    | with_reducible apply mmuWrite_kept
    | with_reducible apply wstWrite_kept
    | with_reducible apply ddrWrite_kept
    | with_reducible apply atnWrite_kept
    | with_reducible apply camWrite_kept
    | with_reducible apply drnWrite_kept
    | with_reducible apply pegWrite_kept
    | with_reducible apply capoWrite_kept
    | with_reducible apply safWrite_kept
    | with_reducible apply secWrite_kept
    | with_reducible apply fwuWrite_kept
    | with_reducible apply rstWrite_kept
    | with_reducible apply Kept.ite
    | intro _
    | with_reducible rfl
    | split
    | with_reducible apply Kept.set
    | (simp only [lengths, modAt_length, setAt_length, List.length_map, List.length_mapIdx]; done)

theorem physWrite_kept {z : State} {f : Nat} {a : Access} {s : State} (kz : Kept z s) : Kept z (physWrite f a s) := by
  unfold physWrite
  repeat'
    first
    | (extract_lets -merge -useContext -underBinder +onlyGivenNames x; subst x)
    | with_reducible assumption
    | with_reducible apply Kept.refl
    | with_reducible apply hifWrite_kept
    | with_reducible apply blockWrite_kept
    | with_reducible apply msixWrite_kept
    | with_reducible apply Kept.ite
    | intro _

theorem virtWrite_kept {z : State} {f : Nat} {a : Access} {s : State} (kz : Kept z s) : Kept z (virtWrite f a s) := by
  unfold virtWrite
  repeat'
    first
    | with_reducible assumption
    | with_reducible apply Kept.refl
    | with_reducible apply hifWrite_kept
    | with_reducible apply mmuWrite_kept
    | with_reducible apply msixWrite_kept
    | with_reducible apply Kept.ite
    | intro _

theorem execRegisterWrite_keptR {func : Nat} {offset : Nat} {width : Nat} {value : Nat} {s : State} : KeptR s (execRegisterWrite func offset width value s) := by
  unfold execRegisterWrite
  repeat'
    first
    | with_reducible assumption
    | with_reducible apply Kept.refl
    | with_reducible apply KeptR.unit
    | with_reducible apply KeptR.regWrite
    | with_reducible apply KeptR.ok
    | with_reducible apply KeptR.next
    | with_reducible apply KeptR.fault
    | with_reducible apply physWrite_kept
    | with_reducible apply virtWrite_kept
    | with_reducible apply Kept.ite
    | intro _
    | with_reducible rfl
    | split

end Sys2Proof.Laws
end

