-- ==== Sys2Proof/Laws/KeptIdle.lean ====
section
/-! SUPPORT. Laws/KeptIdle.lean: every operation of Machine/Idle.lean keeps what `Kept` says. -/

set_option Elab.async false

namespace Sys2Proof.Laws
open Sys2Proof Sys2Proof.Machine

theorem reprogramFirewalls_kept {z : State} {s : State} (kz : Kept z s) : Kept z (reprogramFirewalls s) := by
  unfold reprogramFirewalls
  repeat'
    first
    | (extract_lets -merge -useContext -underBinder +onlyGivenNames x; subst x)
    | with_reducible assumption
    | with_reducible apply Kept.refl
    | with_reducible apply Kept.ite
    | intro _
    | with_reducible rfl
    | split
    | with_reducible apply Kept.set
    | (simp only [lengths]; done)

/-- A tick of the clock changes device time alone. -/
theorem tick_shaped {s : State} (w : Shaped s) : Shaped (tick s) := shaped_of_lengths (s := s) (t := tick s) rfl w

/-- What the clock moves keeps, after its tick, what every operation keeps. -/
theorem idle_kept {s : State} : Kept (tick s) (idle s) :=
  reprogramFirewalls_kept (scrubTick_kept (feedTick_kept (Kept.refl (tick s))))

/-- Nothing differs but what the block's clock moves while no command waits: device memory, the frets and the slices that
their commands have handed to the frets' queues, the waits that DDR_STRIPE_WAIT counts, and the place of the patrol scrub. -/
def ClockOnly (s t : State) : Prop :=
  t = { s with
    mem := { s.mem with dev := t.mem.dev }
    hif := { s.hif with cmds := t.hif.cmds }
    bow := { s.bow with frets := t.bow.frets }
    stream := { s.stream with storeWaitUs := t.stream.storeWaitUs, storeSeen := t.stream.storeSeen
                              ddrWaitUs := t.stream.ddrWaitUs, ddrSeen := t.stream.ddrSeen }
    wst := { s.wst with running := t.wst.running }
    wstMore := { s.wstMore with scrubAt := t.wstMore.scrubAt } }

theorem ClockOnly.refl (s : State) : ClockOnly s s := rfl

theorem ClockOnly.trans {s t u : State} (h : ClockOnly s t) (k : ClockOnly t u) : ClockOnly s u := by
  unfold ClockOnly at *; rw [k, h]

theorem ClockOnly.foldl {α : Type} {f : State → α → State} {s t : State} {l : List α} (h : ClockOnly s t)
    (k : ∀ s a, ClockOnly s (f s a)) : ClockOnly s (l.foldl f t) := by
  induction l generalizing t with
  | nil => exact h
  | cons a l ih => exact ih (h.trans (k t a))

theorem clockOnly_copyDev {a b n : Nat} {s : State} : ClockOnly s (copyDev a b n s) :=
  ClockOnly.foldl (s := s) (t := zeroDev b n s) rfl fun _ _ => rfl

theorem clockOnly_copyRuns {a b : Nat} {l : List (Nat × Nat)} {s : State} : ClockOnly s (copyRuns a b l s) := by
  have h : ∀ (n : Nat) (t : State), ClockOnly s t →
      ClockOnly s (l.foldl (fun (p : Nat × State) r => (p.1 + r.2, copyDev (a + r.1) (b + p.1) r.2 p.2)) (n, t)).2 := by
    induction l with
    | nil => exact fun _ _ h => h
    | cons r l ih => exact fun n t h => ih _ _ (h.trans clockOnly_copyDev)
  exact h 0 s (ClockOnly.refl s)

theorem clockOnly_landPieces {i : Nat} {l : List (Option Win)} {s : State} : ClockOnly s (landPieces i l s) := by
  unfold landPieces
  refine ClockOnly.foldl (ClockOnly.refl s) fun t b => ?_
  split
  · rfl
  · extract_lets was
    clear_value was
    split
    · rfl
    · split
      · rfl
      · exact clockOnly_copyRuns

theorem clockOnly_queueBehind {i : Nat} {s : State} : ClockOnly s (queueBehind i s) := by
  unfold queueBehind
  split
  · rfl
  · split
    · rfl
    · split <;> rfl

theorem clockOnly_queueTick {i : Nat} {s : State} : ClockOnly s (queueTick i s) := by
  unfold queueTick
  split
  · exact clockOnly_queueBehind
  · split
    · rfl
    · exact ClockOnly.trans (t := modFret i _ s) rfl clockOnly_queueBehind

theorem clockOnly_fretTick {s : State} {i : Nat} : ClockOnly s (fretTick s i) := by
  unfold fretTick
  split
  · rfl
  · split
    · rfl
    · extract_lets s1 before
      exact clockOnly_queueTick.trans (ClockOnly.trans (t := modFret i _ s1) rfl clockOnly_landPieces)

theorem clockOnly_stripeTick {s : State} : ClockOnly s (stripeTick s) := by
  unfold stripeTick
  dsimp only
  split <;> split <;> rfl

theorem clockOnly_landHand {h : HandOver × HandOver} {s : State} : ClockOnly s (landHand h s) := by
  unfold landHand
  split
  · rfl
  · exact ClockOnly.foldl (ClockOnly.refl s) fun _ _ => rfl

theorem clockOnly_handRun {r : Run} {s : State} : ClockOnly s (handRun r s) :=
  ClockOnly.foldl rfl fun _ _ => clockOnly_landHand

theorem clockOnly_handsTick {s : State} : ClockOnly s (handsTick s) :=
  ClockOnly.foldl (ClockOnly.refl s) fun _ _ => clockOnly_handRun

theorem clockOnly_feedTick {s : State} : ClockOnly s (feedTick s) := by
  unfold feedTick
  exact ((ClockOnly.foldl (ClockOnly.refl s) fun _ _ => clockOnly_fretTick).trans clockOnly_handsTick).trans clockOnly_stripeTick

theorem clockOnly_scrubTick {s : State} : ClockOnly s (scrubTick s) := by
  unfold scrubTick
  split
  · rfl
  · split <;> rfl

/-- An idle step: the tick, what moves with it, and the firewalls. -/
theorem idle_clockOnly {s : State} : ClockOnly (tick s) (scrubTick (feedTick (tick s))) :=
  clockOnly_feedTick.trans clockOnly_scrubTick

/-- The BRIDGE firewalls open in an idle step when MGMT is ON and the firmware runs (13_power_domains R425). -/
theorem idle_firewall {s : State} : (idle s).pwr.firewallShut = (s.pwr.firewallShut && !(domOn s 0 && decide (3 ≤ s.clk.stage))) := by
  have k := idle_clockOnly (s := s)
  unfold idle
  generalize scrubTick (feedTick (tick s)) = u at k
  unfold ClockOnly at k
  have e : u.pwr = s.pwr ∧ u.clk = s.clk := by rw [k]; exact ⟨rfl, rfl⟩
  unfold reprogramFirewalls
  have d : (domOn u 0 && decide (3 ≤ u.clk.stage)) = (domOn s 0 && decide (3 ≤ s.clk.stage)) := by
    unfold domOn domSt; rw [e.1, e.2]
  rw [d]
  cases (domOn s 0 && decide (3 ≤ s.clk.stage)) <;> simp [e.1]

/-- Where no fret runs a slice, no unit waits for a tier and no scrub runs, an idle step moves time and the firewalls alone. -/
theorem idle_quiet {s : State} (h1 : ∀ f ∈ s.bow.frets, f.slots = [])
    (h2 : ∀ p ∈ s.stream.passes, ∀ u ∈ p.units, ∀ b, waitsTier b u = false) (h3 : bit s.wst.running 4 = false) :
    idle s = { s with now := (idle s).now, pwr := { s.pwr with firewallShut := (idle s).pwr.firewallShut } } := by
  have r : ∀ i, (fretOf s i).run = none := by
    intro i
    unfold fretOf
    rw [List.getD_eq_getElem?_getD]
    cases e : s.bow.frets[i]? with
    | none => rfl
    | some f =>
      have q := h1 f (List.mem_of_getElem? e)
      unfold Fret.slots at q
      exact Option.toList_eq_nil_iff.1 (List.append_eq_nil_iff.1 q).1
  have a : (List.range 48).foldl fretTick (tick s) = tick s := by
    generalize List.range 48 = l
    induction l with
    | nil => rfl
    | cons i l ih =>
      have e : fretTick (tick s) i = tick s := by
        unfold fretTick
        have : (fretOf (tick s) i).run = none := r i
        rw [this]
      rw [List.foldl_cons, e, ih]
  have b : handsTick (tick s) = tick s := by
    have m : runningSlices (tick s) = [] := by
      have q : s.bow.frets.flatMap Fret.slots = [] := List.flatMap_eq_nil_iff.2 h1
      exact congrArg List.eraseDups q
    unfold handsTick
    rw [m]; rfl
  have w : ∀ x, (s.stream.passes.any fun p => p.units.any (waitsTier x)) = false := by
    intro x
    rw [List.any_eq_false]
    intro p hp
    rw [Bool.not_eq_true, List.any_eq_false]
    intro u hu
    rw [h2 p hp u hu x]; exact Bool.false_ne_true
  have c : stripeTick (tick s) = tick s := by
    unfold stripeTick
    have wt : ∀ x, ((tick s).stream.passes.any fun p => p.units.any (waitsTier x)) = false := w
    simp only [wt, Bool.false_and, Bool.false_eq_true, if_false]
  have d : scrubTick (tick s) = tick s := by
    unfold scrubTick
    have : bit (tick s).wst.running 4 = false := h3
    simp only [this, Bool.not_false, Bool.true_or, if_true]
  have e : idle s = reprogramFirewalls (tick s) := by
    unfold idle feedTick; rw [a, b, c, d]
  rw [e]
  unfold reprogramFirewalls
  split <;> rfl

end Sys2Proof.Laws
end

