-- ==== Sys2Proof/Laws/KeptExec.lean ====
section
/-! SUPPORT. Laws/KeptExec.lean: every command and event, and so every step, keeps what `Kept` says. -/

set_option Elab.async false

namespace Sys2Proof.Laws
open Sys2Proof Sys2Proof.Machine

/-- Whatever a command does, the next state keeps what `Kept` says of the state it ran in. -/
theorem exec_keptR {i : Instr} {s : State} : KeptR s (exec i s) := by
  cases i with
  | matmul => exact execMatmul_keptR
  | attention => exact execAttention_keptR
  | attentionBwd => exact execAttentionBwd_keptR
  | recurrent => exact execRecurrent_keptR
  | scan => exact execScan_keptR
  | conv => exact execConv_keptR
  | pool => exact execPool_keptR
  | regroup => exact execRegroup_keptR
  | gcoreRun => exact execGcoreRun_keptR
  | visionPass => exact execVisionPass_keptR
  | streamModel => exact execStreamModel_keptR
  | copy => exact execCopy_keptR
  | fill => exact execFill_keptR
  | modelPlace => exact execModelPlace_keptR
  | barrier => exact execBarrier_keptR
  | fenceSignal => exact execFenceSignal_keptR
  | powerHint => exact execPowerHint_keptR
  | fusedGroup => exact execFusedGroup_keptR
  | nop => exact execNop_keptR
  | sessionOpen => exact execSessionOpen_keptR
  | sessionClose => exact execSessionClose_keptR
  | sessionTruncate => exact execSessionTruncate_keptR
  | prefixAttach => exact execPrefixAttach_keptR
  | prefixPublish => exact execPrefixPublish_keptR
  | prefixDrop => exact execPrefixDrop_keptR
  | cameraBind => exact execCameraBind_keptR
  | cameraUnbind => exact execCameraUnbind_keptR
  | droneConfig => exact execDroneConfig_keptR
  | wakePlanSet => exact execWakePlanSet_keptR
  | prerollReplay => exact execPrerollReplay_keptR
  | installBegin => exact execInstallBegin_keptR
  | installData => exact execInstallData_keptR
  | installCommit => exact execInstallCommit_keptR
  | installCancel => exact execInstallCancel_keptR
  | modelRelease => exact execModelRelease_keptR
  | fwWrite => exact execFwWrite_keptR
  | fwActivate => exact execFwActivate_keptR
  | domainSet => exact execDomainSet_keptR
  | safetyConfigure => exact execSafetyConfigure_keptR
  | safetyRun => exact execSafetyRun_keptR
  | safetyStop => exact execSafetyStop_keptR
  | safetyClear => exact execSafetyClear_keptR
  | safetyGoldenSet => exact execSafetyGoldenSet_keptR
  | safetySelftest => exact execSafetySelftest_keptR
  | submissionDoorbell => exact execSubmissionDoorbell_keptR
  | headDoorbell => exact execHeadDoorbell_keptR
  | descriptorAccept => exact execDescriptorAccept_keptR
  | descriptorFetchError => exact execDescriptorFetchError_keptR
  | recordWriteError => exact execRecordWriteError_keptR
  | fencedCommandStart => exact execFencedCommandStart_keptR
  | commandComplete => exact execCommandComplete_keptR
  | interruptCoalesceTimeout => exact execInterruptCoalesceTimeout_keptR
  | eventLostRecord => exact execEventLostRecord_keptR
  | ringEnable => exact execRingEnable_keptR
  | ringDrain => exact execRingDrain_keptR
  | ringAbort => exact execRingAbort_keptR
  | ringDisable => exact execRingDisable_keptR
  | hifVersionWrite => exact execHifVersionWrite_keptR
  | hifFuncRingsWrite => exact execHifFuncRingsWrite_keptR
  | registerWrite => exact execRegisterWrite_keptR
  | sliceComplete => exact execSliceComplete_keptR
  | preemptGraceExpiry a0 => exact execPreemptGraceExpiry_keptR (id := a0) (s := s)
  | sliceWatchdogExpiry => exact execSliceWatchdogExpiry_keptR
  | fretFault => exact execFretFault_keptR
  | sramCorrectedWriteback => exact execSramCorrectedWriteback_keptR
  | stringBufferDoubleError => exact execStringBufferDoubleError_keptR
  | windowRefetchDone => exact execWindowRefetchDone_keptR
  | passStart => exact execPassStart_keptR
  | unitFetchIssue => exact execUnitFetchIssue_keptR
  | unitPartArrive => exact execUnitPartArrive_keptR
  | lateBudgetExpiry => exact execLateBudgetExpiry_keptR
  | weightStoreReadDone => exact execWeightStoreReadDone_keptR
  | chunkDecodeDone => exact execChunkDecodeDone_keptR
  | ddrCopyRereadDone => exact execDdrCopyRereadDone_keptR
  | migrationEpochExpiry => exact execMigrationEpochExpiry_keptR
  | migrationPromote => exact execMigrationPromote_keptR
  | migrationCopyDone => exact execMigrationCopyDone_keptR
  | migrationSlotReuse => exact execMigrationSlotReuse_keptR
  | refreshLimitReached => exact execRefreshLimitReached_keptR
  | relocationRaise => exact execRelocationRaise_keptR
  | disturbOverrun => exact execDisturbOverrun_keptR
  | relocationCopyDone => exact execRelocationCopyDone_keptR
  | journalRecordDurable => exact execJournalRecordDurable_keptR
  | programDone => exact execProgramDone_keptR
  | erasePendingErase => exact execErasePendingErase_keptR
  | blockEraseDone => exact execBlockEraseDone_keptR
  | patrolDue => exact execPatrolDue_keptR
  | journalCheckpointTrigger => exact execJournalCheckpointTrigger_keptR
  | bstateDeltaTimer => exact execBstateDeltaTimer_keptR
  | ageClockMinute => exact execAgeClockMinute_keptR
  | dieFailed => exact execDieFailed_keptR
  | startPatrol => exact execStartPatrol_keptR
  | startCompaction => exact execStartCompaction_keptR
  | startScrub => exact execStartScrub_keptR
  | zhDmaq => exact execZhDmaq_keptR
  | zhDmaw => exact execZhDmaw_keptR
  | zhInfo => exact execZhInfo_keptR
  | zhExit => exact execZhExit_keptR
  | fretDmaDone => exact execFretDmaDone_keptR
  | gcoreBudgetExpiry => exact execGcoreBudgetExpiry_keptR
  | powerHintPrepare => exact execPowerHintPrepare_keptR
  | powerHintPhaseStart => exact execPowerHintPhaseStart_keptR
  | powerHintRestore => exact execPowerHintRestore_keptR
  | bowPortSplitWrite => exact execBowPortSplitWrite_keptR
  | bowHotsetCtrlWrite => exact execBowHotsetCtrlWrite_keptR
  | hotsetResize => exact execHotsetResize_keptR
  | bowHotPinWrite => exact execBowHotPinWrite_keptR
  | hotSwitchDone => exact execHotSwitchDone_keptR
  | detectorFrame => exact execDetectorFrame_keptR
  | detectorCandidateQuiet => exact execDetectorCandidateQuiet_keptR
  | detectorCandidateTimeout => exact execDetectorCandidateTimeout_keptR
  | detectorHoldoffExpiry => exact execDetectorHoldoffExpiry_keptR
  | prerollBlockBoundary => exact execPrerollBlockBoundary_keptR
  | droneConfigTakeEffect => exact execDroneConfigTakeEffect_keptR
  | vibSample => exact execVibSample_keptR
  | levelSample => exact execLevelSample_keptR
  | cameraMotionSample => exact execCameraMotionSample_keptR
  | camSampleTimeout => exact execCamSampleTimeout_keptR
  | vibFault => exact execVibFault_keptR
  | pdmFault => exact execPdmFault_keptR
  | drnPlanKick => exact execDrnPlanKick_keptR
  | drnPlanAck => exact execDrnPlanAck_keptR
  | planHoldExpiry => exact execPlanHoldExpiry_keptR
  | verifierScore => exact execVerifierScore_keptR
  | preloadStart => exact execPreloadStart_keptR
  | csiFrameStart => exact execCsiFrameStart_keptR
  | csiLinePacket => exact execCsiLinePacket_keptR
  | csiFrameEnd _ _ a2 => exact execCsiFrameEnd_keptR (_frameNo := a2)
  | frameEndTimeout => exact execFrameEndTimeout_keptR
  | frameRingDoorbell => exact execFrameRingDoorbell_keptR
  | pipelineLineBoundary => exact execPipelineLineBoundary_keptR
  | memoryPassStart => exact execMemoryPassStart_keptR
  | inlineOutputsComplete => exact execInlineOutputsComplete_keptR
  | safetyJobEnd => exact execSafetyJobEnd_keptR
  | frameDeadlineExpiry => exact execFrameDeadlineExpiry_keptR
  | absentFrameTimeout => exact execAbsentFrameTimeout_keptR
  | verdictRingDoorbell => exact execVerdictRingDoorbell_keptR
  | lockstepMismatch => exact execLockstepMismatch_keptR
  | islandSramDoubleError => exact execIslandSramDoubleError_keptR
  | keasterParityError => exact execKeasterParityError_keptR
  | partitionFormed => exact execPartitionFormed_keptR
  | capoTick => exact execCapoTick_keptR
  | pgmBudgetTick => exact execPgmBudgetTick_keptR
  | droopCrossing => exact execDroopCrossing_keptR
  | droopRecovery => exact execDroopRecovery_keptR
  | droopStuck => exact execDroopStuck_keptR
  | droopSelfCheck => exact execDroopSelfCheck_keptR
  | tempSample => exact execTempSample_keptR
  | thermalCapStep => exact execThermalCapStep_keptR
  | thermalLevelExit => exact execThermalLevelExit_keptR
  | supplyWarningCrossing => exact execSupplyWarningCrossing_keptR
  | supplyRecovered => exact execSupplyRecovered_keptR
  | dipHoldoffExpiry => exact execDipHoldoffExpiry_keptR
  | stormCapEnd => exact execStormCapEnd_keptR
  | supplyResetCrossing => exact execSupplyResetCrossing_keptR
  | powerGood => exact execPowerGood_keptR
  | powerGoodTimeout => exact execPowerGoodTimeout_keptR
  | clockLock => exact execClockLock_keptR
  | memoryPhaseDone => exact execMemoryPhaseDone_keptR
  | logicPhaseDone => exact execLogicPhaseDone_keptR
  | domainPowerDownStart => exact execDomainPowerDownStart_keptR
  | powerDownDone => exact execPowerDownDone_keptR
  | autoIdleExpiry => exact execAutoIdleExpiry_keptR
  | ddrTrainInvalidate => exact execDdrTrainInvalidate_keptR
  | clockMonitorWindow => exact execClockMonitorWindow_keptR
  | aonRtcMonitorWindow => exact execAonRtcMonitorWindow_keptR
  | pllLossOfLock => exact execPllLossOfLock_keptR
  | debugRequest => exact execDebugRequest_keptR
  | debugSubmit => exact execDebugSubmit_keptR
  | debugCheckDone => exact execDebugCheckDone_keptR
  | debugResponseTimeout => exact execDebugResponseTimeout_keptR
  | jtagExtest => exact execJtagExtest_keptR
  | getCertificate => exact execGetCertificate_keptR
  | challenge => exact execChallenge_keptR
  | getMeasurements => exact execGetMeasurements_keptR
  | keyExchange => exact execKeyExchange_keptR
  | endSession => exact execEndSession_keptR
  | confSet => exact execConfSet_keptR
  | confExit => exact execConfExit_keptR
  | fwuOpen => exact execFwuOpen_keptR
  | fwuAbort => exact execFwuAbort_keptR
  | fwuRaiseSec => exact execFwuRaiseSec_keptR
  | slotEraseDone => exact execSlotEraseDone_keptR
  | handoverBootCheckDone => exact execHandoverBootCheckDone_keptR
  | handoverFirmwareReady => exact execHandoverFirmwareReady_keptR
  | handoverTakeover => exact execHandoverTakeover_keptR
  | handoverTimeout => exact execHandoverTimeout_keptR
  | installGranuleDurable => exact execInstallGranuleDurable_keptR
  | suppliesValid => exact execSuppliesValid_keptR
  | resetNAssert => exact execResetNAssert_keptR
  | rstCtrlWarm => exact execRstCtrlWarm_keptR
  | pegWatchdogExpiry => exact execPegWatchdogExpiry_keptR
  | perstNAssert => exact execPerstNAssert_keptR
  | perstNRelease => exact execPerstNRelease_keptR
  | hotReset => exact execHotReset_keptR
  | functionLevelReset => exact execFunctionLevelReset_keptR
  | vfEnableChange => exact execVfEnableChange_keptR
  | rstEngineStart => exact execRstEngineStart_keptR
  | engineResetDone => exact execEngineResetDone_keptR
  | startFretTestDone => exact execStartFretTestDone_keptR
  | linkUp => exact execLinkUp_keptR
  | linkRecovery => exact execLinkRecovery_keptR
  | pcieCorrectableError => exact execPcieCorrectableError_keptR
  | unsupportedRequest => exact execUnsupportedRequest_keptR
  | poisonedWrite _ a1 a2 => exact execPoisonedWrite_keptR (_bar := a1) (_offset := a2)
  | completionError => exact execCompletionError_keptR
  | pcieFatalError => exact execPcieFatalError_keptR
  | busMasterDisable => exact execBusMasterDisable_keptR
  | d3hotEntry => exact execD3hotEntry_keptR
  | aspmL1Request => exact execAspmL1Request_keptR
  | msixUnmask => exact execMsixUnmask_keptR
  | ptmDialogue => exact execPtmDialogue_keptR
  | hifPtmStampRead => exact execHifPtmStampRead_keptR
  | bar4WindowRead => exact execBar4WindowRead_keptR
  | bar4WindowWrite => exact execBar4WindowWrite_keptR
  | mmuInvalPage => exact execMmuInvalPage_keptR
  | mmuInvalAll => exact execMmuInvalAll_keptR
  | mmuInvalDone => exact execMmuInvalDone_keptR
  | atnKeyWrite => exact execAtnKeyWrite_keptR
  | gcoreInstruction => exact execGcoreInstruction_keptR
  | ddrMigCtrlWrite => exact execDdrMigCtrlWrite_keptR
  | ddr5PatrolScrubDue => exact execDdr5PatrolScrubDue_keptR
  | powerSwitchReady => exact execPowerSwitchReady_keptR
  | suspendDieReady => exact execSuspendDieReady_keptR
  | csiDeskew => exact execCsiDeskew_keptR
  | sotError => exact execSotError_keptR
  | configurationRequest => exact execConfigurationRequest_keptR
  | linkL1Exit => exact execLinkL1Exit_keptR
  | avsCurrentCheck => exact execAvsCurrentCheck_keptR
  | negotiateAlgorithms => exact execNegotiateAlgorithms_keptR
  | keyUpdate => exact execKeyUpdate_keptR
  | heartbeat => exact execHeartbeat_keptR
  | sessionLoss => exact execSessionLoss_keptR

theorem idle_shaped {s : State} (w : Shaped s) : Shaped (idle s) := idle_kept.shape (tick_shaped w)

theorem step_nil {s : State} (h : s.pending = []) : step s = .next (idle s) := by unfold step; rw [h]
theorem step_cons {s : State} {c : Instr} {l : List Instr} (h : s.pending = c :: l) :
    step s = exec c { s with pending := l } := by unfold step; rw [h]

end Sys2Proof.Laws
end

