-- ==== Sys2Proof/Laws/KeptStep.lean ====
section
/-! SUPPORT. Laws/KeptStep.lean: every operation of Machine/Step.lean keeps what `Kept` says. -/

set_option Elab.async false

namespace Sys2Proof.Laws
open Sys2Proof Sys2Proof.Machine

theorem State_withFetchWord_kept {z : State} {s : State} {nbits : Nat} {w : Nat} (kz : Kept z s) : Kept z (State.withFetchWord s nbits w) := by
  simpa only [State.withFetchWord, decodeTableWord] using kz

end Sys2Proof.Laws
end

