-- ==== Sys2Proof/Laws/Registers.lean ====
section
/-! SUPPORT. Laws/Registers.lean: what no register write touches: host memory, accepted commands, pins, sessions, power domains, the wear
of the weight store's blocks; but for the program budget and the migration cache, device memory and the blocks; and it sends at most
one interrupt message (20_register_map; 18_host_ports R559). -/

set_option Elab.async false

namespace Sys2Proof
open Sys2Proof.Machine Sys2Proof.Laws

variable {s t : State} {f b p o w v : Nat} {a : Access}

/-- What a register write leaves alone. -/
def Laws.RegisterOnly (s t : State) : Prop :=
  t.mem = s.mem ∧ t.hif.cmds = s.hif.cmds ∧ t.pins = s.pins ∧ t.atn.sessions = s.atn.sessions ∧ t.wst.blocks = s.wst.blocks ∧
    t.pwr.domains = s.pwr.domains ∧ (t.irq.sent = s.irq.sent ∨ ∃ m, t.irq.sent = m :: s.irq.sent)

theorem Laws.RegisterOnly.refl (s : State) : RegisterOnly s s := ⟨rfl, rfl, rfl, rfl, rfl, rfl, .inl rfl⟩
theorem Laws.RegisterOnly.of (h : t.mem = s.mem ∧ t.hif.cmds = s.hif.cmds ∧ t.pins = s.pins ∧ t.atn.sessions = s.atn.sessions ∧ t.wst.blocks = s.wst.blocks ∧
    t.pwr.domains = s.pwr.domains ∧ t.irq.sent = s.irq.sent) : RegisterOnly s t :=
  ⟨h.1, h.2.1, h.2.2.1, h.2.2.2.1, h.2.2.2.2.1, h.2.2.2.2.2.1, .inl h.2.2.2.2.2.2⟩
theorem Laws.registerOnly_write32 {f : Nat → State → State} (h : ∀ v, RegisterOnly s (f v s)) : RegisterOnly s (write32 a f s) := by unfold write32; split; exact RegisterOnly.refl s; exact h _
theorem Laws.registerOnly_write64 {c : Nat} {f : Nat → State → State} (h : ∀ v, RegisterOnly s (f v s)) : RegisterOnly s (write64 a c f s) := by unfold write64; exact h _
theorem Laws.registerOnly_writeWhole {f : Nat → State → State} (h : ∀ v, RegisterOnly s (f v s)) : RegisterOnly s (writeWhole a f s) := by unfold writeWhole; split; exact h _; exact RegisterOnly.refl s
theorem Laws.registerOnly_hifWrite : RegisterOnly s (hifWrite f a s) := by
  unfold hifWrite ringWindowWrite portRegWrite; dsimp only
  repeat' (first | (refine registerOnly_write32 (fun v => ?_)) | (refine registerOnly_write64 (fun v => ?_)) | (refine registerOnly_writeWhole (fun v => ?_)) | split | exact RegisterOnly.of ⟨rfl, rfl, rfl, rfl, rfl, rfl, rfl⟩)
theorem Laws.registerOnly_bowWrite : RegisterOnly s (bowWrite f a s) := by
  unfold bowWrite quotaWrite; dsimp only
  repeat' (first | (refine registerOnly_write32 (fun v => ?_)) | (refine registerOnly_write64 (fun v => ?_)) | (refine registerOnly_writeWhole (fun v => ?_)) | split | exact RegisterOnly.of ⟨rfl, rfl, rfl, rfl, rfl, rfl, rfl⟩)
theorem Laws.registerOnly_mmuWrite : RegisterOnly s (mmuWrite f a s) := by
  unfold mmuWrite poolWrite; dsimp only
  repeat' (first | (refine registerOnly_write32 (fun v => ?_)) | (refine registerOnly_write64 (fun v => ?_)) | (refine registerOnly_writeWhole (fun v => ?_)) | split | exact RegisterOnly.of ⟨rfl, rfl, rfl, rfl, rfl, rfl, rfl⟩)
theorem Laws.registerOnly_wstWrite (h : a.reg % 0x10000 ≠ 0x50) : RegisterOnly s (wstWrite f a s) := by
  unfold wstWrite; dsimp only
  split
  · exact RegisterOnly.refl s
  · split <;> first | (rename_i e; exact absurd e h) | refine registerOnly_write32 (fun v => ?_) | exact RegisterOnly.refl s
    all_goals exact RegisterOnly.of ⟨rfl, rfl, rfl, rfl, rfl, rfl, rfl⟩
theorem Laws.registerOnly_ddrWrite (h : a.reg % 0x10000 ≠ 0x108) (k : a.reg % 0x10000 ≠ 0x110) : RegisterOnly s (ddrWrite f a s) := by
  unfold ddrWrite
  split
  · exact RegisterOnly.refl s
  · split <;> first | (rename_i e; exact absurd e h) | (rename_i e; exact absurd e k) | exact RegisterOnly.refl s
theorem Laws.registerOnly_atnWrite : RegisterOnly s (atnWrite f a s) := by
  unfold atnWrite; dsimp only
  repeat' (first | (refine registerOnly_write32 (fun v => ?_)) | (refine registerOnly_write64 (fun v => ?_)) | (refine registerOnly_writeWhole (fun v => ?_)) | split | exact RegisterOnly.of ⟨rfl, rfl, rfl, rfl, rfl, rfl, rfl⟩)
theorem Laws.registerOnly_camWrite : RegisterOnly s (camWrite f a s) := by
  unfold camWrite; dsimp only
  repeat' (first | (refine registerOnly_write32 (fun v => ?_)) | (refine registerOnly_write64 (fun v => ?_)) | (refine registerOnly_writeWhole (fun v => ?_)) | split | exact RegisterOnly.of ⟨rfl, rfl, rfl, rfl, rfl, rfl, rfl⟩)
theorem Laws.registerOnly_drnWrite : RegisterOnly s (drnWrite f a s) := by
  unfold drnWrite; dsimp only
  repeat' (first | (refine registerOnly_write32 (fun v => ?_)) | (refine registerOnly_write64 (fun v => ?_)) | (refine registerOnly_writeWhole (fun v => ?_)) | split | exact RegisterOnly.of ⟨rfl, rfl, rfl, rfl, rfl, rfl, rfl⟩)
theorem Laws.registerOnly_pegWrite : RegisterOnly s (pegWrite f a s) := by
  unfold pegWrite; dsimp only
  repeat' (first | (refine registerOnly_write32 (fun v => ?_)) | (refine registerOnly_write64 (fun v => ?_)) | (refine registerOnly_writeWhole (fun v => ?_)) | split | exact RegisterOnly.of ⟨rfl, rfl, rfl, rfl, rfl, rfl, rfl⟩)
theorem Laws.registerOnly_capoWrite : RegisterOnly s (capoWrite f a s) := by
  unfold capoWrite capWrite; dsimp only
  repeat' (first | (refine registerOnly_write32 (fun v => ?_)) | (refine registerOnly_write64 (fun v => ?_)) | (refine registerOnly_writeWhole (fun v => ?_)) | split | exact RegisterOnly.of ⟨rfl, rfl, rfl, rfl, rfl, rfl, rfl⟩)
theorem Laws.registerOnly_safWrite : RegisterOnly s (safWrite f a s) := by
  unfold safWrite; dsimp only
  repeat' (first | (refine registerOnly_write32 (fun v => ?_)) | (refine registerOnly_write64 (fun v => ?_)) | (refine registerOnly_writeWhole (fun v => ?_)) | split | exact RegisterOnly.of ⟨rfl, rfl, rfl, rfl, rfl, rfl, rfl⟩)
theorem Laws.registerOnly_secWrite : RegisterOnly s (secWrite f a s) := by
  unfold secWrite copyAreaWrite; dsimp only
  repeat' (first | (refine registerOnly_write32 (fun v => ?_)) | (refine registerOnly_write64 (fun v => ?_)) | (refine registerOnly_writeWhole (fun v => ?_)) | split | exact RegisterOnly.of ⟨rfl, rfl, rfl, rfl, rfl, rfl, rfl⟩)
theorem Laws.registerOnly_fwuWrite : RegisterOnly s (fwuWrite f a s) := by
  unfold fwuWrite; dsimp only
  repeat' (first | (refine registerOnly_write32 (fun v => ?_)) | (refine registerOnly_write64 (fun v => ?_)) | (refine registerOnly_writeWhole (fun v => ?_)) | split | exact RegisterOnly.of ⟨rfl, rfl, rfl, rfl, rfl, rfl, rfl⟩)
theorem Laws.registerOnly_rstWrite : RegisterOnly s (rstWrite f a s) := by
  unfold rstWrite; dsimp only
  repeat' (first | (refine registerOnly_write32 (fun v => ?_)) | (refine registerOnly_write64 (fun v => ?_)) | (refine registerOnly_writeWhole (fun v => ?_)) | split | exact RegisterOnly.of ⟨rfl, rfl, rfl, rfl, rfl, rfl, rfl⟩)
theorem Laws.registerOnly_msixWrite : RegisterOnly s (msixWrite f v p a s) := by
  unfold msixWrite setMask sendPending; dsimp only
  repeat' (first | split | exact RegisterOnly.of ⟨rfl, rfl, rfl, rfl, rfl, rfl, rfl⟩ | exact ⟨rfl, rfl, rfl, rfl, rfl, rfl, .inr ⟨_, rfl⟩⟩)
/-- A write of the program budget or of the migration cache. -/
abbrev Laws.WritesStore (b : Nat) (a : Access) : Prop :=
  b = 2 ∧ a.reg % 0x10000 = 0x50 ∨ b = 3 ∧ (a.reg % 0x10000 = 0x108 ∨ a.reg % 0x10000 = 0x110)

theorem Laws.registerOnly_blockWrite (h : ¬WritesStore b a) : RegisterOnly s (blockWrite f b a s) := by
  unfold blockWrite
  split <;> first
    | exact registerOnly_bowWrite | exact registerOnly_mmuWrite
    | exact registerOnly_wstWrite fun e => h (.inl ⟨rfl, e⟩)
    | exact registerOnly_ddrWrite (fun e => h (.inr ⟨rfl, .inl e⟩)) (fun e => h (.inr ⟨rfl, .inr e⟩))
    | exact registerOnly_atnWrite | exact registerOnly_camWrite | exact registerOnly_drnWrite | exact registerOnly_pegWrite
    | exact registerOnly_capoWrite | exact registerOnly_safWrite | exact registerOnly_secWrite | exact registerOnly_fwuWrite
    | exact registerOnly_rstWrite | exact RegisterOnly.refl s

/-! A change of the program budget starts what waits for a program; a change of the cache zeroes slots that still drain. -/

/-- What every register write leaves alone: device memory but for bytes that become 0, and the wear and retirement of blocks. -/
def Laws.StoreOnly (s t : State) : Prop :=
  t.mem.hostA = s.mem.hostA ∧ t.mem.hostB = s.mem.hostB ∧ t.mem.dev.Sublist s.mem.dev ∧ t.hif.cmds = s.hif.cmds ∧ t.pins = s.pins ∧
    t.atn.sessions = s.atn.sessions ∧ t.pwr.domains = s.pwr.domains ∧ (t.irq.sent = s.irq.sent ∨ ∃ m, t.irq.sent = m :: s.irq.sent) ∧
    ∀ k, (blockOf t k).pe = (blockOf s k).pe ∧ ((blockOf s k).state = 8 → (blockOf t k).state = 8)

theorem Laws.storeOnly_of (h : RegisterOnly s t) (i : t.ident = s.ident) : StoreOnly s t :=
  ⟨by rw [h.1], by rw [h.1], by rw [h.1]; all_goals exact List.Sublist.refl _, h.2.1, h.2.2.1, h.2.2.2.1, h.2.2.2.2.2.1, h.2.2.2.2.2.2, fun k => by
    rw [blockOf_congr h.2.2.2.2.1 i]; exact ⟨rfl, id⟩⟩

/-- Nothing but the weight store changes. -/
def Laws.WstOnly (s t : State) : Prop := t = { s with wst := t.wst, wstMore := t.wstMore }

theorem Laws.WstOnly.trans {u : State} (h : WstOnly s t) (k : WstOnly t u) : WstOnly s u := by unfold WstOnly at *; rw [k, h]
theorem Laws.WstOnly.foldl {l : List Nat} {g : State → Nat → State} (h : WstOnly s t) (k : ∀ u n, WstOnly u (g u n)) :
    WstOnly s (l.foldl g t) := by
  induction l generalizing t with
  | nil => exact h
  | cons n l ih => exact ih (h.trans (k t n))

theorem Laws.wstOnly_beginReloc {n k : Nat} : WstOnly s (beginReloc n k s) := by
  unfold beginReloc; split
  · rfl
  · split
    · rfl
    · split <;> rfl

theorem Laws.wstOnly_grantGranules {n : Nat} : WstOnly s (grantGranules n s) := by
  induction n generalizing s with
  | zero => rfl
  | succ n ih =>
    unfold grantGranules; split
    · rfl
    · split
      · exact WstOnly.trans (t := { s with wstMore := _ }) rfl ih
      · rfl

theorem Laws.wstOnly_grantAppend : WstOnly s (grantAppend s) := by
  unfold grantAppend; split <;> rfl

theorem Laws.wstOnly_grantPrograms : WstOnly s (grantPrograms s) := by
  unfold grantPrograms
  extract_lets s1
  have h1 : WstOnly s s1 := (WstOnly.foldl (s := s) (t := s) rfl fun _ _ => wstOnly_beginReloc).trans wstOnly_grantAppend
  exact (WstOnly.foldl h1 fun _ _ => wstOnly_beginReloc).trans wstOnly_grantGranules

theorem Laws.storeOnly_setBudget : StoreOnly s (setBudget s) := by
  have h : WstOnly s (setBudget s) := WstOnly.trans (t := { s with wst := _ }) rfl wstOnly_grantPrograms
  have b : ∀ k, (blockOf (setBudget s) k).pe = (blockOf s k).pe ∧ ((blockOf s k).state = 8 → (blockOf (setBudget s) k).state = 8) := by
    intro k
    have e : blockOf { s with wst := { s.wst with pgmDiesEff := programBudget s } } k = blockOf s k := blockOf_congr rfl rfl
    exact ⟨grantPrograms_pe.trans (congrArg Block.pe e), fun h => grantPrograms_state (by rw [e]; exact h)⟩
  generalize setBudget s = t at h b
  unfold WstOnly at h
  refine ⟨?_, ?_, ?_, ?_, ?_, ?_, ?_, .inl ?_, b⟩ <;> rw [h]
  all_goals exact List.Sublist.refl _

theorem Laws.storeOnly_cacheWrite {h : Mig → Mig} : StoreOnly s (cacheWrite h s) := by
  have z : ∀ (l : SMap (Option MigSlot)) (u : State), u.mem.dev.Sublist s.mem.dev → ∃ m, m.Sublist s.mem.dev ∧
      l.foldl (fun t p => zeroDev (s.stream.mig.base + 0x200000 * p.1) 0x200000 t) u = { u with mem := { u.mem with dev := m } } := by
    intro l
    induction l with
    | nil => exact fun u h => ⟨_, h, rfl⟩
    | cons p l ih =>
      intro u h
      exact ih (zeroDev _ _ u) (List.filter_sublist.trans h)
  unfold cacheWrite
  extract_lets g s1 s2
  split
  · exact storeOnly_of (RegisterOnly.refl s) rfl
  · obtain ⟨m, hm, e⟩ := z s.stream.mig.slots s1 (List.Sublist.refl _)
    have e2 : s2 = { s1 with mem := { s1.mem with dev := m } } := e
    rw [e2]
    exact ⟨rfl, rfl, hm, rfl, rfl, rfl, rfl, .inl rfl, fun k => by
      rw [blockOf_congr (s := s) (t := { s1 with mem := _, stream := _ }) rfl rfl]; exact ⟨rfl, id⟩⟩

theorem Laws.storeOnly_blockWrite (h : WritesStore b a) : StoreOnly s (blockWrite f b a s) := by
  have n : StoreOnly s s := storeOnly_of (RegisterOnly.refl s) rfl
  obtain ⟨rfl, e⟩ | ⟨rfl, e⟩ := h
  · show StoreOnly s (wstWrite f a s)
    have e1 : wstWrite f a s = if !isPhys f then s else if a.high then s else
        setBudget { s with wst := { s.wst with pgmDies := ranged 1 64 s.wst.pgmDies (bf (a.value % 2 ^ 32) 7 0) } } := by
      unfold wstWrite; rw [e]; rfl
    rw [e1]
    split
    · exact n
    · split
      · exact n
      · generalize ranged 1 64 s.wst.pgmDies (bf (a.value % 2 ^ 32) 7 0) = m
        have k := storeOnly_setBudget (s := { s with wst := { s.wst with pgmDies := m } })
        generalize setBudget _ = t at k ⊢
        refine ⟨k.1, k.2.1, k.2.2.1, k.2.2.2.1, k.2.2.2.2.1, k.2.2.2.2.2.1, k.2.2.2.2.2.2.1, k.2.2.2.2.2.2.2.1, fun j => ?_⟩
        rw [← blockOf_congr (s := s) (t := { s with wst := { s.wst with pgmDies := m } }) rfl rfl]
        exact k.2.2.2.2.2.2.2.2 j
  · show StoreOnly s (ddrWrite f a s)
    have e1 : ddrWrite f a s = s ∨ ∃ h, ddrWrite f a s = cacheWrite h s := by
      unfold ddrWrite
      split
      · exact .inl rfl
      · obtain e | e := e <;> rw [e]
        · dsimp only [write64]; exact .inr ⟨_, rfl⟩
        · dsimp only [write32]
          by_cases c : a.high = true
          · rw [if_pos c]; exact .inl rfl
          · rw [if_neg c]; exact .inr ⟨_, rfl⟩
    obtain e1 | ⟨h, e1⟩ := e1 <;> rw [e1]
    · exact n
    · exact storeOnly_cacheWrite

/-- The registers whose writes may change the store or the cache's slots: WST_PGM_BUDGET and the two of the migration cache. -/
abbrev Laws.StoreOffset (o : Nat) : Prop := o / 8 * 8 = 0x30050 ∨ o / 8 * 8 = 0x40108 ∨ o / 8 * 8 = 0x40110

theorem Laws.accessOf_reg (h : accessOf o w v = some a) : a.reg = o / 8 * 8 := by
  unfold accessOf at h
  split at h
  · cases h; dsimp only; omega
  · split at h
    · cases h; rfl
    · cases h

theorem Laws.registerOnly_registerWrite (h : f < 16) (g : ¬StoreOffset o) : Answers (.registerWrite f o w v) s (RegisterOnly s) := by
  refine ⟨_, by simp only [exec, execRegisterWrite, unit_eq h, ok_eq]; rfl, ?_⟩
  split
  · exact RegisterOnly.refl s
  · rename_i a e
    have q := accessOf_reg e
    split
    · unfold physWrite; dsimp -failIfUnchanged only
      repeat' (first | exact registerOnly_hifWrite | exact registerOnly_blockWrite (by unfold WritesStore; unfold StoreOffset at g; omega) | exact registerOnly_msixWrite | exact RegisterOnly.refl s | split)
    · unfold virtWrite; dsimp -failIfUnchanged only; repeat' (first | exact registerOnly_hifWrite | exact registerOnly_mmuWrite | exact registerOnly_msixWrite | exact RegisterOnly.refl s | split)

theorem Laws.storeOnly_registerWrite (h : f < 16) (g : StoreOffset o) : Answers (.registerWrite f o w v) s (StoreOnly s) := by
  have n : StoreOnly s s := storeOnly_of (RegisterOnly.refl s) rfl
  refine ⟨_, by simp only [exec, execRegisterWrite, unit_eq h, ok_eq]; rfl, ?_⟩
  unfold StoreOffset at g
  split
  · exact n
  · rename_i a e
    have q := accessOf_reg e
    split
    · unfold physWrite
      rw [if_neg (by omega), if_pos (by omega)]
      by_cases c : (regServed s f (a.reg / 0x10000 - 1) && !regGuarded s f (a.reg / 0x10000 - 1)) = true
      · rw [if_pos c]; exact storeOnly_blockWrite (by unfold WritesStore; omega)
      · rw [if_neg c]; exact n
    · unfold virtWrite
      rw [if_neg (by omega), if_neg (by omega), if_neg (by omega)]
      exact n

end Sys2Proof
end

