-- ==== Sys2Proof/Machine/Read.lean ====
section
/-! DEFINITION. Machine/Read.lean: what a register reads, as a function of the state (the register tables of every chapter;
20_register_map R587 to R594). A read changes no state but for HIF_PTM_STAMP, HIF_PTM_OFFSET and HIF_PTM_RATE, whose
reads are rows of their own, so no row calls this view. A WO field reads 0. -/

namespace Sys2Proof.Machine
open Sys2Proof

/-! ## HIF_ -/

def ringStateCode : RingState → Nat
  | .disabled => 0 | .active => 1 | .draining => 2 | .aborting => 3 | .stopped => 4 | .error => 5

def ringIrqWord (g : Ring) : Nat := fields [(g.coalUs, 24), (g.coalCount, 16), (b2n g.irqEn, 11), (g.vector, 0)]
def ringStatusWord (g : Ring) : Nat := fields [(g.outstanding, 48), (g.index, 16), (g.err, 8), (ringStateCode g.state, 0)]

/-- Registers that are served from step 3 of the port's start. -/
def hifEarly (s : State) (f o : Nat) : Option Nat :=
  let x := portSt s (portOf f)
  let up := decide (3 ≤ s.clk.stage)
  match o with
  | 0x00 => some (fields [(if up then s.ident.fwBuild else 0, 32), (if up then s.ident.fwMinor else 0, 24), (if up then s.ident.fwMajor else 0, 16),
      (s.ident.stepping, 8), (s.ident.variant, 4), (1, 0)])
  | 0x08 => some 0x0000100080004000
  | 0x10 => some (fields [(activeVersion s f, 24), (1, 16), (1, 8), ((hifFunc s f).hostMax, 0)])
  | 0x20 => some (nowUs s)
  | 0x300 => some ((funcCfg s f).winBase + b2n (funcCfg s f).winEnable)
  | 0x400 => some (fields [(b2n x.tag10, 16), (portOf f, 15), (if x.linkUp then x.width else 0, 8), (x.mps, 4), (if x.linkUp then x.speed else 0, 0)])
  | 0x408 => some (fields [(x.linkDowns, 48), (x.recoveries, 32), (x.corrected, 0)])
  | 0x410 => some x.ptmInterval
  | 0x418 => some (ofSigned 64 x.ptmD)
  | 0x420 => some (ofSigned 64 (if x.latched % 2 = 0 then x.ptmH - x.ptmD else x.latchOffset))
  | 0x428 => some (if x.latched / 2 % 2 = 0 then fields [(b2n (ptmValid x), 32), (ofSigned 32 x.ptmRate, 0)]
      else fields [(b2n x.latchValid, 32), (ofSigned 32 x.latchRate, 0)])
  | 0x430 => some (if isPhys f then fields [(x.asserts, 16), (b2n x.pmeSent, 1), (b2n x.wakeSeen, 0)] else 0)
  | _ => none

def hifRead (s : State) (f o : Nat) : Nat :=
  match hifEarly s f o with
  | some v => if (portSt s (portOf f)).cfgReady then v else 0
  | none =>
    if !hifServed s f then 0 else
    let r := (hifFunc s f).sel
    let g := if inRange s f r then ringOf s r else {}
    match o with
    | 0x200 => r
    | 0x208 => g.base
    | 0x210 => ringCfgWord g
    | 0x218 => g.shadow
    | 0x220 => ringIrqWord g
    | 0x230 => ringStatusWord g
    | _ => if isPhys f && decide (0x100 ≤ o) && decide (o < 0x140) then
        fields [((hifFunc s (f + (o - 0x100) / 8)).count, 16), ((hifFunc s (f + (o - 0x100) / 8)).base, 0)]
      else 0

/-! ## BOW_ -/

def bowRead (s : State) (f o : Nat) : Nat :=
  let p := portOf f
  let n := f + (o - 0x200) / 0x10
  match o with
  | 0x00 => fields [(s.saf.partition.length, 24), ((fretsIn s).length, 16), (((List.range 4).filter (stringIn s)).length, 8), (8, 0)]
  | 0x08 => s.bow.sliceUs
  | 0x10 => fields [(s.bow.graceUs, 8), (s.bow.levels, 0)]
  | 0x18 => s.bow.prop.getD p 0
  | 0x20 => fields [(s.bow.k, 16), (b2n s.bow.blocked, 9), (b2n (s.bow.prop.getD 0 0 == s.bow.prop.getD 1 0), 8), (s.bow.prop.getD (1 - p) 0, 0)]
  | 0x28 => fields [(s.bow.policy, 8), (s.bow.hotBanksNext.getD s.bow.hotBanks, 0)]
  | 0x30 => fields [(s.bow.switches, 32), (s.bow.hits, 0)]
  | 0x38 => fields [(s.bow.lostUs, 32), (s.bow.kills, 0)]
  | 0x40 => sumBy (fun i => 2 ^ i) (fretsIn s)
  | _ =>
    if 0x100 ≤ o ∧ o < 0x140 then
      let x := s.bow.pins.getD (f + (o - 0x100) / 8) {}
      fields [(b2n x.valid, 16), (x.model, 0)]
    else if 0x200 ≤ o ∧ o < 0x280 then
      if o % 0x10 = 0 then quotaWord (quotaOf s n)
      else fields [(ddrUsedMib s n, 46), (hotUsedMib s n, 32), (sessionsOf s n, 19), (fretsHeld s n, 0)]
    else 0

/-! ## MMU_ and ATN_ -/

def mmuRead (s : State) (g o : Nat) : Nat :=
  let m := mmuOf s g
  match o with
  | 0x00 => 4096 * m.root + b2n m.enable
  | 0x10 => b2n m.busy
  | 0x18 => m.faultVa
  | 0x20 => fields [(m.faultRing, 16), (m.faultCause, 8), (m.faultLevel, 4), (b2n m.faultWrite, 1), (b2n m.faultValid, 0)]
  | 0x28 => 65536 * m.poolBase
  | 0x30 => m.poolPages
  | 0x38 => poolFree s g
  | _ => 0

def atnRead (s : State) (f o : Nat) : Nat :=
  let p := portOf f
  match o with
  | 0x00 => 0x4004100000010000
  | 0x300 => fields [(s.atn.misses.getD p 0, 32), (s.atn.hits.getD p 0, 0)]
  | 0x308 => fields [(s.atn.evictions.getD p 0, 32), ((s.atn.prefixes.filter (fun e => e.group / 8 == p)).length, 0)]
  | 0x310 => fields [(s.atn.sessions.length, 16), ((s.atn.sessions.filter (fun x => portOf x.func == p)).length, 0)]
  | _ => if 0x100 ≤ o ∧ o < 0x140 then s.atn.groups.getD (f + (o - 0x100) / 8) 0 else 0

/-! ## WST_ and DDR_ -/

/-- A block-state entry (03_weight_store R104). -/
def blockEntry (b : Block) : Nat :=
  fields [(b.retry, 112), (b2n b.suspect, 111), (b2n b.pslc, 110), (b.state, 106), (b.lblock, 96), (b.ageStamp, 64), (b.berPeak, 48), (b.pe, 32), (b.rdPages, 0)]

/-- Blocks in service: neither retired nor bad. -/
def blocksInService (s : State) : List Block :=
  (((List.range (dieCount s)).flatMap (fun d => (List.range (blocksPerDie s)).map (blockKey d))).map (blockOf s)).filter
    (fun b => decide (b.state < 8))

def wstRead (s : State) (f o : Nat) : Nat :=
  let w := s.wst
  let m := s.wstMore
  match o with
  | 0x00 => fields [(blocksPerDie s, 44), (384, 35), (4, 32), (dieCount s, 24), (64, 16), (dieCount s / 64, 8), (4, 0)]
  | 0x08 => fields [(installedMib s 0 + installedMib s 1, 32), (usableMib s, 0)]
  | 0x40 => fields [(w.pslcLimitK, 16), (w.tlcLimitK, 0)]
  | 0x48 => fields [(w.intervalH, 16), (w.berRefresh, 8), (b2n w.patrolEnable, 0)]
  | 0x50 => fields [(w.pgmDiesEff, 8), (w.pgmDies, 0)]
  | 0x60 => fields [(min w.relocs.length 0xFFFF, 8), (runningBits s, 0)]
  | 0x68 => w.events
  | 0x70 => fields [(m.rebuilds, 48), (m.retired, 32), (m.relocations, 0)]
  | 0x78 => fields [((blocksInService s).foldl (fun a b => max a b.pe) 0, 16),
      (sumBy (fun b => b.pe) (blocksInService s) / max 1 (blocksInService s).length, 0)]
  | 0x80 => w.ageClock
  | 0x140 => m.bstateSel.getD (portOf f) 0
  | 0x148 => blockEntry (blockOf s (m.bstateSel.getD (portOf f) 0)) % 2 ^ 64
  | 0x150 => blockEntry (blockOf s (m.bstateSel.getD (portOf f) 0)) / 2 ^ 64
  | _ => if 0x100 ≤ o ∧ o < 0x140 then w.tempHours.getD ((o - 0x100) / 8) 0 else 0

def ddrRead (s : State) (o : Nat) : Nat :=
  let g := s.stream.mig
  match o with
  | 0x00 => 0x1C200204
  | 0x08 => fields [(s.stream.ddrUncorrected, 16), (s.stream.ddrCorrected, 0)]
  | 0x128 => fields [(s.stream.storeWaitUs, 32), (s.stream.ddrWaitUs, 0)]
  | _ => if s.ident.variant ≠ 2 then 0 else match o with
    | 0x100 => fields [(g.bwLimit, 16), (g.threshold, 8), (g.epoch, 4), (b2n g.enable, 0)]
    | 0x108 => g.base
    | 0x110 => g.size
    | 0x118 => fields [(g.evictions, 32), (g.promotions, 0)]
    | 0x120 => fields [(g.storeReads, 32), (g.cacheReads, 0)]
    | _ => 0

/-! ## CAM_ and DRN_ -/

/-- CAM_ registers. A load above the field's range reads its largest value (DESIGN CHOICE, log entry 79). -/
def camRead (s : State) (o : Nat) : Nat :=
  let c := s.cam
  let x := camPort s ((o - 0x100) / 0x40)
  let v := smGet {} c.vcs ((o - 0x800) / 8)
  match o with
  | 0x00 => 0x0000200320001048
  | 0x08 => fields [(b2n c.lock, 16), (b2n c.inlineEn, 12), (c.inlineFunc, 8), (c.portOwner, 0)]
  | 0x10 => fields [(c.inlineDrops, 48), (c.queue.length, 32),
      (min 1023 (1000 * sumBy (fun p => p.2) (c.inlineFrames.filter (fun p => decide (nowNs s < p.1 + 1000000000))) / 3200000000), 16),
      (b2n (inlineBind s).isSome, 8), (((inlineBind s).map (fun b => b.id)).getD 0, 0)]
  | 0x18 => fields [(c.passes, 32), (c.pixels / 1000000 % 2 ^ 32, 0)]
  | _ =>
    if 0x100 ≤ o ∧ o < 0x300 then
      if o % 0x40 = 0 then camPortWord x
      else if o % 0x40 = 8 then fields [(b2n x.hsActive, 15), (b2n x.deskewDone, 14), (x.lanesOk, 8), (x.status, 0)]
      else if o % 0x40 = 0x10 then fields [(x.hdrUncorrected, 32), (x.hdrCorrected, 0)]
      else 0
    else if 0x800 ≤ o ∧ o < 0xC00 then fields [(v.truncated, 48), (v.damaged, 32), (v.crc, 0)]
    else 0

def planCode : PlanState → Nat
  | .disabled => 0 | .armed => 1 | .primed => 2 | .verifying => 3 | .accepted => 4
def detCode : DetState → Nat
  | .idle => 0 | .candidate => 1 | .holdoff => 2

def drnRead (s : State) (o : Nat) : Nat :=
  let d := s.drone
  let beam := d.preroll.getD ((o - 0x40) / 8) {}
  match o with
  | 0x00 => 0x08001E0808041008
  | 0x08 => fields [(d.replayFuncs, 16), (b2n d.ownerLock, 8), (d.ownerPort, 0)]
  | 0x10 => d.det.onsetUs
  | 0x18 => fields ((List.range 8).map (fun n => (planCode (planOf s n).state, 40 + 3 * n)) ++
      [(d.det.beam, 32), (d.det.score, 24), (b2n (ownVoice d.det.ovFrames), 23), (d.det.cls, 20), (detCode d.det.state, 16), (min 255 d.waitingCfg.length, 0)])
  | 0x60 => fields [(d.clip, 16), (ofBits ((List.range 16).filter (fun m => decide (nowUs s < d.toggled.getD m 0 + 100000))), 0)]
  | 0x68 => d.events
  | 0x70 => fields [(d.candidates, 48), (d.fires, 32), (d.accepts, 16), (d.rejects, 0)]
  | 0x80 => sumBy (fun n => 2 ^ n) ((List.range 8).filter (fun n => decide ((planOf s n).state = .accepted)))
  | _ => if 0x40 ≤ o ∧ o < 0x60 then fields [((oldestBlock beam).getD 0, 32), (beam.newest, 0)] else 0

/-! ## PEG_ and CAPO_ -/

def domCode : DomState → Nat
  | .off => 0 | .bringup => 1 | .on => 2 | .leaving => 3 | .retention => 4

def pegRead (s : State) (o : Nat) : Nat :=
  let p := s.pwr
  let need := neededDomains s
  let targets (port : Nat) : Nat := fields ((List.range 13).map (fun d => ((domainOf s d).target.getD port 1, 3 * d)))
  match o with
  | 0x00 => fields ((List.range 13).map (fun d => (domCode (domSt s d), 3 * d)))
  | 0x08 => targets 0
  | 0x10 => targets 1
  | 0x18 => fields ((p.tolUnmet, 32) :: (List.range 13).map (fun d => (shownDepth s d, 2 * d)))
  | 0x20 => fields [(sumBy (fun d => 2 ^ d) ((List.range 13).filter (demanded s need)), 16), (p.waiting, 0)]
  | 0x28 => p.idleMs
  | 0x30 => fields [(p.trainFallbacks, 48), (p.warmUses, 32), (ofSigned 8 p.trainTemp, 24), (b2n p.trainValid, 0)]
  | 0x38 => p.events
  | 0x200 => s.clk.running
  | 0x208 => fields [(s.clk.last, 32), (s.clk.fault, 0)]
  | 0x210 => fields [(s.clk.fullUs, 32), (p.pgMissing, 16), (b2n s.clk.cold, 4), (s.clk.stage, 0)]
  | _ => if 0x100 ≤ o ∧ o < 0x180 then p.wakeSrc.getD ((o - 0x100) / 8) 0 else 0

/-- The mean of a list, rounded down. -/
def meanOf (l : List Nat) : Nat := sumBy id l / max 1 l.length

/-- CAPO_ registers. A mean above the field's range reads its largest value (DESIGN CHOICE, log entry 79). -/
def capoRead (s : State) (f o : Nat) : Nat :=
  let c := s.capo
  let m := s.capoMore
  let t := m.sensors.getD (c.tempSel.getD (portOf f) 0) {}
  let r := m.rails.getD (c.supplySel.getD (portOf f) 0) {}
  let x := c.strings.getD ((o - 0x40) / 8) {}
  match o with
  | 0x00 => 0x123F960F
  | 0x08 => fields [(b2n c.capLock, 31), (c.capLimit, 16), (c.cap, 0)]
  | 0x10 => fields [(b2n c.stormCap, 58), (b2n (c.dip || c.holdoff), 57), (b2n (decide (c.thermalCap.getD c.cap < c.cap)), 56), (effCap s, 32),
      (min 2047 (meanOf (c.powers.map (fun p => p.1)) / 100), 0)]
  | 0x18 => fields ((List.range 4).map (fun n => (meanOf (c.holds.map (fun h => h.getD n 0)), 16 * n)))
  | 0x20 => c.rampDw
  | 0x28 => fields [(c.stormCount, 8), (c.pgmFloor, 0)]
  | 0x30 => fields [(c.droop2, 16), (c.droop1, 8)]
  | 0x60 => fields [(c.tjThrottle, 8), (c.tjWarn, 0)]
  | 0x68 => c.tempSel.getD (portOf f) 0
  | 0x70 => fields [(ofSigned 16 t.peak, 32), (sensorLevel s (c.tempSel.getD (portOf f) 0), 16), (ofSigned 16 t.temp, 0)]
  | 0x80 => c.supplySel.getD (portOf f) 0
  | 0x88 => fields [(r.resets, 48), (r.warnings, 32), (r.minMv, 16), (r.now, 0)]
  | 0x98 => fields [(m.dipTime, 32), (m.dipDur, 24), (m.dipRail, 16), (m.dipMin, 0)]
  | 0xA0 => m.events
  | _ => if 0x40 ≤ o ∧ o < 0x60 then fields [(x.l2, 32), (x.l1, 0)] else 0

/-! ## SAF_, SEC_, FWU_ and RST_ -/

def safRead (s : State) (f o : Nat) : Nat :=
  let a := s.saf
  let m := s.safMore
  let r : Region := smGet {} m.regions (m.fwSel.getD (portOf f) 0)
  match o with
  | 0x00 => 0x2000010010082002
  | 0x08 => fields [(b2n a.lock, 16), (b2n a.enable, 8), (a.safetyFunc, 0)]
  | 0x10 => fields [(a.seq, 32), (a.cause, 24), (min a.consec 15, 20), (a.partition.length, 12), (a.partString, 10), (a.goldens.length, 4), (safStateCode a.state, 0)]
  | 0x18 => fields [(m.invalid, 32), (m.frames, 0)]
  | 0x20 => fields [(m.failB, 48), (m.failA, 32), (m.failLate, 16), (m.failDisagree, 0)]
  | 0x28 => m.events
  | 0x30 => fields [(m.hbEdges, 32), (b2n s.pins.safeErrN, 1), (b2n s.pins.safeHb, 0)]
  | 0x38 => fields [(b2n a.regfwLock, 16), (a.regfw ||| (if a.enable then 2 ^ 9 else 0), 0)]
  | 0x100 => m.fwSel.getD (portOf f) 0
  | 0x108 => fields [(r.last, 32), (r.first, 0)]
  | 0x110 => regionWord r
  | 0x118 => fields [(m.deniedDomain, 56), (b2n m.deniedWrite, 55), (b2n m.deniedValid, 48), (m.deniedAddr, 0)]
  | 0x200 => m.diagSel.getD (portOf f) 0
  | _ => if 0x208 ≤ o ∧ o < 0x258 then (m.diag.getD (m.diagSel.getD (portOf f) 0) []).getD ((o - 0x208) / 8) 0 else 0

def secRead (s : State) (f o : Nat) : Nat :=
  let c := confOf s (f + (o - 0x40) / 8)
  match o with
  | 0x00 => 0x00021000 + lifecycleCode s.sec.lifecycle
  | 0x08 => s.ident.serial
  | 0x10 => s.sec.slots.length
  | 0x20 => s.sec.wcopyBase.getD (portOf f) 0
  | 0x28 => s.sec.wcopySize.getD (portOf f) 0
  | 0x100 => s.sec.dbgScope * 2 ^ 8
  | 0x108 => fields [(s.sec.dbgFails, 8), (s.sec.dbgState, 0)]
  | 0x800 => s.sec.events
  | _ =>
    if 0x40 ≤ o ∧ o < 0x80 then fields [(c.units % 2 ^ 48, 16), (b2n c.authFail, 2), (b2n !c.sessions.isEmpty, 1), (b2n c.on, 0)]
    else if 0x110 ≤ o ∧ o < 0x130 then s.sec.dbgNonce.getD ((o - 0x110) / 8) 0
    else 0

def slotStateCode : SlotState → Nat
  | .empty => 0 | .loading => 1 | .loaded => 2 | .activating => 3
def instCode : InstState → Nat
  | .open => 1 | .suspended => 2 | .committing => 3 | .cancelling => 4

/-- FWU_SLOT_n: the header of the slot's image; the shipped image's is the part's. -/
def slotWord (s : State) (n : Nat) : Nat :=
  let x := slotOf s n
  let h := slotHeader x
  if x.shipped then fields [(s.fwu.secVer, 48), (s.ident.fwBuild, 32), (s.ident.fwMajor, 24), (s.ident.fwMinor, 16), (1, 0)]
  else fields [(leAt h 6 2, 48), (leAt h 10 2, 32), (byteAt h 8, 24), (byteAt h 9, 16), (b2n x.complete, 0)]

def fwuRead (s : State) (f o : Nat) : Nat :=
  let w := s.fwu
  match o with
  | 0x00 => fields [(w.minSecVer / 256, 16), (w.minSecVer % 256, 8), (0x42, 0)]
  | 0x08 => w.ctrlLen * 2 ^ 32
  | 0x10 => fields [(w.recv.length, 48), (w.loader, 40), (w.fail, 32), (w.gapMs, 24), (w.active, 4), (b2n w.recovery, 3), (slotStateCode w.state, 0)]
  | 0x18 => slotWord s 0
  | 0x20 => slotWord s 1
  | 0x30 => fields [(b2n w.lock, 16), (w.ports, 0)]
  | 0x40 => w.installSel.getD (portOf f) 0
  | 0x48 => match installFor s (w.installSel.getD (portOf f) 0) (portOf f) with
    | none => 0
    | some i => fields [(i.durable.length, 32), (i.xfer, 16), (instCode i.state, 0)]
  | 0x50 => w.events
  | _ => 0

def rstRead (s : State) (f o : Nat) : Nat :=
  let r := s.rst
  match o with
  | 0x00 => fields [(r.warmCount, 16), (r.rail, 8), (r.cause, 0)]
  | 0x10 => fields [(b2n r.lock, 16), (r.warmPorts, 0)]
  | 0x18 => fields [(b2n r.engine.isSome, 31), (b2n r.refused, 30)]
  | 0x20 => fields [(r.flr.getD (portOf f) 0, 32), (r.portCount.getD 1 0, 16), (r.portCount.getD 0 0, 0)]
  | _ => 0

/-! ## A read of BAR0 -/

/-- The register blocks behind HIF_. -/
def blockRead (s : State) (f block o : Nat) : Nat :=
  match block with
  | 0 => bowRead s f o
  | 1 => if o < 0x800 then mmuRead s (f + o / 0x100) (o % 0x100) else 0
  | 2 => wstRead s f o
  | 3 => ddrRead s o
  | 4 => atnRead s f o
  | 5 => camRead s o
  | 6 => drnRead s o
  | 7 => pegRead s o
  | 8 => capoRead s f o
  | 9 => safRead s f o
  | 10 => secRead s f o
  | 11 => fwuRead s f o
  | 12 => rstRead s f o
  | _ => 0

/-- The MSI-X table and its pending bits. -/
def msixRead (s : State) (f o : Nat) : Nat :=
  let w := vectorOf s f (o / 16)
  if o / 8 % 2 = 0 then w.addr else w.data + b2n w.masked * 2 ^ 32
def pendingRead (s : State) (f o : Nat) : Nat :=
  sumBy (fun i => 2 ^ i) ((List.range 64).filter (fun i => (vectorOf s f (8 * o + i)).pending))

/-- The 64-bit value at an 8-byte place of BAR0. -/
def regRead (s : State) (f o : Nat) : Nat :=
  if !funcExists s f then 0
  else if isPhys f then
    if o < 0x10000 then hifRead s f o
    else if o < 0xE0000 then (if regServed s f (o / 0x10000 - 1) then blockRead s f (o / 0x10000 - 1) (o % 0x10000) else 0)
    else if 0x200000 ≤ o ∧ o < 0x208000 then msixRead s f (o - 0x200000)
    else if 0x208000 ≤ o ∧ o < 0x208100 then pendingRead s f (o - 0x208000)
    else 0
  else
    if o < 0x8000 then hifRead s f o
    else if o < 0x8100 then (if regServed s f 1 then mmuRead s f (o - 0x8000) else 0)
    else if 0xC000 ≤ o ∧ o < 0xD000 then msixRead s f (o - 0xC000)
    else if 0xD000 ≤ o ∧ o < 0xD020 then pendingRead s f (o - 0xD000)
    else 0

/-- The 64-bit value at an 8-byte place of BAR2: the last value written to a doorbell of the function's range
(05_command_rings R174). -/
def doorbellRead (s : State) (f o : Nat) : Nat :=
  let r := (hifFunc s f).base + o / 8
  if funcExists s f && o < 0x20000 && inRange s f r then (ringOf s r).doorbell else 0

end Sys2Proof.Machine
end

