-- ==== Sys2Proof/Tests/Slice0.lean ====
section
/-! SUPPORT. Tests/Slice0.lean: for every statement that has hypotheses, a state and operands that meet them (test_witness_…);
ill-formed commands that WellFormed refuses; values of the manual's worked examples. -/

set_option Elab.async false

namespace Sys2Proof.Tests
open Sys2Proof Sys2Proof.Machine

/-- A block of `n` bytes with little-endian fields at their offsets: offset, length, value. -/
def block (n : Nat) (l : List (Nat × Nat × Nat)) : Bytes :=
  l.foldl (fun b p => b.take p.1 ++ leBytes p.2.1 p.2.2 ++ b.drop (p.1 + p.2.1)) (zeros n)

/-- Host tables that map the first 2 MiB of function 0's addresses to host memory, writable. -/
def tables : List Host.Cell := [(0x1000, 1), (0x1001, 0x20), (0x2000, 1), (0x2001, 0x30), (0x3000, 0x0F)]

/-- A part in service: every domain ON, both ports ready, function 0 with its tables, a submission ring 0, its completion
ring 1 and an event ring 2, all ACTIVE. -/
def live : State :=
  let r := State.reset
  { r with
    now := 3840000000
    mem := { hostA := tables, hostB := [], dev := [] }
    hif := { r.hif with
      funcs := modAt 0 (fun h => { h with hostMax := 1 }) r.hif.funcs
      rings := [(0, { base := 0x10000, cqId := 1, state := .active }), (1, { base := 0x11000, typ := 1, state := .active }),
                (2, { base := 0x12000, typ := 2, state := .active })] }
    mmu := setAt 0 { enable := true, root := 1 } r.mmu
    port := { r.port with
      ports := r.port.ports.map (fun p => { p with cfgReady := true, linkUp := true })
      funcs := r.port.funcs.map (fun c => { c with busMaster := true }) }
    pwr := { r.pwr with domains := r.pwr.domains.map (fun d => { d with state := .on }) }
    clk := { r.clk with stage := 6, started := true, running := 2 ^ 25 - 1 }
    wstMore := { r.wstMore with mounted := true }
    pins := { r.pins with supplied := true } }

/-- A state with one accepted command. -/
def given (c : Cmd) (s : State) : State := { s with hif := { s.hif with cmds := [c] } }

/-- Command 7 of ring 0, ready, of an opcode, with fields of its descriptor and its parameter block. -/
def ready (op : Nat) (fs : List (Nat × Nat × Nat) := []) (params : Bytes := []) : Cmd :=
  { id := 7, ring := 0, func := 0, cq := 1, desc := block 64 ([(0, 1, op), (2, 1, 1)] ++ fs), params := params }

/-- A ring of a state, changed. -/
def withRing (r : Nat) (g : Ring → Ring) (s : State) : State := modRing r g s

/-! ## Rings, descriptors, events, control commands, operators -/

theorem test_witness_EmptyQueue : State.reset.pending = [] ∧ live.pending = [] ∧ (live.bow.frets.all (fun f => f.slots.isEmpty)) = true ∧
    live.stream.passes = [] ∧ bit live.wst.running 4 = false := by decide +kernel
theorem test_witness_StepKeeps : (∃ t, step State.reset = .next t) ∧ State.reset.wf = true := ⟨⟨_, rfl⟩, by decide +kernel⟩
theorem test_witness_Possible : possible (.nop 7) live = true := by decide +kernel
theorem test_witness_ExecNext : ∃ t, exec (.nop 7) (given (ready 0x34) live) = .next t := ⟨_, rfl⟩
theorem test_witness_WrittenBytes : live.wf = true ∧ smWf {} live.hif.rings = true := by decide +kernel
theorem test_witness_Doorbells :
    doorbellOf live 0 0 8 3 = some (0, 3) ∧ (ringOf live 0).state ≠ .disabled ∧ (ringOf live 0).typ = 0 ∧ 3 < ringSize (ringOf live 0) ∧
    doorbellOf live 0 8 8 3 = some (1, 3) ∧ (ringOf live 1).state ≠ .disabled ∧ (ringOf live 1).typ ≠ 0 ∧ 3 < ringSize (ringOf live 1) := by
  decide +kernel
def bound : Bind := { id := 0, func := 0, block := block 64 [(2, 1, 0x2A), (4, 2, 64), (8, 2, 9), (12, 1, 4)], pipe := zeros 64 }
def bindLive : State := { live with cam := { live.cam with binds := [bound] } }
theorem test_witness_FrameRing : doorbellOf bindLive 0 (8 * 9) 8 15 = some (9, 15) ∧
    bindLive.cam.binds.find? (fun b => b.func == 0 && cbRing b.block == 9) = some bound ∧ 15 < 2 ^ cbLog2 bound.block := by decide +kernel
def safeLive : State := { live with saf := { live.saf with
  state := .configured, enable := true, config := block 64 [(0, 1, 1), (6, 1, 4), (8, 2, 9)] } }
theorem test_witness_VerdictRing : doorbellOf safeLive 0 (8 * cfRing safeLive.saf.config) 8 15 = some (cfRing safeLive.saf.config, 15) ∧
    safConfigured safeLive = true ∧ 0 = safeLive.saf.safetyFunc ∧ 15 < 2 ^ cfLog2 safeLive.saf.config := by decide +kernel
def rings (st : RingState) (typ : Nat) : State := modRing 0 (fun g => { g with state := st, typ := typ }) live
theorem test_witness_RingOperations :
    (Selects (rings .stopped 0) 0 0 ∧ (ringOf (rings .stopped 0) 0).state = .stopped ∧ (ringOf (rings .stopped 0) 0).outstanding = 0) ∧
    (let s := rings .disabled 0
     Selects s 0 0 ∧ (ringOf s 0).state = .disabled ∧ 0 ∉ heldRings s ∧ configOk s 0 0 = true ∧ classOk s 0 (ringOf s 0).cls = true ∧
     activeVersion s 0 ≠ 0) ∧
    (Selects live 0 0 ∧ 0 ∉ heldRings live ∧ (ringOf live 0).state = .active ∧ (ringOf live 0).typ = 0) ∧
    (Selects (rings .draining 1) 0 0 ∧ 0 ∉ heldRings (rings .draining 1) ∧ (ringOf (rings .draining 1) 0).state = .draining ∧ (ringOf (rings .draining 1) 0).typ ≠ 0) ∧
    (Selects (rings .error 1) 0 0 ∧ (ringOf (rings .error 1) 0).state = .error ∧ boundRings (rings .error 1) 0 = []) := by
  unfold Selects; decide +kernel
theorem test_witness_BadOp :
    (Selects live 0 0 ∧ 0 ∉ heldRings live ∧ (ringOf live 0).state ≠ .disabled ∧ (ringOf live 0).state ≠ .stopped ∧ (ringOf live 0).state ≠ .error) ∧
    (Selects (rings .error 0) 0 0 ∧ (ringOf (rings .error 0) 0).state ≠ .active ∧ (ringOf (rings .error 0) 0).state ≠ .draining) := by
  unfold Selects; decide +kernel
theorem test_witness_RingRange :
    (bf 0x00010000 15 0 ≤ 0 ∧ 0 < bf 0x00010000 15 0 + bf 0x00010000 31 16 ∧ 0 < 8192 * portOf 8) ∧
    (bf 0x00010000 15 0 ≤ 0 ∧ inRange live (8 * portOf 0 + 0) 0 = true) ∧ anyRingOn live (8 * portOf 0 + 0) = true := by decide +kernel
def mute : State := { live with hif := { live.hif with rings := [(1, { typ := 1 })] , funcs := State.reset.hif.funcs } }
theorem test_witness_Negotiation :
    (funcExists mute 0 = true ∧ (portSt mute (portOf 0)).cfgReady = true ∧ anyRingOn mute 0 = false) ∧
    (hifServed mute 0 = true ∧ isPhys 0 = true ∧ rangeOk mute (portOf 0) 0 (bf 0x02000000 15 0) (bf 0x02000000 31 16) = true ∧
     anyRingOn mute (8 * portOf 0 + 0) = false) ∧
    (let s := modRing 0 (fun g => { g with cqId := 1, base := 0x4000 }) mute
     Selects s 0 0 ∧ (ringOf s 0).state = .disabled ∧ 0 ∉ heldRings s ∧ configOk s 0 0 = true ∧
     classOk s 0 (ringOf s 0).cls = true ∧ activeVersion s 0 = 0) := by unfold Selects; decide +kernel
/-- An exception's value is a result. -/
def isOk {ε α : Type} (e : Except ε α) : Bool := match e with
  | .ok _ => true
  | .error _ => false

/-- Function 0 may fetch the descriptor `d` of ring 0. -/
def offered (d : Bytes) (s : State) : State := modRing 0 (fun g => { g with hostIndex := 1 }) (writeBytes .hostA 0x10000 d s)
/-- Ring 0 may accept the descriptor `d`, and its validation passes, or fails. -/
def taken (s : State) (d : Bytes) (good : Bool) : Bool :=
  mayAccept s 0 0 && decide (ringOwner s 0 = some 0) && decide (fetchDescriptor s 0 0 = some d) &&
    (isOk (validate s (ringOf s 0).cls (rawCmd s 0 0 d)) == good)
def nopDesc : Bytes := block 64 [(0, 1, 0x34), (2, 1, 1)]
def oddDesc : Bytes := block 64 [(0, 1, 0xEE), (2, 1, 1)]
theorem test_witness_DescriptorsAreAccepted :
    taken (offered nopDesc live) nopDesc true = true ∧ taken (offered oddDesc live) oddDesc false = true := by decide +kernel

/-- The event ring counts one entry, with the interrupt enabled. -/
def counted : State := modRing 2 (fun g => { g with irqEn := true, sinceIrq := 1 }) (modHifFunc 0 (fun h => { h with dropped := 1 }) live)
theorem test_witness_RingFailures :
    ((ringOf live 0).typ = 0 ∧ ringOwner live 0 = some 0 ∧ (ringOf live 0).state = .active) ∧
    (live.cam.binds.find? (fun b => cbRing b.block == 1) = none ∧ ringOwner live 1 = some 0 ∧ safConfigured live = false) ∧
    (ringOwner bindLive 9 = some 0 ∧ bindLive.cam.binds.find? (fun b => cbRing b.block == 9) = some bound) ∧
    (ringOwner safeLive 9 = some 0 ∧ safeLive.cam.binds.find? (fun b => cbRing b.block == 9) = none ∧ safConfigured safeLive = true ∧
     cfRing safeLive.saf.config = 9) ∧
    (ringOwner counted 2 = some 0 ∧ (ringOf counted 2).irqEn = true ∧ 0 < (ringOf counted 2).sinceIrq) ∧
    (eventRing counted 0 = some 2 ∧ 0 < (hifFunc counted 0).dropped ∧ 0 < freeEntries (ringOf counted 2)) := by decide +kernel

/-- A command waits for its turn. -/
def isReady (s : State) (op : Nat) (c : Cmd) : Bool :=
  decide (cmdOf s 7 = some c) && c.opcode == op && decide (c.phase = .ready) && domainsUp s c && !(fwGap s && gapWaits op)
theorem isReady_readyAs {s : State} {op : Nat} {c : Cmd} (h : isReady s op c = true) : ReadyAs s 7 op c := by
  simp only [isReady, Bool.and_eq_true, decide_eq_true_eq, beq_iff_eq, Bool.not_eq_true'] at h
  exact ⟨h.1.1.1.1, h.1.1.1.2, h.1.1.2, h.1.2, h.2⟩

/-- A ready command stands for its row, on a state that holds it. -/
def stands (op : Nat) (fs : List (Nat × Nat × Nat)) (params : Bytes) (s : State) : Bool := isReady (given (ready op fs params) s) op (ready op fs params)
theorem test_witness_Control :
    stands 0x34 [] [] live = true ∧ stands 0x32 [] [] live = true ∧ stands 0x30 [] [] live = true ∧
    (stands 0x31 [(16, 8, 0x8000)] [] live = true ∧ isOk (vaStage (given (ready 0x31 [(16, 8, 0x8000)]) live) 0 0 0x8000 (zeros 8) 16) = true) ∧
    (let c : Cmd := { ready 0x34 with phase := .held, waits := [9] }
     cmdOf (given c live) 7 = some c ∧ c.phase = .held ∧ ∀ w ∈ c.waits, cmdOf (given c live) w = none) := by decide +kernel
theorem test_witness_CopyAndFill :
    (let f : List (Nat × Nat × Nat) := [(16, 8, 0x4000), (24, 8, 0x8000), (32, 8, 16)]
     let c := ready 0x21 f
     stands 0x21 f [] live = true ∧ overlap (leAt c.desc 16 8) (leAt c.desc 32 8) (leAt c.desc 24 8) (leAt c.desc 32 8) = false ∧
     isOk (vaRead (given c live) 0 0 0x4000 16 16) = true ∧ isOk (vaStage (given c live) 0 0 0x8000 (zeros 16) 24) = true) ∧
    (let f : List (Nat × Nat × Nat) := [(16, 8, 0x8000), (24, 8, 16)]
     stands 0x22 f [] live = true ∧ isOk (vaStage (given (ready 0x22 f) live) 0 0 0x8000 (zeros 16) 16) = true) := by decide +kernel
theorem test_witness_Completion :
    (let c : Cmd := { ready 0x34 with phase := .done }
     let s := given c live
     cmdOf s 7 = some c ∧ c.phase = .done ∧ mayCommit s c = true ∧ isOk (commit c s) = true ∧ c.alive = true ∧ c.phase ≠ .held ∧ c.begun = false) ∧
    (let c : Cmd := { ready 0x52 with phase := .done }
     cmdOf (given c live) 7 = some c ∧ c.begun = true) ∧
    (let c : Cmd := { ready 0x34 with phase := .failed 0x30 0 }
     cmdOf (given c live) 7 = some c ∧ c.phase = .failed 0x30 0) := by decide +kernel

/-- An operator's descriptor with its own weights: m 1, k 32, n 16. -/
def own (op : Nat) : Cmd := ready op [(38, 2, 0xFFFF), (24, 4, 1), (28, 4, 32), (32, 4, 16)]
/-- An operator computes its result and stages it. -/
def runs (f : State → Cmd → Stage → Option Bytes → Except Fail OpOut) (c : Cmd) : Bool :=
  isReady (given c live) c.opcode c && (match f (given c live) c (stageOf c) none with
  | .ok o => isOk (stageOut (given c live) c (stageOf c) o)
  | .error _ => false)
theorem test_witness_Operators :
    runs matmulOut (own 1) = true ∧ runs attentionOut (ready 2) = true ∧ runs attentionBwdOut (ready 3) = true ∧ runs recurrentOut (own 4) = true ∧
    runs scanOut (own 5) = true ∧ runs convOut (own 6) = true ∧ runs poolOut (own 7) = true ∧ runs regroupOut (own 8) = true ∧
    isOk (matmulOut (given (ready 1) live) (ready 1) (stageOf (ready 1)) none) = false := by decide +kernel
theorem test_witness_GroupsAndPrograms :
    (let s := given (ready 0x33) live
     let k := withLens s (ready 0x33)
     stands 0x33 [] [] live = true ∧ mustWait s k = false ∧ isOk (groupRun k (groupStages k) none {} (modCmd 7 (fun _ => k) s)) = true) ∧
    (let p := block 104 [(0, 8, 0x4000), (8, 4, 64)]
     let c := ready 0x10 [] p
     stands 0x10 [] p live = true ∧ leAt c.params 8 4 + 1024 * (leAt c.params 26 2 + leAt c.params 28 2) ≤ workBytes (given c live) ∧
     isOk (vaRead (given c live) 0 0 (leAt c.params 0 8) (leAt c.params 8 4) (locator 2 0 0)) = true) := by decide +kernel

/-! ## Streams, the weight store's reads, migration, placement -/

/-- An open session 3 of function 0, empty, of one layer. -/
def session : Session := { func := 0, sid := 3, handle := 5, version := 1, kvBase := apertureBase, maxLen := 128, layers := 1, kvHeads := 1,
                           headDim := 32, kvFmt := 0, fills := [0] }
def sessions : State := { live with atn := { live.atn with sessions := [session] } }

/-- An installed image of handle 5, version 1, that function 0 may use; what it holds is a free value. -/
def image : Image := { id := 1, handle := 5, version := 1, port := 0, confOnly := false, funcMask := 255, len := 0, manifest := [], wrapped := [],
                       base := 0, replicas := [], supers := [], cells := [], inForce := true }
def images (s : State) : State := { s with wst := { s.wst with images := [image] } }
/-- A command that names model 5, version 1, and session 3. -/
def named (op : Nat) (fs : List (Nat × Nat × Nat) := []) (params : Bytes := []) : Cmd :=
  { ready op ([(8, 2, 5), (10, 2, 3)] ++ fs) params with bound := { version := 1 } }

/-- A command of session 3 behind an earlier SESSION_TRUNCATE of it. -/
def behindTruncate (op : Nat) : State := { live with hif := { live.hif with cmds := [{ named 0x42 with id := 6 }, named op] } }
theorem test_witness_Ordered :
    (isReady (behindTruncate 2) 2 (named 2) = true ∧ mustWait (behindTruncate 2) (withLens (behindTruncate 2) (named 2)) = true) ∧
    (isReady (behindTruncate 0x33) 0x33 (named 0x33) = true ∧ mustWait (behindTruncate 0x33) (withLens (behindTruncate 0x33) (named 0x33)) = true) ∧
    (let s := given (named 2) live
     isReady s 2 (named 2) = true ∧ mustWait s (withLens s (named 2)) = false) := by decide +kernel

/-- A pass on the image, active, with its only unit not issued yet, or under way. -/
def part (issued : Option Nat) : PassUnit :=
  { layer := 0, tensors := [], bytes := 64, ddrBytes := 0, issued := issued
    shares := if issued.isSome then [64] else [], ranges := if issued.isSome then [[(0, 64)]] else [] }
def pass (issued : Option Nat) : Pass :=
  { id := 0, opener := 3, func := 0, handle := 5, version := 1, budgetUs := 50000, mask := 0, first := 0, last := 0, safety := false,
    active := true, members := [], units := [part issued], used := [] }
def passing (issued : Option Nat) : State :=
  let s := images live
  { s with stream := { s.stream with passes := [pass issued] } }
theorem test_witness_StreamPasses :
    (0 < (Config.imageInfo []).layers → isReady (given (named 0x20) (images live)) 0x20 (named 0x20) = true ∧
      imageVersion (given (named 0x20) (images live)) 5 1 = some image ∧ smLast (named 0x20).desc < (infoOf image).layers) ∧
    (let w : Pass := { pass none with active := false }
     let s := { passing none with stream := { (passing none).stream with passes := [w] } }
     inOrder (waitingPasses s) = [w] ∧ activePasses s < 8 ∧ 1 ≠ w.id) ∧
    (passOf (passing none) 0 = some (pass none) ∧ nextUnit (pass none) = some 0 ∧ mayIssue (passing none) (pass none) (part none) = true ∧
      unitRefused (passing none) (pass none) (part none) = none ∧ unitPoisoned (passing none) (pass none) (part none) = false) ∧
    storeWaits (passing (some 0)) 0 0 = true := by
  refine ⟨fun h => ⟨by decide +kernel, by decide +kernel, Nat.lt_of_le_of_lt (Nat.le_of_eq (by decide +kernel)) h⟩, ?_, ?_, ?_⟩ <;> decide +kernel

/-- A stored chunk of no lines with its CRC. -/
def chunk : Bytes := block 64 [(0, 1, 0x10), (10, 2, crc16 [])]
def copied : State := { live with stream := { live.stream with copies := [
  { func := 0, handle := 5, version := 1, layer := 0, tensor := 0, hot := false, addr := 0x100000, len := 4096 }] } }
/-- An image with one superblock of two replicas, on the groups of dies 0 and 16; of a given list of failed dies. -/
def replicated (failed : List Nat) : State := { live with wst := { live.wst with
  failedDies := failed
  images := [{ image with supers := [{ cls := 1, idx := 0, die := 0, lblock := 0 }], replicas := List.replicate 64 2, inForce := true }] } }
theorem test_witness_StoreReads :
    (let s := replicated []
     (superOf s 0).isSome = true ∧ streamRead .other = true ∧ (replicasInTurn s { cls := 1, idx := 0, die := 0, lblock := 0 } 0).length = 2 ∧
     s.wst.failedDies.contains (dieOf 0) = false ∧ trueOutcome s 0 0 [16384] (.ldpc 3) = .ldpc 3 ∧
     trueOutcome s 0 0 [16384] .replica = .replica ∧ trueOutcome s 0 0 [16384] .rebuilt = .rebuilt ∧
     trueOutcome s 0 0 [16384] .failed = .failed) ∧
    noRebuild (replicated [1]) 0 0 = true ∧
    decodeChunk chunk = some [] ∧ 0 + chunkOutOffset chunk * 64 + 0 ≤ 0x1000000 ∧ decodeChunk [] = none := by decide +kernel
/-- Slot 0 of the cache holds region 0. -/
def cachedRegion : State := { replicated [] with stream := { live.stream with mig := { live.stream.mig with
  slots := [(0, some { region := 0, valid := true, pinned := false, draining := false })] } } }
theorem test_witness_Rereads :
    ((copied.stream.copies.find? (fun c => decide (c.addr ≤ 0x100000) && decide (0x100000 + (zeros 64).length ≤ c.addr + c.len))).isSome = true ∧
      runningSlices copied = []) ∧
    (let s := cachedRegion
     let a := s.stream.mig.base
     (s.stream.copies.find? (fun c => decide (c.addr ≤ a) && decide (a + 64 ≤ c.addr + c.len))) = none ∧ (slotAt s a 64).isSome = true ∧
     (imageOfRegion s 0).isSome = true) ∧
    (live.stream.copies = [] ∧ slotAt live 0 64 = none) := by decide +kernel

/-- A -L with its migration cache of one slot, free, filled, or draining. -/
def cache (slots : SMap (Option MigSlot)) : State :=
  { live with ident := { live.ident with variant := 2 }, stream := { live.stream with mig := { live.stream.mig with
      enable := true, size := 1, threshold := 2, slots := slots, counters := [(4, 3), (9, 1)] } } }
def slot (draining : Bool) : MigSlot := { region := 9, valid := true, pinned := false, draining := draining }
theorem test_witness_Migration :
    smWf 0 (cache []).stream.mig.counters = true ∧
    (migRuns (cache []) = true ∧ (cache []).stream.mig.threshold ≤ counterOf (cache []) 4 ∧ slotOfRegion (cache []) 4 = none ∧ keptOut (cache []) 4 = false ∧
      freeSlot (cache []) = some 0) ∧
    (let s := cache [(0, some (slot false))]
     freeSlot s = none ∧ lowestSlot s (fun k => decide (k < counterOf s 4)) = some 0 ∧ smGet none s.stream.mig.slots 0 = some (slot false) ∧ slotOfRegion s 4 = none) ∧
    (smGet none (cache [(0, some (slot true))]).stream.mig.slots 0 = some (slot true) ∧ (slot true).draining = true ∧ slotRead (cache [(0, some (slot true))]) 0 = false) ∧
    (let x : MigSlot := { slot false with valid := false }
     let s := cache [(0, some x)]
     smGet none s.stream.mig.slots 0 = some x ∧ x.draining = false ∧ runsRefused s 35 true 0 [(s.stream.mig.base + 0x200000 * 0, 0x200000)] = none) ∧
    (bit live.wst.running 4 = false ∧ bit { live.wst with running := 16 }.running 4 = true) ∧
    (Writable (cache []) 0 3 ∧ isPhys 0 = true ∧ (cache []).ident.variant = 2 ∧ bit 1 0 = true) := by unfold Writable; decide +kernel

/-- A read gives these bytes. -/
def reads (e : Except Fail Bytes) (bs : Bytes) : Bool := match e with
  | .ok x => x == bs
  | .error _ => false
/-- MODEL_PLACE of model 5 with `n` entries at 0x4000. -/
def placing (n : Nat) : Cmd := named 0x23 [(16, 8, 0x4000), (24, 2, n)]
def placed (n first : Nat) : State := given (placing n) (images (writeBytes .hostA 0x4000 [BitVec.ofNat 8 first] live))
def poor : State := { placed 0 0 with bow := { live.bow with quotas := setAt 0 {} live.bow.quotas }, mmu := modAt 0 (fun m => { m with poolPages := 1 }) live.mmu }
theorem noTensors {s : State} (h : (Config.imageInfo []).tensors = []) :
    hotBytes [] image = 0 ∧ hotTensors [] image = [] ∧ copyTensors s [] image = [] ∧ pinRegions s [] image = [] := by
  have : (infoOf image).tensors = [] := h
  simp [hotBytes, hotTensors, copyTensors, pinRegions, this, sumBy]
theorem test_witness_ModelPlace :
    ((Config.imageInfo []).tensors = [] → isReady (placed 0 0) 0x23 (placing 0) = true ∧ imageVersion (placed 0 0) 5 1 = some image ∧
      isOk (vaRead (placed 0 0) 0 0 0x4000 0 16) = true ∧ placeQuota (placed 0 0) (placing 0) image [] = none) ∧
    (isReady (placed 1 0x10) 0x23 (placing 1) = true ∧ imageVersion (placed 1 0x10) 5 1 = some image ∧ leAt (placing 1).desc 24 2 = 1 ∧
      reads (vaRead (placed 1 0x10) 0 0 0x4000 8 (locator 0 0 16)) (block 8 [(0, 1, 0x10)]) = true ∧
      entryFault (placed 1 0x10) (infoOf image).layers (slice (block 8 [(0, 1, 0x10)]) 0 8) = some 0) ∧
    ((Config.imageInfo []).tensors = [] → isReady poor 0x23 (placing 0) = true ∧ imageVersion poor 5 1 = some image ∧
      isOk (vaRead poor 0 0 0x4000 0 16) = true ∧ placeQuota poor (placing 0) image [] = some 2) := by
  refine ⟨fun h => ⟨by decide +kernel, by decide +kernel, by decide +kernel, ?_⟩, by decide +kernel,
    fun h => ⟨by decide +kernel, by decide +kernel, by decide +kernel, ?_⟩⟩
  · simp only [placeQuota, placeCopies, noTensors (s := placed 0 0) h]; decide +kernel
  · simp only [placeQuota, placeCopies, noTensors (s := poor) h]; decide +kernel

/-! ## Slices, buffers, port split, hot set, programs, hints, sessions -/

/-- A slice of command 7 runs on fret 0, begun at time 0. -/
def run : Run := { cmd := 7, idx := 0, start := 0, attempts := 0, kills := 0, tried := [], frets := [0] }
def worker : Cmd := { ready 0x01 with phase := .running, work := [{}], slicesNext := 1 }
def busy : State := { given worker live with bow := { live.bow with frets := setAt 0 { run := some run } live.bow.frets } }
/-- A command of priority 2 waits with one slice behind it, and levels allow it to preempt. -/
def waiter : Cmd := { ready 0x01 with id := 8, prio := 2, phase := .running, work := [{}] }
def crowded : State := { busy with
  hif := { busy.hif with cmds := [worker, waiter] }
  bow := { busy.bow with levels := 255 } }
theorem test_witness_Slices :
    (partRun busy ⟨0, false⟩ = some run ∧ threadsLeft busy run.cmd = false ∧ fretBusy busy 0 = true) ∧
    (let s := { busy with bow := { busy.bow with frets := setAt 0 { edge := some run } live.bow.frets } }
     partRun s ⟨0, true⟩ = some run ∧ threadsLeft s run.cmd = false ∧ (fretOf s 0).edge.isSome = true) ∧
    (let u := (List.range 48).foldl unqueue crowded
     cmdOf crowded 8 = some waiter ∧ cmdOf u 8 = some waiter ∧ runnable waiter = true ∧ chooseVictim u waiter = some (run, worker)) := by decide +kernel
theorem test_witness_CorrectedWords : live.wf = true ∧ live.bow.frets.length = 48 ∧ live.bow.strings.length = 4 ∧ (zeros 8).length = 8 := by decide +kernel
theorem test_witness_liveShaped : Shaped live := by constructor <;> decide +kernel

/-- String 0 had a buffer error at time 0, 60 s or more before now. -/
def hurt (now : Nat) : State := { modString 0 (fun x => { x with lastBufError := some 0 }) live with now := now }
theorem test_witness_BufferErrors :
    ((stringOf (hurt (sixtySeconds + 1)) 0).lastBufError = some 0 ∧ 0 + sixtySeconds < (hurt (sixtySeconds + 1)).now) ∧
    ((stringOf (hurt sixtySeconds) 0).lastBufError = some 0 ∧ (hurt sixtySeconds).now ≤ 0 + sixtySeconds) ∧
    unitAt live 0 0 = none ∧ (unitAt (passing (some 0)) 0 0).isSome = true := by decide +kernel

/-- Both ports' proposals. -/
def proposals (a b : Nat) : State := { live with bow := { live.bow with prop := [a, b] } }
theorem test_witness_PortSplit :
    Writable live 0 0 ∧ isPhys 0 = true ∧
    ((proposals 8 8).bow.prop.getD (portOf 0) 0 ≠ 16 ∧ (proposals 8 8).bow.prop.getD (1 - portOf 0) 0 ≠ 16) ∧
    (let s := { proposals 0 7 with bow := { (proposals 0 7).bow with quotas := List.replicate 16 {} } }
     s.bow.prop.getD (portOf 0) 0 ≠ 7 ∧ s.bow.prop.getD (1 - portOf 0) 0 = 7 ∧ 7 ≠ s.bow.k ∧ portFits s 7 0 = true ∧ portFits s 7 1 = true) ∧
    ((proposals 8 0).bow.prop.getD (portOf 0) 0 ≠ 0 ∧ (proposals 8 0).bow.prop.getD (1 - portOf 0) 0 = 0 ∧ 0 ≠ (proposals 8 0).bow.k ∧
      portFits (proposals 8 0) 0 0 = false) := by unfold Writable; decide +kernel

/-- A hot entry that is switching, and a hot set that waits for a new size. -/
def entry : HotEntry := { id := 0, handle := 5, version := 1, func := 0, bytes := 64, banks := [0, 0, 0, 0], loaded := false, switching := true,
                          lastUse := 0, backing := 0 }
def hotLive : State := { live with bow := { live.bow with hot := [entry], hotBanksNext := some 2 } }
theorem test_witness_HotSet :
    (bf 0x103 3 0 ≤ 8 ∧ pinnedFit live (bf 0x103 3 0) = true) ∧ (hotLive.bow.hotBanksNext = some 2 ∧ hotRuns hotLive = false) ∧
    (bit 5 16 = false ∧ bit 0x10005 16 = true) ∧ (hotOf hotLive 0 = some entry ∧ entry.switching = true) ∧
    runsRefused hotLive 32 false (locator 0 0 8) (backingRuns hotLive entry) = none ∧
    (let s := { hotLive with pwr := { live.pwr with firewallShut := true }, stream := { live.stream with copies := [
       { func := 0, handle := 5, version := 1, layer := 0, tensor := 0, hot := true, addr := 0x100000, len := 64 }] } }
     hotOf s 0 = some entry ∧ (runsRefused s 32 false (locator 0 0 8) (backingRuns s entry)).isSome = true) := by decide +kernel

/-- A program whose first thread stands on fret 0, with its registers. -/
def program : Cmd := { ready 0x10 [] (block 104 [(24, 1, 1), (26, 2, 1), (28, 2, 1)]) with phase := .running }
def thread (regs : List Nat) : GThread := { fret := 0, core := 0, thread := 0, cmd := 7, num := 0, count := 1, regs := regs }
def tid : ThreadId := { fret := 0, core := 0, thread := 0 }
def ticket : Ticket := { num := 4, fret := 0, core := 0, thread := 0, src := 0, dst := 0, len := 0 }
def coding (regs : List Nat) : State := { given program live with gcore := { live.gcore with threads := [thread regs], tickets := [ticket] } }
theorem test_witness_Programs :
    (nextThread (coding []) 0 0 = some (thread []) ∧ cmdOf (coding []) 7 = some program ∧
      isOk (programRead (goOn tid 4 (passTurn tid (coding []))) program (thread []) (workBase 0) 8) = true ∧
      isOk (programWrite (goOn tid 4 (passTurn tid (coding []))) program (thread []) false (dataBase program 0) [1]) = true) ∧
    (nextThread (coding [0, fretBase 0]) 0 0 = some (thread [0, fretBase 0]) ∧ sameThread tid (thread [0, fretBase 0]) = true ∧
      fretBase 0 ≤ regOf (thread [0, fretBase 0]) 1 ∧ regOf (thread [0, fretBase 0]) 1 + 32 ≤ fretBase 0 + 0x400000 ∧
      heldTickets (coding [0, fretBase 0]) tid < 16) ∧
    (regOf (thread [0, 4]) 1 = 4 ∧ (coding [0, 4]).gcore.tickets.find? (fun k => k.num == 4 && k.fret == 0 && k.core == 0 && k.thread == 0) = some ticket) ∧
    (nextThread (coding [0, 3]) 0 0 = some (thread [0, 3]) ∧ regOf (thread [0, 3]) 1 ≤ 3 ∧ regOf (thread [0, 3]) 1 ≠ 0 ∧ regOf (thread [0, 0]) 1 = 0) := by
  decide +kernel
/-- The program runs on fret 0 since time 0, past its budget at 10 s. -/
def spent : State := { coding [] with bow := { live.bow with frets := setAt 0 { run := some { run with cmd := 7 } } live.bow.frets } }
theorem test_witness_ProgramsEnd :
    (program.opcode = 0x10 ∧ program.phase = .running ∧ threadsLeft spent 7 = true ∧ cmdOf spent 7 = some program ∧ budgetOver spent program = true) ∧
    ((coding []).gcore.tickets.find? (fun k => k.fret == 0 && k.num == 4 && k.ended.isNone) = some ticket ∧
      ticketThread (coding []) ticket = some (thread []) ∧ threadsLeft (coding []) program.id = true) ∧
    touchesAperture apertureBase 64 = true := by decide +kernel

def hint : PowerHint := { id := 0, func := 0, start := 0, leadUs := 10, durationUs := 10, powerDw := 5, strings := 1 }
theorem test_witness_Hints : hintOf { live with hints := { list := [hint], next := 1 } } 0 = some hint ∧ hint.stage = .pending := by decide +kernel

/-- A session's parameter block. -/
def openBlock : Bytes := block 32 [(0, 8, apertureBase), (8, 4, 128), (12, 2, 1), (14, 2, 1), (16, 2, 32)]
def inSession (op : Nat) (params : Bytes) (x : Session) : State := given (named op [] params) { live with atn := { live.atn with sessions := [x] } }
theorem test_witness_Sessions :
    (isReady (given (named 0x40 [] openBlock) live) 0x40 (named 0x40 [] openBlock) = true ∧ openFail (given (named 0x40 [] openBlock) live) (named 0x40 [] openBlock) = none) ∧
    (isReady (inSession 0x41 [] session) 0x41 (named 0x41) = true ∧ sessionOf (inSession 0x41 [] session) 0 3 = some session ∧ session.opened < 7) ∧
    (isReady (inSession 0x42 [] session) 0x42 (named 0x42) = true ∧ ownSession (inSession 0x42 [] session) (named 0x42) = some session ∧ leAt ([] : Bytes) 0 4 ≤ 128) ∧
    (let p := block 32 [(28, 2, 1)]
     let x : Session := { session with fills := [64] }
     isReady (inSession 0x44 p x) 0x44 (named 0x44 [] p) = true ∧ ownSession (inSession 0x44 p x) (named 0x44 [] p) = some x ∧ 64 * (leAt p 24 4 + leAt p 28 2) ≤ x.length ∧
     isOk (readBlocks (inSession 0x44 p x) (named 0x44 [] p) 1) = true ∧ isOk (stageHashes (inSession 0x44 p x) (named 0x44 [] p) [5]) = true) ∧
    (let p := block 32 [(16, 2, 1)]
     isReady (inSession 0x43 p session) 0x43 (named 0x43 [] p) = true ∧ ownSession (inSession 0x43 p session) (named 0x43 [] p) = some session ∧ session.length = 0 ∧
     isOk (attachChain (inSession 0x43 p session) (named 0x43 [] p) session (leAt p 16 2) 0 0) = true ∧ isOk (stageHashes (inSession 0x43 p session) (named 0x43 [] p) []) = true) ∧
    (isReady (inSession 0x45 [] session) 0x45 (named 0x45) = true ∧ isOk (vaRead (inSession 0x45 [] session) 0 0 0 0 0) = true) ∧
    ((named 0x40 [] openBlock).opcode = 0x40 ∧ (named 0x41).opcode = 0x41 ∧ (named 0x42).opcode = 0x42) := by decide +kernel
theorem test_witness_Mmu : Writable live 0 1 ∧ Writable live 0 4 ∧ mmuTarget 0 7 = some 7 := by unfold Writable; decide +kernel

/-! ## Relocations, blocks, the camera, the drone -/

/-- Block 5 of die 0, of a state (3 PARITY, 2 DATA, 1 OPEN, 5 ERASE_PENDING) and with page reads. -/
def blk (state reads : Nat) : State := { live with wst := { live.wst with
  blocks := [(5, { state := state, rdPages := reads })], erasing := [5], pending := [.checkpoint]
  relocs := [{ block := 5, dest := some 6, prio := 0, rebuilt := false, patrol := false, lost := [] }] } }
theorem test_witness_Relocations :
    (let s := blk 2 1000000000
     holdsData (blockOf s 5) = true ∧ 2 * refreshLimit s (blockOf s 5) ≤ (blockOf s 5).rdPages ∧ refreshLimit s (blockOf s 5) ≤ (blockOf s 5).rdPages ∧
     5 * refreshLimit s (blockOf s 5) ≤ 4 * (blockOf s 5).rdPages) ∧
    ((relocOf (blk 2 0) 5).isSome = true ∧ Change.remap 0 0 6 false (some 5) ∉ (blk 2 0).wst.pending) ∧
    (0 < dieCount live ∧ 0 ∉ live.wst.failedDies) := by decide +kernel
theorem test_witness_Journal :
    (let s := { blk 2 0 with wstMore := { (blk 2 0).wstMore with appending := true } }
     s.wst.pending = [.checkpoint] ∧ s.wstMore.appending = true) ∧ (blk 2 0).wstMore.appending = false ∧ Writable live 0 2 ∧ isPhys 0 = true ∧ bit live.wst.running 7 = false := by
  unfold Writable; decide +kernel
theorem test_witness_Blocks :
    (blockOf (blk 1 0) 5).state ∈ [1, 6, 7] ∧ ((blockOf (blk 5 0) 5).state = 5 ∧ live.capo.dip = false ∧ live.capo.holdoff = false) ∧ 5 ∈ (blk 2 0).wst.erasing ∧
    (let s := { live with fwu := { live.fwu with erasing := true }, wst := { live.wst with blocks := [(6, { state := 7, lblock := 1 })] } }
     6 ∉ s.wst.erasing ∧ regionErased s 6 = true) ∧
    (let s := { blk 2 0 with wst := { (blk 2 0).wst with patrolEnable := true, ageClock := 1000000 } }
     patrolDueFor s 5 = true ∧ 5 ∉ s.wstMore.patrolLeft) := by decide +kernel

/-- Camera port 0 listens; its rate needs the deskew (`fast`) or not. -/
def camera (fast : Bool) : State := modCamPort 0 (fun x => { x with enable := true, deskew := true, rate := if fast then 4500 else 1000 }) live
/-- A bind of channel 0 of port 0 with a running frame that has one line to process; in-line when `inl`. -/
def frame : Frame := { no := 1, start := 0, dropped := false, raw := [zeros 4] }
def seen (inl : Nat) : Bind := { id := 0, func := 0, block := block 64 [(2, 1, 0x2A), (3, 1, inl), (4, 2, 4), (6, 2, 4), (8, 2, 9), (12, 1, 4)],
                                 pipe := zeros 448, frame := some frame }
def seeing (b : Bind) : State := { camera false with cam := { (camera false).cam with binds := [b] } }
def vision : Cmd := { ready 0x18 [] (block 448 [(12, 2, 4), (14, 2, 2)]) with phase := .running }
theorem test_witness_Camera :
    (stands 0x18 [] vision.params live = true ∧ sumBy (fun k => outPixels (vpOut vision.params k)) [0, 1, 2] ≤ 64 * 2 ^ 20) ∧
    (let p := (seen 0).block
     let s := modRing 9 (fun _ => {}) live
     stands 0x50 [] p s = true ∧ isOk (bindCheck (given (ready 0x50 [] p) s) (ready 0x50 [] p)) = true) ∧
    (stands 0x51 [] [0] (seeing (seen 0)) = true ∧ bindOf (given (ready 0x51 [] [0]) (seeing (seen 0))) 0 = some (seen 0)) ∧
    (let s := { given vision live with cam := { live.cam with queue := [7] } }
     s.cam.running = none ∧ domOn s 4 = true ∧ nextMemoryPass s = some vision ∧ isOk (readRows (leaveQueue 7 s) vision (vpHeight vision.params)) = true) ∧
    (live.cam.queue = [] ∧ nextMemoryPass live = none) ∧
    (pipelineRuns (modDomain 4 (fun x => { x with state := .off }) live) = false ∧ pipelineRuns live = true) ∧
    (pipelineRuns (seeing (seen 1)) = true ∧ inlineWaiting (seeing (seen 1)) = some (seen 1, frame, false)) ∧
    (let s := { given vision live with cam := { live.cam with running := some (7, 0) } }
     inlineWaiting s = none ∧ cmdOf s 7 = some vision ∧ vision.phase = .running ∧ 0 + 1 < vpHeight vision.params) ∧
    (let s := { given vision live with cam := { live.cam with running := some (7, 1) } }
     inlineWaiting s = none ∧ cmdOf s 7 = some vision ∧ vpHeight vision.params ≤ 1 + 1) ∧
    (let s := { live with cam := { live.cam with running := some (7, 0) } }
     inlineWaiting s = none ∧ cmdOf s 7 = none) ∧
    (inlineWaiting live = none ∧ live.cam.running = none) ∧
    (let b := { seen 1 with out := some frame }
     inlineBind (seeing b) = some b ∧ bindOf (seeing b) b.id = some b ∧ b.out = some frame) := by decide +kernel
def line (bad : Bool) : LinePacket := { vc := 0, dtype := 0x2A, payload := zeros 4, hdrCorrected := false, hdrUncorrectable := bad, crcError := false, fifoOverflow := false }
theorem test_witness_CameraPackets :
    (listening (camera false) 0 = true ∧ deskewed (camPort (camera false) 0) = true ∧ (line true).hdrUncorrectable = true) ∧
    (listening live 0 = false ∧ (line false).hdrUncorrectable = false) ∧
    (listening (seeing (seen 0)) 0 = true ∧ (line false).dtype ≠ 0x12 ∧
      (bindsOn (seeing (seen 0)) 0 (line false).vc).find? (fun b => cbDtype b.block == (line false).dtype) = some (seen 0)) ∧
    (listening (camera true) 0 = true ∧ deskewed (camPort (camera true) 0) = false ∧ (camPort (camera true) 0).deskew = true) ∧
    (bindOf (seeing (seen 0)) 0 = some (seen 0) ∧ (seen 0).frame.isSome = true) := by decide +kernel

/-- The drone with one microphone beam, a detector image, and plan 0 in a state. -/
def drone (st : PlanState) (det : DetState) : State := { live with drone := { live.drone with
  plans := setAt 0 { block := block 64 [(1, 1, 1), (8, 2, 0x8C), (15, 1, 1)], state := st } live.drone.plans
  cfg := { live.drone.cfg with detBeams := 1, micMask := 1, vibMode := 1, camPeriodS := 1, beams := 1, flags := 1, prerollS := 1 }
  det := { live.drone.det with state := det, image := some { classes := 1, onsetLevel := 1, lagMs := 0, bytes := [] }, quiet := 30 } } }
/-- A PREROLL_REPLAY of 16 ms of beam 0, at a time, with the replays open. -/
def replay (start : Nat) : Cmd := ready 0x54 [] (block 64 [(0, 8, 0x8000), (8, 4, 4096), (16, 8, start), (24, 4, 16)])
def replaying (start : Nat) : State :=
  let s := drone .armed .idle
  given (replay start) { s with drone := { s.drone with replayFuncs := 1 } }
theorem test_witness_Drone :
    (let c := ready 0x52 [] (zeros 320)
     stands 0x52 [] (zeros 320) live = true ∧ c.func = droneOwner live ∧ leAt c.params 8 8 = 0 ∧ audioChanging live.drone.cfg c.params = false) ∧
    (let p := block 320 [(0, 2, 1)]
     stands 0x52 [] p live = true ∧ audioChanging live.drone.cfg p = true ∧ configBefore (given (ready 0x52 [] p) live) (ready 0x52 [] p) = false) ∧
    (let c : Cmd := { ready 0x52 [] (zeros 320) with phase := .running, aux := [1] }
     let s := given c { live with drone := { live.drone with waitingCfg := [(7, false)] } }
     s.drone.waitingCfg = [(7, false)] ∧ cmdOf s 7 = some c ∧ c.alive = true) ∧
    (stands 0x53 [] (zeros 64) live = true ∧ handleOk live 0 (planVerifier (zeros 64)) = true ∧ handleOk live 0 (plPreload (zeros 64)) = true ∧
      0 = droneOwner live ∧ planIdle (planOf live 0) = true ∧ planIdle (planOf (drone .accepted .idle) 0) = false) ∧
    (let s := replaying 20000
     let c := replay 20000
     isReady s 0x54 c = true ∧ bit s.drone.replayFuncs c.func = true ∧ sourceOn s c = true ∧ replayLen c (replayOf s c).start ≤ leAt c.params 8 4 ∧
     replayReady s c (replayOf s c).start = false) ∧
    (let c := replay 1
     let s := { replaying 1 with now := 384 * 64000000 }
     isReady s 0x54 c = true ∧ sourceOn s c = true ∧ replayLen c (replayOf s c).start ≤ leAt c.params 8 4 ∧ replayReady s c (replayOf s c).start = true ∧
     isOk (vaStage s c.func 34 (leAt c.params 0 8) (beamReplay s c (replayOf s c)).1 (locator 2 0 0)) = true) := by decide +kernel
theorem test_witness_Detector :
    (live.clk.aonFailed = false ∧ (drone .armed .idle).drone.det.image.isSome = true ∧ (drone .armed .idle).drone.cfg.detBeams ≠ 0) ∧
    live.drone.det.image = none ∧
    ((drone .armed .candidate).drone.det.state = .candidate ∧ 30 ≤ (drone .armed .candidate).drone.det.quiet) ∧
    (drone .armed .holdoff).drone.det.state = .holdoff ∧ { live.drone.cfg with vibMode := 2, levelPeriodMs := 8 }.vibMode = 2 ∧
    ({ live.drone.cfg with levelPeriodMs := 8 }.levelPeriodMs ≠ 0 ∧ bit live.drone.cfg.micMask live.drone.cfg.levelMic = false) ∧ (drone .armed .idle).drone.cfg.camPeriodS ≠ 0 ∧
    bit (drone .armed .idle).drone.cfg.micMask 0 = true := by decide +kernel
theorem test_witness_Plans :
    (Writable live 0 6 ∧ 0 = droneOwner live) ∧ (planOf (drone .accepted .idle) 0).state = .accepted ∧
    (let s := { drone .verifying .idle with bow := { live.bow with hot := [{ entry with handle := planVerifier (planOf (drone .verifying .idle) 0).block, loaded := true, switching := false }] } }
     (planOf s 0).state = .verifying ∧ verifierReady s (planOf s 0) = true ∧ plVerifyScore (planOf s 0).block ≤ 65535 ∧ 0 < plVerifyScore (planOf s 0).block) ∧
    (planOf live 0).state ≠ .verifying ∧
    (let s := images (drone .verifying .idle)
     planIdle (planOf s 0) = false ∧ (planOf s 0).preload = none ∧ domOn s 2 = true ∧ domOn s 3 = true ∧ domOn s 7 = true ∧
     bit (planDomains (planOf s 0).block) 7 = true) := by unfold Writable; decide +kernel

/-! ## Installs, firmware, security, the safety stream, commits -/

/-- Install 1 of handle 5 and port 0: one granule, of one unit, in the superblock 0 of class 0. -/
def inst (env : Bool) (buffer : SMap (Option Bytes)) (durable : List Nat) : Install := {
  xfer := 1, handle := 5, port := 0, func := 0, state := .open, len := 4096, confOnly := false, funcMask := 255, envelope := env, manifest := [],
  wrapped := [], image := 9, extents := [], reserved := 1, base := 0, buffer := buffer, durable := durable, cells := [],
  supers := [{ cls := 0, idx := 0, die := 0, lblock := 0 }] }
def installing (i : Install) : State := { live with wst := { live.wst with installs := [i] } }
def beginBlock : Bytes := block 528 [(0, 8, 4096)]
def data (op : Nat) : Cmd := named op [(16, 8, 0x4000), (40, 2, 1)]
/-- One granule takes at most three of usable capacity, whatever its image marks hot. -/
theorem beginMib_beginBlock (s : State) (r : Request) : beginMib s (named 0x60 [] beginBlock) r ≤ 1 := by
  have e : ((rawExtents (named 0x60 [] beginBlock).params).map extentOf) = [] := by decide +kernel
  have n : leAt (named 0x60 [] beginBlock).params 0 8 = 4096 := by decide +kernel
  unfold beginMib
  rw [e, n]
  generalize hotGranules r.manifest s.wst.nextImage = hot
  have g : granuleClass [] hot 0 = 4 ∨ granuleClass [] hot 0 = 0 := by
    unfold granuleClass; simp only [List.find?_nil]; split <;> simp
  have w : weightsOf [] hot 4096 = [classWeight (granuleClass [] hot 0)] := rfl
  rw [w]
  rcases g with g | g <;> rw [g] <;> decide +kernel
def plainRequest : Request := { confOnly := false, mask := 255, manifest := [], key1 := [], key2 := [] }
theorem beginFail_begin (s : State) (h : (beginRequest s (named 0x60 [] beginBlock) = some plainRequest ∧ s.sec.lifecycle = .provisioned ∧
    installOverlap (named 0x60 [] beginBlock).params = none ∧ s.wst.installs = [] ∧
    1 + installedMib s (portOf (named 0x60 [] beginBlock).func) ≤ shareMib s s.bow.k (portOf (named 0x60 [] beginBlock).func) ∧ s.sec.slots.length < 256)) :
    beginFail s (named 0x60 [] beginBlock) = none := by
  obtain ⟨h1, h2, h3, h4, h5, h6⟩ := h
  have b := beginMib_beginBlock s plainRequest
  simp only [beginFail, h1, h2, h3, h4]
  rw [if_neg (by simp), if_neg (by simp [plainRequest])]
  simp only [List.any_nil, List.length_nil, Bool.false_or]
  rw [if_neg (by decide), if_neg (by simp; omega)]
theorem test_witness_InstallBegin : isReady (given (named 0x60 [] beginBlock) live) 0x60 (named 0x60 [] beginBlock) = true ∧
    beginFail (given (named 0x60 [] beginBlock) live) (named 0x60 [] beginBlock) = none :=
  ⟨by decide +kernel, beginFail_begin _ (by decide +kernel)⟩
theorem test_witness_ModelRelease (h : (Config.imageInfo []).kind = 0) : isReady (given (named 0x64) (images live)) 0x64 (named 0x64) = true ∧
    releaseFail (given (named 0x64) (images live)) (named 0x64) = none := by
  refine ⟨by decide +kernel, ?_⟩
  have e : imageVersion (given (named 0x64) (images live)) (named 0x64).model (named 0x64).bound.version = some image := by decide +kernel
  simp only [releaseFail, e, safetyPortOk, infoOf, image, h]; decide +kernel
theorem test_witness_InstallData :
    (let s := given (data 0x61) (installing (inst false [] []))
     isReady s 0x61 (data 0x61) = true ∧ dataFail s (data 0x61) = none ∧ installOf s (xferId (data 0x61)) = some (inst false [] []) ∧
     reads (vaRead s 0 0 (leAt (data 0x61).desc 16 8) (xferLength (data 0x61)) (locator 0 0 16)) ([]) = true ∧
     crc32 ([]) = xferCrc (data 0x61) ∧ bufferUnits s + unitsComing s + newUnits (inst false [] []) (xferOffset (data 0x61)) (xferLength (data 0x61)) ≤ 16384) := by
  decide +kernel
theorem test_witness_InstallDataCommit : (data 0x61).opcode = 0x61 ∧ dataFail (given (data 0x61) (installing (inst false [] []))) (data 0x61) = none := by
  decide +kernel
theorem test_witness_InstallEnds :
    (let i := inst false [] [0]
     let s := given (named 0x62) (installing i)
     isReady s 0x62 (named 0x62) = true ∧ installFor s 5 0 = some i ∧ i.len ≤ i.durableLen ∧ i.envelope = false) ∧
    (let i := { inst true [] [0] with manifest := [1] }
     let s := given (named 0x62) (installing i)
     isReady s 0x62 (named 0x62) = true ∧ installFor s 5 0 = some i ∧ i.len ≤ i.durableLen ∧ i.envelope = true ∧ installDigest s i ≠ i.manifest) ∧
    (let s := given (named 0x63) (installing (inst false [] []))
     isReady s 0x63 (named 0x63) = true ∧ installFor s 5 0 = some (inst false [] [])) := by decide +kernel
def granules : Install := { inst false [(0, some [1])] [] with
  supers := [{ cls := 0, idx := 0, die := 0, lblock := 0 }, { cls := 4, idx := 0, die := 16, lblock := 0 }] }
/-- The program of granule 0 has been admitted. -/
def programming (i : Install) : State := { installing i with wstMore := { live.wstMore with programming := [(1, 0)] } }
theorem test_witness_Granules :
    (let s := programming granules
     domOn s 3 = true ∧ fwGap s = false ∧ (1, 0) ∈ s.wstMore.programming ∧ installOf s 1 = some granules ∧ granuleWhole granules 0 = true ∧
     0 ∉ granules.durable ∧ 0 < granules.granules ∧ (1, 1) ∉ s.wstMore.programming) ∧
    (∃ x, superFor granules 0 { programming granules with wstMore := { (programming granules).wstMore with programming := [] } } =
      ({ programming granules with wstMore := { (programming granules).wstMore with programming := [] } }, some x)) := by
  refine ⟨by decide +kernel, ?_⟩
  have g : granuleClass [] granules.hot 0 = 4 ∨ granuleClass [] granules.hot 0 = 0 := by
    unfold granuleClass; simp only [List.find?_nil]; split <;> simp
  have e : granulePlace granules.extents granules.hot 0 = (granuleClass [] granules.hot 0, 0) := rfl
  simp only [superFor, e]
  rcases g with g | g <;> rw [g]
  · exact ⟨{ cls := 4, idx := 0, die := 16, lblock := 0 }, rfl⟩
  · exact ⟨{ cls := 0, idx := 0, die := 0, lblock := 0 }, rfl⟩

/-- The part with its firmware slot in a state, loaded by port 0, and a hand-over that stands somewhere. -/
def loadsFw (st : SlotState) (h : Handover) (n : Nat) : State := { live with fwu := { live.fwu with state := st, loader := 0, handover := h, len4k := n } }
def activating (h : Handover) (shipped : Bool) : State :=
  let s := given { ready 0x66 with phase := .running } (loadsFw .activating h 2)
  { s with fwu := { s.fwu with slots := [{ complete := true, shipped := true }, { complete := shipped, shipped := shipped }] } }
def fwBlock : Cmd := { data 0x65 with stages := [[]] }
theorem test_witness_FirmwareSlots :
    (Writable live 0 11 ∧ isPhys 0 = true ∧ mayLoad live 0 = true ∧ live.fwu.state = .empty ∧ 2 ≤ bf (2 * 2 ^ 32) 46 32 ∧ bf (2 * 2 ^ 32) 46 32 ≤ 16384 ∧
      live.fwu.handover = .none) ∧
    (let s := loadsFw .loaded .none 2
     Writable s 0 11 ∧ mayLoad s 0 = true ∧ s.fwu.state = .loaded ∧ s.fwu.loader = portOf 0 ∧ bf (16384 * 2 ^ 32) 46 32 = 16384) ∧
    (let s := given (data 0x65) (loadsFw .loading .none 2)
     isReady s 0x65 (data 0x65) = true ∧ s.fwu.erasing = false ∧ bit s.wst.running 7 = false ∧ budgetFree s 0 = true ∧ fwWriteFail s (data 0x65) = none ∧
     reads (vaRead s 0 0 (leAt (data 0x65).desc 16 8) (xferLength (data 0x65)) (locator 0 0 16)) ([]) = true ∧
     crc32 ([]) = xferCrc (data 0x65)) ∧
    (fwBlock.opcode = 0x65 ∧ fwWriteFail (loadsFw .loading .none 2) fwBlock = none) ∧
    (let s := given (ready 0x66) (loadsFw .loaded .none 2)
     isReady s 0x66 (ready 0x66) = true ∧ mayLoad s 0 = true ∧ s.fwu.state = .loaded) := by unfold Writable; decide +kernel
theorem test_witness_SlotErase :
    (let s := { live with fwu := { live.fwu with erasing := true } }
     s.fwu.erasing = true ∧ bit s.wst.running 7 = false) ∧ bit { live.wst with running := 128 }.running 7 = true := by decide +kernel
theorem test_witness_Handovers :
    ((activating (.checking 7) true).fwu.handover = .checking 7 ∧ handoverAlive (activating (.checking 7) true) 7 = true ∧
      bootCheck (activating (.checking 7) true) (inactive (activating (.checking 7) true)) = none) ∧
    bootCheck (activating (.checking 7) false) (inactive (activating (.checking 7) false)) = some 2 ∧
    ((activating (.starting 7) true).fwu.handover = .starting 7 ∧ handoverAlive (activating (.starting 7) true) 7 = true) ∧
    (activating (.gap 7 0) true).fwu.handover = .gap 7 0 := by decide +kernel

def debugging (n : Nat) : State := { live with sec := { live.sec with dbgState := n } }
theorem test_witness_Debug :
    (Writable live 0 10 ∧ isPhys 0 = true ∧ live.sec.dbgFails < 3 ∧ live.sec.dbgState ≤ 1 ∧ live.sec.lifecycle = .provisioned) ∧
    (Writable (debugging 1) 0 10 ∧ (debugging 1).sec.dbgState = 1) ∧ (debugging 2).sec.dbgState = 2 := by unfold Writable; decide +kernel

/-- Function 0 has negotiated, and holds the secure session 1, in confidential mode or not. -/
def talking (on : Bool) : State := modConf 0 (fun c => { c with negotiated := true, on := on, session := 1, sessions := [{ id := 1, secret := [], keyGen := 0 }] })
  { live with hif := { live.hif with rings := [] } }
def request (size : Nat) : ConfRequest := { winVa := 0x200000, winSize := size, hostBase := 0x400000, tagBase := 0x1000, reservedZero := true }
theorem test_witness_Secure :
    ((confOf (talking false) 0).negotiated = true ∧ (confOf (talking false) 0).sessions.length < 2 ∧ sessionHeld (confOf (talking false) 0) 1 = true) ∧
    ((confOf (talking false) 0).sessions.find? (fun x => x.id == 1) = some { id := 1, secret := [], keyGen := 0 } ∧
      confRefused (talking false) 0 (request 0x200000) = false ∧ confRefused (talking false) 0 (request 1) = true) ∧
    (sessionHeld (confOf (talking true) 0) 1 = true ∧ (confOf (talking true) 0).on = true) := by decide +kernel
theorem test_witness_talkingShaped : Shaped (talking true) := by constructor <;> decide +kernel

/-- The safety stream of function 0 with its in-line bind, in a state, with one golden input. -/
def safety (st : SafState) : State :=
  let s := seeing (seen 1)
  { s with saf := { s.saf with
      state := st, enable := true, config := block 192 [(0, 1, 1), (4, 1, 2), (6, 1, 4), (8, 2, 9)], goldens := [([], [])], runCmd := some 3,
      frames := [{}], jobs := [{ frame := 0, golden := true, fret := some 0 }] } }
def safetyOp (n : Nat) : Cmd := ready 0x70 [] (block 192 [(0, 1, n)])
def golden : Cmd := ready 0x71 [] (block 16 [(0, 1, 1), (8, 8, 0x4000)])
def selftest (b : Option Nat) : SelftestRun := { failed := b, firstA := [[]], secondA := [[]], firstB := [[]], secondB := [[]] }
def configured : Cmd := { ready 0x70 [] (block 192 [(0, 1, 1), (2, 1, 1), (3, 1, 2), (8, 2, 10), (20, 2, 5), (22, 2, 6)]) with
  bound := { places := [{ handle := 5, version := 1, entries := some [] }, { handle := 6, version := 1 }] } }
def safetyImages : State :=
  let s := given configured (safety .unconfigured)
  { s with wst := { s.wst with images := [image, { image with id := 2, handle := 6, manifest := [1] }] }
           stream := { s.stream with placements := [{ func := 0, handle := 5, version := 1, entries := [] }] } }
theorem test_witness_Configure (h1 : (Config.imageInfo []).kind = 1) (h2 : (Config.imageInfo [1]).kind = 2) (h3 : (Config.imageInfo []).tensors = []) :
    isReady safetyImages 0x70 configured = true ∧ byteAt configured.params 0 = 1 ∧ configureFail safetyImages configured = none := by
  refine ⟨by decide +kernel, by decide +kernel, ?_⟩
  have e1 : imageVersion safetyImages (cfModelA configured.params) (boundPlace configured (cfModelA configured.params)).version = some image := by decide +kernel
  have e2 : imageVersion safetyImages (cfModelB configured.params) (boundPlace configured (cfModelB configured.params)).version = some { image with id := 2, handle := 6, manifest := [1] } := by decide +kernel
  have e3 : safetyImage safetyImages configured (cfModelA configured.params) 1 = some image := by
    simp only [safetyImage, e1, Option.filter, infoOf, image, h1, mayUse, isSafety]; decide +kernel
  have e4 : safetyImage safetyImages configured (cfModelB configured.params) 2 = some { image with id := 2, handle := 6, manifest := [1] } := by
    simp only [safetyImage, e2, Option.filter, infoOf, image, h2, mayUse, isSafety]; decide +kernel
  have e5 : placedForSafety configured image = true := by
    simp only [placedForSafety, infoOf, image, h3, List.all_nil]; decide +kernel
  simp only [configureFail, e3, e4, e5]; decide +kernel
theorem test_witness_SafetyCommands :
    ({ live with saf := { live.saf with formCmd := some 7, forming := [11] } }.saf.formCmd = some 7 ∧
      foreignRuns { live with saf := { live.saf with formCmd := some 7, forming := [11] } } [11] = false) ∧
    (let s := given (safetyOp 2) (safety .tested)
     isReady s 0x70 (safetyOp 2) = true ∧ byteAt (safetyOp 2).params 0 = 2 ∧ s.saf.state = .tested ∧ s.saf.goldens ≠ []) ∧
    (let s := given (safetyOp 3) (safety .running)
     isReady s 0x70 (safetyOp 3) = true ∧ byteAt (safetyOp 3).params 0 = 3 ∧ s.saf.state = .running ∧ s.saf.runCmd = some 3) ∧
    (let s := given (safetyOp 4) (safety .latched)
     isReady s 0x70 (safetyOp 4) = true ∧ byteAt (safetyOp 4).params 0 = 4 ∧ s.saf.state = .latched) ∧
    (let s := given golden (safety .configured)
     isReady s 0x71 golden = true ∧ safIdle s = true ∧ (inlineBind s).isSome = true ∧ isOk (readGoldens s golden (List.range (byteAt golden.params 0))) = true) ∧
    (let s := given (ready 0x72) (safety .configured)
     isReady s 0x72 (ready 0x72) = true ∧ s.saf.state = .configured ∧ selftestFailure s (selftest none) = none ∧ selftestFailure s (selftest (some 3)) = some 3) := by
  decide +kernel
def ended : State := { safety .running with saf := { (safety .running).saf with frames := [{ ended := true }] } }
theorem test_witness_SafetyEvents :
    (jobFrame (safety .running) { keaster := false, golden := true } = some 0 ∧ (safety .running).saf.frames[0]? = some ({} : SafFrame)) ∧
    ended.saf.frames.findIdx? (fun f => f.ended && !f.decided) = some 0 ∧ sequencerRuns (safety .running) = true ∧
    (safety .running).saf.state = .running ∧ (safety .tested).saf.state ≠ .running := by decide +kernel
theorem test_witness_Commits :
    ((ready 0x32).opcode = 0x32 ∧ hintsHeld live 0 < 8) ∧
    (let p := block 32 [(16, 2, 1)]
     let s := inSession 0x43 p session
     (named 0x43 [] p).opcode = 0x43 ∧ sessionOf s 0 3 = some session ∧ isOk (attachChain s (named 0x43 [] p) session (leAt p 16 2) 0 0) = true) ∧
    (let p := (seen 0).block
     let s := modRing 9 (fun _ => {}) live
     (ready 0x50 [] p).opcode = 0x50 ∧ isOk (bindCheck s (ready 0x50 [] p)) = true) ∧
    ((ready 0x51 [] [0]).opcode = 0x51 ∧ bindOf (seeing (seen 0)) 0 = some (seen 0)) ∧
    ((named 0x23).opcode = 0x23 ∧ imageVersion (images live) 5 1 = some image ∧ image.inForce = true ∧ image.released = false) ∧
    ((named 0x60 [] beginBlock).opcode = 0x60 ∧ (beginRequest live (named 0x60 [] beginBlock)).isSome = true) ∧
    ((named 0x62).opcode = 0x62 ∧ (named 0x63).opcode = 0x63 ∧ installFor (installing (inst false [] [0])) 5 0 = some (inst false [] [0])) ∧
    ((safetyOp 1).opcode = 0x70 ∧ byteAt (safetyOp 1).params 0 = 1 ∧ safIdle (safety .tested) = true) ∧
    (golden.opcode = 0x71 ∧ isOk (readGoldens (safety .tested) golden [0]) = true ∧ (List.range (byteAt golden.params 0)) = [0]) ∧
    ((ready 0x72).opcode = 0x72 ∧ (ready 0x45).opcode = 0x45 ∧ (safety .configured).saf.state = .configured) := by decide +kernel

theorem test_witness_CommitBegin : beginFail live (named 0x60 [] beginBlock) = none := beginFail_begin _ (by decide +kernel)

/-! ## Domains, power, clocks, resets, links, registers -/

/-- Domain `d` changed, of a state. -/
def withDomain (d : Nat) (g : Domain → Domain) (s : State) : State := modDomain d g s
def starting (s : State) : State := { s with clk := { s.clk with stage := 3 } }
/-- A DOMAIN_SET block with one entry: domain, target. -/
def setBlock (d t : Nat) : Bytes := block 104 [(8 * d, 1, t), (8 * d + 2, 2, if t = 4 then 10 else 0)]
theorem test_witness_DomainSet :
    (isReady (given (ready 0x67 [] (setBlock 4 4)) live) 0x67 (ready 0x67 [] (setBlock 4 4)) = true ∧
      isReady (given (ready 0x67 [] (setBlock 11 3)) live) 0x67 (ready 0x67 [] (setBlock 11 3)) = true) ∧
    domainSetFail (given (ready 0x67 [] (setBlock 4 4)) live) (ready 0x67 [] (setBlock 4 4)) = none := by decide +kernel
theorem test_witness_DomainSetRefused : (domainSetFail (given (ready 0x67 [] (setBlock 11 3)) live) (ready 0x67 [] (setBlock 11 3))).isSome = true := by
  decide +kernel
def risingTo (d : Nat) (p : BringPhase) : State := withDomain d (fun x => { x with state := .bringup, phase := p })
  { live with pwr := { live.pwr with railEnable := 0x7FE, railGood := 0x7FE } }
theorem test_witness_BringUp :
    (bit (risingTo 8 .regulator).pwr.railEnable 1 = true ∧ bit (risingTo 8 .regulator).pwr.railEnable 0 = false) ∧
    (let s := starting { live with pwr := { live.pwr with railEnable := 1 } }
     bit s.pwr.railEnable 0 = true ∧ bit s.pwr.railGood 0 = false ∧ s.clk.started = true ∧ s.clk.stage < 6) ∧
    (inPhase (risingTo 2 .regulator) 2 .regulator = true ∧ railsGood (risingTo 2 .regulator) 2 = true) ∧
    inPhase (risingTo 8 .clock) 8 .clock = true ∧
    (inPhase (risingTo 2 .memory) 2 .memory = true ∧ (requires 2).all (domOn (risingTo 2 .memory)) = true) ∧
    (inPhase (risingTo 8 .logic) 8 .logic = true ∧ (risingTo 8 .logic).clk.hot = false) ∧
    (let s := { risingTo 8 .logic with clk := { (risingTo 8 .logic).clk with hot := true } }
     inPhase s 8 .logic = true ∧ s.clk.hot = true) := by decide +kernel
def auto (d : Nat) : State := withDomain d (fun x => { x with target := [4, 4], depth := 0, idleSince := 1 }) live
theorem test_witness_PowerDown :
    (let s := withDomain 8 (fun x => { x with state := .leaving, target := [3, 3] }) live
     domSt s 8 = .leaving ∧ (domainOf s 8).goingDown = false ∧ workDone s 8 = true ∧ fwGap s = false ∧ saveAreaBusy s = false) ∧
    (let s := withDomain 3 (fun x => { x with state := .leaving, target := [3, 3] }) live
     domSt s 3 = .leaving ∧ (domainOf s 3).goingDown = false ∧ workDone s 3 = true) ∧
    (let s := withDomain 8 (fun x => { x with state := .leaving, goingDown := true }) live
     domSt s 8 = .leaving ∧ (domainOf s 8).goingDown = true) ∧
    (domOn (auto 8) 8 = true ∧ isAuto (auto 8) 8 = true ∧ transitionsRun (auto 8) = true ∧ lowState (auto 8) 8 < 2 ∧ (domainOf (auto 8) 8).idleSince ≠ 0 ∧
      (heldDomains (auto 8) (wantedDomains (auto 8))).contains 8 = false) ∧
    (Writable live 0 7 ∧ isPhys 0 = true) ∧
    (let s := starting live
     s.clk.started = true ∧ s.clk.stage < 6 ∧ 3 ≤ s.clk.stage ∧ s.wstMore.mounted = true ∧
     (List.range 13).all (fun d => (combined s d).code != 1 || domOn s d) = true) := by unfold Writable; decide +kernel

/-- Power held over one window; the thermal levels given. -/
def warm (levels : Nat) : State := { live with
  capo := { live.capo with powers := [(100, 90000, 100)] }
  capoMore := { live.capoMore with levels := levels } }
/-- A dip runs, or its hold-off, with rail 0 below its warning level. -/
def dipping (dip hold : Bool) : State := { live with
  capo := { live.capo with dip := dip, holdoff := hold, bClamp := dipClamp }
  capoMore := { live.capoMore with rails := modAt 0 (fun x => { x with below := true }) live.capoMore.rails } }
theorem test_witness_Power :
    ((warm 0).capo.powers.length ≠ 0 ∧ sumBy (fun x => x.2.2) (warm 0).capo.powers ≠ 0) ∧
    (let s := modCapoString 0 (fun x => { x with detectors := [2, 0, 0, 0, 0, 0, 0, 0] }) live
     (s.capo.strings.getD 0 {}).detectors.getD 0 0 = 2) ∧
    criticalLevel (warm 8) = true ∧ (criticalLevel (warm 4) = false ∧ bit (warm 4).capoMore.levels 2 = true) ∧
    (let s := { warm 0 with capo := { (warm 0).capo with thermalCap := some 150 } }
     criticalLevel s = false ∧ bit s.capoMore.levels 2 = false ∧ s.capo.thermalCap = some 150) ∧
    (bit (warm 2).capoMore.levels 1 = true ∧ (levelSensors 1).all (fun n => decide (sensorTemp (warm 2) n + 50 ≤ levelTemp (warm 2) 1)) = true) ∧
    (dipRail 0 = true ∧ dipRail 6 = false ∧ dipRail 12 = true ∧ dipRail 13 = false) ∧
    (let s := dipping true false
     (railOf s 0).below = true ∧ s.capo.dip = true ∧
     railsBelow (modRail 0 (fun x => { x with below := false, resetHit := false, now := 800, minMv := min x.minMv 700 }) s) = false) ∧
    (dipping false true).capo.holdoff = true ∧ live.capo.dip = false := by decide +kernel

def offClocks (aon rtc : Bool) : State := { live with clk := { live.clk with offAon := aon, offRtc := rtc } }
def engine (str : Bool) : EngineReset := { isString := str, index := 1 }
def resetting (str : Bool) : State := { live with rst := { live.rst with engine := some (engine str) } }
def held (b : Bool) : State := modPort 0 (fun x => { x with perst := b }) live
theorem test_witness_Clocks :
    (bit live.clk.running 0 = true ∧ bit live.clk.running 3 = true ∧ bit live.clk.running 9 = true) ∧
    ((offClocks true false).clk.offAon = true ∧ (offClocks true false).clk.aonFailed = false) ∧
    ((offClocks false true).clk.offRtc = true ∧ (offClocks false true).clk.rtcFailed = false) := by decide +kernel
theorem test_witness_Resets :
    (State.reset.pins.supplied = false ∧ live.pins.supplied = true ∧ fwGap live = false) ∧
    (let s := { live with rst := { live.rst with warmPorts := 1 } }
     Writable s 0 12 ∧ isPhys 0 = true ∧ bit 0x5A01 0 = true ∧ bf 0x5A01 15 8 = 0x5A ∧ bit s.rst.warmPorts (portOf 0) = true ∧ s.pins.supplied = true) ∧
    ((portSt (held false) 0).perst = false ∧ (portSt (held true) 0).perst = true ∧ funcExists live 8 = true) ∧
    (Writable live 0 12 ∧ bit 0x303 30 = false ∧ bit 0x303 9 = true ∧ engineRefused live (bit 0x303 8) (bf 0x303 7 0) = false) ∧
    (bit 0x304 30 = false ∧ bit 0x304 9 = true ∧ engineRefused live (bit 0x304 8) (bf 0x304 7 0) = true) ∧
    ((resetting false).rst.engine = some (engine false) ∧ (engine false).isString = false) ∧
    ((resetting true).rst.engine = some (engine true) ∧ (engine true).isString = true) := by unfold Writable; decide +kernel

def linked (g : Port → Port) : State := modPort 0 g live
/-- Vector 5 of function 0 has a pending message, and messages are enabled. -/
def signalled : State := modVector 0 5 (fun w => { w with pending := true }) (modFuncCfg 0 (fun x => { x with msixEn := true }) live)
def windowed : State := modFuncCfg 0 (fun x => { x with winEnable := true, winBase := 0x4000 }) live
def command (p : Phase) : State := given { ready 0x34 with phase := p } live
theorem test_witness_Links :
    ((portSt (held false) 0).perst = false ∧ domOn (held false) 5 = true) ∧
    ((portSt (linked (fun x => { x with aspmL1 := true })) 0).linkUp = true ∧ (portSt (linked (fun x => { x with aspmL1 := true })) 0).aspmL1 = true) ∧
    (portSt (linked (fun x => { x with l1 := true })) 0).l1 = true ∧
    (ringOwner live 0 = some 0 ∧ (ringOf live 0).state = .active ∧ (ringOf live 0).typ ≠ 1 ∧ ringOwner live 1 = some 0 ∧ (ringOf live 1).typ = 1) ∧
    ((cmdOf (command .ready) 7).isSome = true ∧ (cmdOf (command .running) 7).map (fun c => c.phase) = some .running) ∧
    ((funcCfg live 0).busMaster = true ∧ (funcCfg live 0).d3hot = false) ∧
    (5 < vectorCount 0 ∧ (vectorOf signalled 0 5).pending = true ∧ (funcCfg signalled 0).msixMask = false ∧ (funcCfg signalled 0).msixEn = true ∧
      canMaster signalled 0 = true) ∧
    (vectorOf live 0 5).pending = false ∧
    ((portSt (linked (fun x => { x with cfgReady := false })) (portOf 0)).cfgReady = false ∧ (portSt live (portOf 0)).cfgReady = true ∧
      funcExists live 1 = false ∧ funcExists live 0 = true) ∧
    ((portSt (linked (fun x => { x with ptmEnable := true })) 0).ptmEnable = true ∧ live.port.ports.length = 2) ∧
    (windowOpen windowed 0 = true ∧ inBar4 windowed 0 16 8 = true ∧ reads (vaRead windowed 0 0 (windowVa windowed 0 16) 8 0) (zeros 8) = true) ∧
    (inBar4 windowed 0 0x400000 8 = true ∧ isOk (vaRead windowed 0 0 (windowVa windowed 0 0x400000) 8 0) = false) ∧
    (inAperture (windowVa windowed 0 16) = false ∧ isOk (vaStage windowed 0 0 (windowVa windowed 0 16) (zeros 8) 0) = true) ∧
    windowOpen live 0 = false := by decide +kernel
theorem test_witness_Registers :
    Writable live 0 0 ∧ Writable live 0 9 ∧ Writable live 0 8 ∧ Writable live 0 7 ∧ isPhys 0 = true ∧ isPhys 1 = false ∧
    regServed State.reset 0 0 = false ∧ (0x10008 : Nat) = 0x10000 * (0 + 1) + 8 := by unfold Writable; decide +kernel

/-! ## Ill-formed commands: one for each check, and each is refused (WellFormed.lean) -/

theorem test_ill_formed_1 : ([
     .submissionDoorbell 16 0 8 0, .submissionDoorbell 0 0 3 0, .submissionDoorbell 0 0 8 (2 ^ 64), .headDoorbell 16 0 8 0,
     .headDoorbell 0 0 3 0, .headDoorbell 0 0 8 (2 ^ 64), .descriptorAccept 16384, .descriptorFetchError 16384,
     .recordWriteError 16384, .interruptCoalesceTimeout 16384, .eventLostRecord 16, .ringEnable 16, .ringDrain 16,
     .ringAbort 16, .ringDisable 16, .hifVersionWrite 16 0, .hifVersionWrite 0 256, .hifFuncRingsWrite 16 0 0,
     .hifFuncRingsWrite 0 8 0, .hifFuncRingsWrite 0 0 (2 ^ 64), .registerWrite 16 0 8 0, .registerWrite 0 0x1000000 8 0,
     .registerWrite 0 0 3 0, .registerWrite 0 0 8 (2 ^ 64), .sliceComplete ⟨48, false⟩ 0, .sliceWatchdogExpiry ⟨48, true⟩, .fretFault 48
     (.dma .nothing), .sramCorrectedWriteback (.fret 48) 0 [], .sramCorrectedWriteback (.string 4) 0 [], .sramCorrectedWriteback (.fret
     0) 0x400000 []] : List Instr).all (fun i => !wellFormed i) = true := by decide +kernel
theorem test_ill_formed_2 : ([
     .sramCorrectedWriteback (.string 0) 0x1000000 [], .stringBufferDoubleError 4 0, .stringBufferDoubleError 0 0x1000000,
     .windowRefetchDone 4 0, .windowRefetchDone 0 0x1000000, .weightStoreReadDone ⟨0x20000, 0⟩ .failed .other, .weightStoreReadDone ⟨0, 384⟩ .failed .other, .chunkDecodeDone 0
     0 4 0 [] false, .refreshLimitReached 0x20000, .relocationRaise 0x20000, .disturbOverrun 0x20000, .relocationCopyDone
     0x20000, .programDone 0x20000 false, .erasePendingErase 0x20000, .blockEraseDone 0x20000 false, .patrolDue 0x20000 0,
     .dieFailed 128, .startPatrol 16, .startCompaction 16, .startScrub 16, .zhDmaq ⟨48, 0, 0⟩ 0 0, .zhDmaq ⟨0, 2, 0⟩ 0 0,
     .zhDmaq ⟨0, 0, 8⟩ 0 0, .zhDmaq ⟨0, 0, 0⟩ 32 0, .zhDmaq ⟨0, 0, 0⟩ 0 32, .zhDmaw ⟨48, 0, 0⟩ 0 0, .zhDmaw ⟨0, 2, 0⟩ 0 0,
     .zhDmaw ⟨0, 0, 8⟩ 0 0, .zhDmaw ⟨0, 0, 0⟩ 32 0, .zhDmaw ⟨0, 0, 0⟩ 0 32, .zhInfo ⟨48, 0, 0⟩ 0 0] : List Instr).all (fun i => !wellFormed i) = true := by decide +kernel
theorem test_ill_formed_3 : ([
     .zhInfo ⟨0, 2, 0⟩ 0 0, .zhInfo ⟨0, 0, 8⟩ 0 0, .zhInfo ⟨0, 0, 0⟩ 32 0, .zhInfo ⟨0, 0, 0⟩ 0 32, .zhExit ⟨48, 0, 0⟩ 0,
     .zhExit ⟨0, 2, 0⟩ 0, .zhExit ⟨0, 0, 8⟩ 0, .zhExit ⟨0, 0, 0⟩ 32, .fretDmaDone 48 0, .bowPortSplitWrite 16 0,
     .bowPortSplitWrite 0 (2 ^ 64), .bowHotsetCtrlWrite 16 0, .bowHotsetCtrlWrite 0 (2 ^ 64), .bowHotPinWrite 16 0 0,
     .bowHotPinWrite 0 8 0, .bowHotPinWrite 0 0 (2 ^ 64), .pdmFault 16, .drnPlanKick 16 0, .drnPlanKick 0 (2 ^ 64),
     .drnPlanAck 16 0, .drnPlanAck 0 (2 ^ 64), .planHoldExpiry 8, .verifierScore 8 0, .preloadStart 8, .csiFrameStart 8 0 0,
     .csiFrameStart 0 16 0, .csiFrameStart 0 0 65536, .csiLinePacket 8 ⟨0, 0, [], false, false, false, false⟩, .csiFrameEnd
     8 0 0, .csiFrameEnd 0 16 0] : List Instr).all (fun i => !wellFormed i) = true := by decide +kernel
theorem test_ill_formed_4 : ([
     .csiFrameEnd 0 0 65536, .frameEndTimeout 32, .frameRingDoorbell 16 0 8 0, .frameRingDoorbell 0 0 3 0,
     .frameRingDoorbell 0 0 8 (2 ^ 64), .verdictRingDoorbell 16 0 8 0, .verdictRingDoorbell 0 0 3 0, .verdictRingDoorbell 0
     0 8 (2 ^ 64), .lockstepMismatch 2, .islandSramDoubleError 0x800000, .droopCrossing 4 0 0, .droopCrossing 0 8 0,
     .droopRecovery 4, .droopStuck 4 0, .droopStuck 0 8, .tempSample 63 0, .supplyWarningCrossing 18 0, .supplyRecovered 18
     0 0 0, .supplyResetCrossing 18 0, .powerGood 11, .powerGoodTimeout 11, .clockLock 13, .memoryPhaseDone 13 ⟨0, false,
     0⟩, .logicPhaseDone 13 false, .domainPowerDownStart 13, .powerDownDone 13, .autoIdleExpiry 13, .ddrTrainInvalidate 16,
     .debugRequest 16 0, .debugRequest 0 (2 ^ 64)] : List Instr).all (fun i => !wellFormed i) = true := by decide +kernel
theorem test_ill_formed_5 : ([
     .debugSubmit 16, .getCertificate 16 0, .challenge 16 0 [], .getMeasurements 16 0, .keyExchange 16 0 [], .endSession 16
     0, .endSession 0 65536, .confSet 16 0 ⟨0, 0, 0, 0, true⟩, .confSet 0 65536 ⟨0, 0, 0, 0, true⟩, .confExit 16 0,
     .confExit 0 65536, .fwuOpen 16 0, .fwuOpen 0 (2 ^ 64), .fwuAbort 16, .fwuRaiseSec 16, .installGranuleDurable 65536 0,
     .rstCtrlWarm 16 0, .rstCtrlWarm 0 (2 ^ 64), .perstNAssert 2, .perstNRelease 2, .hotReset 2, .functionLevelReset 16,
     .vfEnableChange 2 false 0, .vfEnableChange 0 false 65536, .rstEngineStart 16 0, .rstEngineStart 0 (2 ^ 64), .linkUp 2 0
     1, .linkUp 0 6 1, .linkUp 0 0 3, .linkRecovery 2] : List Instr).all (fun i => !wellFormed i) = true := by decide +kernel
theorem test_ill_formed_6 : ([
     .pcieCorrectableError 2, .unsupportedRequest 2, .poisonedWrite 16 0 0, .poisonedWrite 0 5 0, .pcieFatalError 2,
     .busMasterDisable 16, .d3hotEntry 16, .aspmL1Request 2, .msixUnmask 16 0, .msixUnmask 1 256, .ptmDialogue 2 none,
     .hifPtmStampRead 16, .bar4WindowRead 16 0 0, .bar4WindowWrite 16 0 [], .mmuInvalPage 16 0 0, .mmuInvalPage 0 8 0,
     .mmuInvalPage 0 0 (2 ^ 48), .mmuInvalAll 16 0, .mmuInvalAll 0 8, .mmuInvalDone 16, .atnKeyWrite 16 0 0, .atnKeyWrite 0
     8 0, .atnKeyWrite 0 0 (2 ^ 64), .gcoreInstruction 48 0 ⟨.custom 0, 0⟩, .gcoreInstruction 0 2 ⟨.custom 0, 0⟩, .ddrMigCtrlWrite 16 0,
     .ddrMigCtrlWrite 0 (2 ^ 64), .powerSwitchReady 13, .suspendDieReady 128, .csiDeskew 8] : List Instr).all (fun i => !wellFormed i) = true := by decide +kernel
theorem test_ill_formed_7 : ([
     .sotError 8 0, .sotError 0 4, .configurationRequest 16 .read, .linkL1Exit 2, .negotiateAlgorithms 16, .keyUpdate 16 0,
     .keyUpdate 0 65536, .heartbeat 16 0, .heartbeat 0 65536, .sessionLoss 16 0, .sessionLoss 0 65536] : List Instr).all (fun i => !wellFormed i) = true := by decide +kernel

/-! ## Values from the manual's worked examples and tables -/

/-- 06_streaming_and_fusion R222: zh.info x5, x1 with item 1 (the thread count) written out bit by bit, and a word with bit 25 set. -/
theorem test_custom_words :
    (let g := thread [0, 1]
     customOp program g 0b0000000_00000_00001_010_00101_0001011 (coding [0, 1]) = setReg tid 5 1 (coding [0, 1]) ∧
     customOp program g 0b0000001_00000_00001_010_00101_0001011 (coding [0, 1]) = programFails 7 (gcoreInternal 2 0) (coding [0, 1])) := by
  decide +kernel
/-- 02_memory_tiers, decoding a CODED4 chunk: the table's canonical codes read 0x1B 0x34 as 7, 8, 9, 6, A, 7. -/
theorem test_coded4_example :
    (readSyms (codeTable (codeLengths (zeros 16 ++ [0x77, 0x77, 0x45, 0x23, 0x32, 0x54, 0x77, 0x77]) 1)) 6 (bitsOf [0x1B, 0x34])).map packNibbles =
      some [0x87, 0x69, 0x7A] := by decide +kernel
/-- 11_listening_wake, coding four samples. -/
theorem test_codec_example : (encodeAll [100, 260, 300, -50] (0, 16)).1 = [1, 2, 1, 15] ∧
    decodeAll [1, 2, 1, 15] (0, 16) = [96, 241, 322, -53] ∧ (encodeAll [100, 260, 300, -50] (0, 16)).2.2 = 21 := by decide +kernel
/-- 07_attention_kv R275, cases 2 and 3. -/
theorem test_block_hash_vectors :
    absorbed 0xE1A3EC4DEF68BFF4 (List.replicate 32 0) = 0x4A63E02F93550DE4 ∧ blockHash 0 0xE1A3EC4DEF68BFF4 (List.replicate 32 0) = 0xAB1D9C238A38B1F1 ∧
    absorbed 0 (List.replicate 31 0 ++ [0x100000000]) = 0x0001000100000200 ∧
    blockHash 0 0 (List.replicate 31 0 ++ [0x100000000]) = 0x0C3E037084A1DCA4 := by decide +kernel
/-- 18_host_ports, a frame timestamp in host time: the offset of the second dialogue. -/
theorem test_ptm_offset : (90000010100250 : Int) - 40010000000 = (let s := { modPort 0 (fun x => { x with ptmEnable := true }) live with now := 40010000 * 384000 }
    let p := ptmSuccess 90000010100250 s (portSt s 0)
    p.ptmH - p.ptmD) := by decide +kernel
/-- 20_register_map, reaching one tenant's registers: BOW_QUOTA_3 of port B reads 0x71000 after reset, once served. -/
theorem test_quota_reset : regRead live 8 0x10230 = 0x71000 := by decide +kernel
/-- 15_functional_safety, the first event of the example: element 2 differs, so the reasons are 0x04 and the mask 0x04. -/
theorem test_disagreement :
    (let cfg := (List.range 8).foldl (fun b i => b.take (64 + 16 * i) ++ [BitVec.ofNat 8 (if i < 2 then 1 else if i < 4 then 2 else 0)] ++ b.drop (65 + 16 * i)) (zeros 192)
     let s := { safety .running with saf := { (safety .running).saf with config := cfg, refsA := [List.replicate 8 0], refsB := [List.replicate 8 0] } }
     let z := List.replicate 8 0
     let f : SafFrame := { ended := true, outputs := true, aFrame := some [0, 0, 0x40800000, 0, 0, 0, 0, 0], bFrame := some [0, 0, 0x40A00000, 0, 0, 0, 0, 0],
                           aGold := some z, bGold := some z }
     reasonsOf s f true = 4 ∧ disagreeMask s f = 4) := by decide +kernel
/-- 04_fret_arithmetic, converting an E4M3 block: 3.5 sets the scale 2^−5, and four elements convert as the table says. -/
theorem test_e4m3_example : (convertBlock false 0 ([0x46, 0xBB, 0x18, 0x07].map (actValue 3))).ints = [112, -44, 2, 0] ∧
    blockExp ([0x46, 0xBB, 0x18, 0x07].map (actValue 3)) = 1 := by decide +kernel
/-- 04_fret_arithmetic, one cell through two groups: 30.0 drains to BF16 as 0x41F0 (the last step of the worked example). -/
theorem test_bf16_drain : toBf16 (ofInt 30 0) = 0x41F0 := by decide +kernel

end Sys2Proof.Tests
end

/-! The wear that the end of an erase adds (03_weight_store R114). The end of an erase wears the block first and then
either retires it or frees it; the first step says what its wear becomes, and neither of the others changes any wear. -/

namespace Sys2Proof
open Sys2Proof.Machine Sys2Proof.Laws

variable {s : State} {b j : Nat} {good : Bool}

/-- The wear units that an erase adds to a block (R114). -/
def eraseUnits (x : Block) : Nat := if x.pslc then 1 else 10

/-- The state in which the erase of block `b` has ended and its wear is counted, before the block is retired or freed. -/
def eraseCounted (b : Nat) (s : State) : State :=
  modBlock b (fun x => { x with pe := x.pe + eraseUnits x }) { s with
    wst := { s.wst with erasing := s.wst.erasing.filter (fun x => x != b) }
    wstMore := { s.wstMore with suspended := s.wstMore.suspended.filter (fun d => d != dieOf b) } }

/-- Block `b` becomes FREE: the programs that waited are granted, and its die is levelled (R105, R115, R130). -/
def eraseFreed (b : Nat) (s : State) : State :=
  levelDie (dieOf b) (grantPrograms (modBlock b (fun x => { x with state := 0, lblock := 0, rdPages := 0, suspect := false }) s))

theorem exec_blockEraseDone_of_erasing (hb : b < 131072) (he : b ∈ s.wst.erasing) :
    exec (.blockEraseDone b good) s = .next (if good = false ∨ 30000 ≤ (blockOf (eraseCounted b s) b).pe
      then retireBlock b (eraseCounted b s) else eraseFreed b (eraseCounted b s)) := by
  have held : s.wst.erasing.contains b = true := List.contains_iff_mem.2 he
  change execBlockEraseDone b good s = _
  unfold execBlockEraseDone
  rw [unit_eq hb, ok_eq, held]
  simp only [Bool.not_true, Bool.false_eq_true, if_false, Bool.or_eq_true, Bool.not_eq_true', decide_eq_true_eq]
  rfl

theorem blockOf_eraseCounted_self : blockOf (eraseCounted b s) b =
    { blockOf s b with pe := (blockOf s b).pe + eraseUnits (blockOf s b) } :=
  blockOf_modBlock.trans (if_pos rfl)

theorem blockOf_eraseCounted_of_ne (h : j ≠ b) : blockOf (eraseCounted b s) j = blockOf s j :=
  blockOf_modBlock.trans (if_neg h)

theorem eraseFreed_pe : (blockOf (eraseFreed b s) j).pe = (blockOf s j).pe := by
  unfold eraseFreed
  rw [levelDie_pe, grantPrograms_pe, blockOf_modBlock]
  split
  · next h => rw [h]
  · rfl

/-- Settles O42: the erase's wear is counted on its block alone, retiring or freeing the block changes no wear, and a block whose wear has
reached 30,000 is never the one that is freed. -/
theorem erasesWearTheirBlock : Obligations.ErasesWearTheirBlock := by
  unfold Obligations.ErasesWearTheirBlock
  intro s b good hb he
  refine Answers.intro (exec_blockEraseDone_of_erasing hb he) ?_
  have worn : (blockOf (eraseCounted b s) b).pe = (blockOf s b).pe + eraseUnits (blockOf s b) := by
    rw [blockOf_eraseCounted_self]
  have others (j : Nat) (h : j ≠ b) : (blockOf (eraseCounted b s) j).pe = (blockOf s j).pe := by
    rw [blockOf_eraseCounted_of_ne h]
  have sameState : (blockOf (eraseCounted b s) b).state = (blockOf s b).state := by
    rw [blockOf_eraseCounted_self]
  by_cases retires : good = false ∨ 30000 ≤ (blockOf (eraseCounted b s) b).pe
  · rw [if_pos retires]
    have kept (j : Nat) : (blockOf (retireBlock b (eraseCounted b s)) j).pe = (blockOf (eraseCounted b s) j).pe :=
      retireBlock_block.1
    have retired := (retireBlock_block (s := eraseCounted b s) (k := b) (j := b)).2
    exact ⟨(kept b).trans worn, fun j h => (kept j).trans (others j h), fun _ notBad => retired (sameState ▸ notBad)⟩
  · rw [if_neg retires]
    have notRated : ¬ 30000 ≤ (blockOf (eraseFreed b (eraseCounted b s)) b).pe := by
      rw [eraseFreed_pe]
      exact fun rated => retires (Or.inr rated)
    exact ⟨eraseFreed_pe.trans worn, fun j h => eraseFreed_pe.trans (others j h), fun rated => absurd rated notRated⟩

end Sys2Proof

/-! A refused write of HIF_FUNC_RINGS_n (05_command_rings R214). A range that the write accepts holds only IDs of the
port and none of another function of the port, so one ring ID that breaks either rule refuses the write. -/

namespace Sys2Proof
open Sys2Proof.Machine

variable {s : State} {f p n k v r a m b l base count : Nat}

theorem not_mem_both_of_rangesApart (apart : rangesApart a m b l = true) (inFirst : a ≤ r ∧ r < a + m) :
    ¬ (b ≤ r ∧ r < b + l) := by
  simp only [rangesApart, Bool.or_eq_true, beq_iff_eq, decide_eq_true_eq] at apart
  omega

theorem rangeOk_iff : rangeOk s p n base count = true ↔
    (count ≤ 8192 ∧ 8192 * p ≤ base ∧ base + count ≤ 8192 * (p + 1)) ∧
      ∀ k < 8, k ≠ n → rangesApart base count (hifFunc s (8 * p + k)).base (hifFunc s (8 * p + k)).count = true := by
  simp only [rangeOk, Bool.and_eq_true, decide_eq_true_eq, List.all_eq_true, List.mem_range, Bool.or_eq_true, beq_iff_eq,
    Decidable.or_iff_not_imp_left, and_assoc, ne_eq]

theorem mem_port_of_rangeOk (accepted : rangeOk s p n base count = true) (inNew : base ≤ r ∧ r < base + count) :
    8192 * p ≤ r ∧ r < 8192 * (p + 1) := by
  obtain ⟨⟨-, fromPort, toPort⟩, -⟩ := rangeOk_iff.1 accepted
  exact ⟨Nat.le_trans fromPort inNew.1, Nat.lt_of_lt_of_le inNew.2 toPort⟩

theorem inRange_eq_false_of_rangeOk (accepted : rangeOk s p n base count = true) (inNew : base ≤ r ∧ r < base + count)
    (hk : k < 8) (other : k ≠ n) : inRange s (8 * p + k) r = false := by
  obtain ⟨-, apart⟩ := rangeOk_iff.1 accepted
  exact decide_eq_false (not_mem_both_of_rangesApart (apart k hk other) inNew)

theorem exec_hifFuncRingsWrite_of_refused (hf : f < 16)
    (refused : rangeOk s (portOf f) n (bf v 15 0) (bf v 31 16) = false ∨ anyRingOn s (8 * portOf f + n) = true) :
    exec (.hifFuncRingsWrite f n v) s = .next s := by
  change execHifFuncRingsWrite f n v s = _
  unfold execHifFuncRingsWrite
  rw [Laws.unit_eq hf, Laws.ok_eq]
  obtain broken | inUse := refused
  · simp only [broken, Bool.and_false, Bool.false_and, Bool.false_eq_true, if_false]
  · simp only [inUse, Bool.not_true, Bool.and_false, Bool.false_eq_true, if_false]

/-- Settles O14: an ID outside the port or of another function contradicts `rangeOk`, and a ring in use is the write's
other refusal. -/
theorem ringRangeWriteRefused : Obligations.RingRangeWriteRefused := by
  unfold Obligations.RingRangeWriteRefused
  rintro s f n v hf (⟨r, fromBase, toEnd, outside⟩ | ⟨k, r, hk, other, fromBase, toEnd, owned⟩ | inUse)
  · refine exec_hifFuncRingsWrite_of_refused hf (.inl (Bool.eq_false_iff.2 fun accepted => ?_))
    have inPort := mem_port_of_rangeOk accepted ⟨fromBase, toEnd⟩
    omega
  · refine exec_hifFuncRingsWrite_of_refused hf (.inl (Bool.eq_false_iff.2 fun accepted => ?_))
    have notOwned := inRange_eq_false_of_rangeOk accepted ⟨fromBase, toEnd⟩ hk other
    exact Bool.false_ne_true (notOwned.symm.trans owned)
  · exact exec_hifFuncRingsWrite_of_refused hf (.inr inUse)

end Sys2Proof

/-! What a step keeps: the tick on an empty queue, and any command at its front (O1 to O4, O6 to O8). -/

namespace Sys2Proof
open Sys2Proof.Machine Sys2Proof.Laws

variable {s t : State}

theorem kept_of_step (went : step s = .next t) : ∃ now l, Kept { s with now := now, pending := l } t := by
  cases queue : s.pending with
  | nil =>
    obtain rfl : idle s = t := by simpa only [step_nil queue, Host.Outcome.next.injEq] using went
    exact ⟨s.now + tickUnits s, s.pending, idle_kept⟩
  | cons c l => exact ⟨s.now, l, exec_keptR t (step_cons queue ▸ went)⟩

theorem invariant_of_queue {now : Nat} {l : List Instr} : Invariant s → Invariant { s with now := now, pending := l } :=
  fun ⟨wf, pins, shape⟩ => ⟨wf, pins, shaped_of_lengths (s := s) rfl shape⟩

theorem Laws.Kept.invariant (kept : Kept s t) : Invariant s → Invariant t :=
  fun ⟨wf, pins, shape⟩ => ⟨kept.mem wf, kept.pins pins, kept.shape shape⟩

/-- Settles O4: the tick and the commands each keep what `Kept` states, whose three parts are the invariant's. -/
theorem stepKeepsTheInvariant : Obligations.StepKeepsTheInvariant := fun _ _ before went =>
  have ⟨_, _, kept⟩ := kept_of_step went
  kept.invariant (invariant_of_queue before)

/-- Settles O8, from the same frame of a step. -/
theorem identityAndSecurityVersionNeverGoBack : Obligations.IdentityAndSecurityVersionNeverGoBack := fun _ _ went =>
  have ⟨_, _, kept⟩ := kept_of_step went
  ⟨kept.variant, kept.stepping, kept.serial, kept.secVer⟩

/-- Settles O6: a command keeps the queue, by the frame of every command. -/
theorem commandsLeaveTheQueue : Obligations.CommandsLeaveTheQueue := fun _ _ _ ran => (exec_keptR _ ran).pending

/-- Settles O7: a command keeps the time or sets it to 0, by the same frame. -/
theorem deviceTimeRunsUntilPowerOnReset : Obligations.DeviceTimeRunsUntilPowerOnReset := fun _ _ _ ran => (exec_keptR _ ran).time

/-- Settles O3: each list of the reset state has its fixed length. -/
theorem resetMeetsTheInvariant : Obligations.ResetMeetsTheInvariant := by
  refine ⟨⟨rfl, fun _ => ⟨rfl, rfl⟩, ?_⟩, rfl⟩
  constructor <;> rfl

/-- Settles O1: the step is defined so. -/
theorem stepRunsTheFrontCommand : Obligations.StepRunsTheFrontCommand := fun _ _ _ => rfl

theorem reprogramFirewalls_frame : reprogramFirewalls s =
    { s with pwr := { s.pwr with firewallShut := (reprogramFirewalls s).pwr.firewallShut } } := by
  unfold reprogramFirewalls
  split <;> rfl

theorem idle_frame : idle s = { s with
    now := s.now + tickUnits s
    mem := { s.mem with dev := (idle s).mem.dev }
    hif := { s.hif with cmds := (idle s).hif.cmds }
    bow := { s.bow with frets := (idle s).bow.frets }
    stream := { s.stream with
      storeWaitUs := (idle s).stream.storeWaitUs, storeSeen := (idle s).stream.storeSeen
      ddrWaitUs := (idle s).stream.ddrWaitUs, ddrSeen := (idle s).stream.ddrSeen }
    wst := { s.wst with running := (idle s).wst.running }
    wstMore := { s.wstMore with scrubAt := (idle s).wstMore.scrubAt }
    pwr := { s.pwr with firewallShut := (idle s).pwr.firewallShut } } := by
  have moved := idle_clockOnly (s := s)
  unfold idle
  generalize scrubTick (feedTick (tick s)) = u at moved ⊢
  rw [reprogramFirewalls_frame]
  unfold ClockOnly at moved
  rw [moved]
  rfl

/-- Settles O2: `idle` is that tick, and `idle_frame` says which fields it moves. -/
theorem emptyQueueLetsOneTickPass : Obligations.EmptyQueueLetsOneTickPass := fun s empty =>
  have now : (idle s).now = s.now + tickUnits s := congrArg State.now idle_frame
  ⟨idle s, step_nil empty, now, idle_firewall, by rw [now]; exact idle_frame, idle_quiet⟩

end Sys2Proof

/-! Every command that the part can be given answers (O5). A row either answers at once or checks the numbers of its units
first, and `wellFormed` is what these checks need. -/

namespace Sys2Proof
open Sys2Proof.Machine Sys2Proof.Laws

variable {s t : State}

/-- An outcome that goes on. -/
def GoesOn (r : Res) : Prop := ∃ t, r = .next t

theorem goesOn_ok : GoesOn (ok s) := ⟨s, rfl⟩
theorem goesOn_unit {n k : Nat} {r : Res} (h : n < k) (goes : GoesOn r) : GoesOn (unit n k r) := (unit_eq h).symm ▸ goes
theorem goesOn_regWrite {f b : Nat} {r : Res} (h : f < 16) (goes : GoesOn r) : GoesOn (regWrite f b s r) := by
  unfold regWrite
  refine goesOn_unit h ?_
  split
  · exact goes
  · exact goesOn_ok
theorem goesOn_ringOp {f : Nat} {held : Bool} {g : Nat → State → State} (h : f < 16) : GoesOn (ringOp f held g s) :=
  goesOn_unit h goesOn_ok

/-- Settles O5: the constructors are grouped by the range checks that their rows make, and each check is one of the command's
`wellFormed`. -/
theorem possibleCommandsAnswer : Obligations.PossibleCommandsAnswer := by
  unfold Obligations.PossibleCommandsAnswer
  intro i s h
  change GoesOn (exec i s)
  cases i with
  | matmul | attention | attentionBwd | recurrent | scan | conv | pool | regroup | gcoreRun | visionPass | streamModel
  | copy | fill | modelPlace | barrier | fenceSignal | powerHint | fusedGroup | nop | sessionOpen | sessionClose
  | sessionTruncate | prefixAttach | prefixPublish | prefixDrop | cameraBind | cameraUnbind | droneConfig | wakePlanSet
  | prerollReplay | installBegin | installData | installCommit | installCancel | modelRelease | fwWrite | fwActivate
  | domainSet | safetyConfigure | safetyRun | safetyStop | safetyClear | safetyGoldenSet | safetySelftest
  | submissionDoorbell | headDoorbell | descriptorAccept | descriptorFetchError | recordWriteError | fencedCommandStart
  | commandComplete | interruptCoalesceTimeout | preemptGraceExpiry | passStart | unitFetchIssue | unitPartArrive
  | lateBudgetExpiry | ddrCopyRereadDone | migrationEpochExpiry | migrationPromote | migrationCopyDone | migrationSlotReuse
  | refreshLimitReached | relocationRaise | disturbOverrun | relocationCopyDone | journalRecordDurable
  | journalCheckpointTrigger | bstateDeltaTimer | ageClockMinute | zhDmaq | zhDmaw | zhInfo | zhExit | gcoreBudgetExpiry
  | powerHintPrepare | powerHintPhaseStart | powerHintRestore | hotsetResize | hotSwitchDone | detectorFrame
  | detectorCandidateQuiet | detectorCandidateTimeout | detectorHoldoffExpiry | prerollBlockBoundary | droneConfigTakeEffect
  | vibSample | levelSample | cameraMotionSample | camSampleTimeout | vibFault | frameRingDoorbell | pipelineLineBoundary
  | memoryPassStart | inlineOutputsComplete | safetyJobEnd | frameDeadlineExpiry | absentFrameTimeout | verdictRingDoorbell
  | keasterParityError | partitionFormed | capoTick | pgmBudgetTick | droopSelfCheck | thermalCapStep | thermalLevelExit
  | dipHoldoffExpiry | stormCapEnd | clockMonitorWindow | aonRtcMonitorWindow | pllLossOfLock | debugCheckDone
  | debugResponseTimeout | jtagExtest | slotEraseDone | handoverBootCheckDone | handoverFirmwareReady | handoverTakeover
  | handoverTimeout | installGranuleDurable | suppliesValid | resetNAssert | pegWatchdogExpiry | engineResetDone
  | startFretTestDone | completionError | ddr5PatrolScrubDue | avsCurrentCheck =>
    exact goesOn_ok
  | eventLostRecord | hifVersionWrite | hifFuncRingsWrite | registerWrite | sliceComplete | sliceWatchdogExpiry | fretFault
  | stringBufferDoubleError | windowRefetchDone | weightStoreReadDone | chunkDecodeDone | programDone | erasePendingErase
  | blockEraseDone | patrolDue | dieFailed | fretDmaDone | pdmFault | planHoldExpiry | verifierScore | preloadStart
  | csiFrameStart | csiLinePacket | csiFrameEnd | frameEndTimeout | lockstepMismatch | islandSramDoubleError | droopRecovery
  | tempSample | supplyWarningCrossing | supplyRecovered | supplyResetCrossing | powerGood | powerGoodTimeout | clockLock
  | memoryPhaseDone | logicPhaseDone | domainPowerDownStart | powerDownDone | autoIdleExpiry | getCertificate | challenge
  | getMeasurements | keyExchange | endSession | confSet | confExit | perstNAssert | perstNRelease | hotReset
  | functionLevelReset | vfEnableChange | linkUp | linkRecovery | pcieCorrectableError | unsupportedRequest | poisonedWrite
  | pcieFatalError | busMasterDisable | d3hotEntry | aspmL1Request | ptmDialogue | hifPtmStampRead | bar4WindowRead
  | bar4WindowWrite | mmuInvalDone | powerSwitchReady | suspendDieReady | csiDeskew | configurationRequest | linkL1Exit
  | negotiateAlgorithms | keyUpdate | heartbeat | sessionLoss =>
    simp only [possible, wellFormed, Bool.and_eq_true, decide_eq_true_eq] at h
    exact goesOn_unit (by omega) goesOn_ok
  | droopCrossing | droopStuck | gcoreInstruction | sotError =>
    simp only [possible, wellFormed, Bool.and_eq_true, decide_eq_true_eq] at h
    exact goesOn_unit (by omega) (goesOn_unit (by omega) goesOn_ok)
  | startPatrol | startCompaction | startScrub | bowPortSplitWrite | bowHotsetCtrlWrite | drnPlanKick | drnPlanAck
  | ddrTrainInvalidate | debugRequest | debugSubmit | fwuOpen | fwuAbort | fwuRaiseSec | rstCtrlWarm | rstEngineStart
  | mmuInvalPage | mmuInvalAll | ddrMigCtrlWrite =>
    simp only [possible, wellFormed, Bool.and_eq_true, decide_eq_true_eq] at h
    exact goesOn_regWrite (by omega) goesOn_ok
  | bowHotPinWrite | atnKeyWrite =>
    simp only [possible, wellFormed, Bool.and_eq_true, decide_eq_true_eq] at h
    exact goesOn_regWrite (by omega) (goesOn_unit (by omega) goesOn_ok)
  | ringEnable | ringDrain | ringAbort | ringDisable =>
    simp only [possible, wellFormed, Bool.and_eq_true, decide_eq_true_eq] at h
    exact goesOn_ringOp (by omega)
  | msixUnmask f v =>
    simp only [possible, wellFormed, Bool.and_eq_true, decide_eq_true_eq, and_true] at h
    exact goesOn_unit h.1 (goesOn_unit (k := vectorCount f) h.2 goesOn_ok)
  | sramCorrectedWriteback u =>
    cases u <;> simp only [possible, wellFormed, EccUnit.ok, Bool.and_eq_true, decide_eq_true_eq] at h <;>
      exact goesOn_unit (by omega) (goesOn_unit (by omega) goesOn_ok)

end Sys2Proof

/-! Reading back what was written: memories and the ring table (O9, O10). -/

namespace Sys2Proof
open Sys2Proof.Machine Sys2Proof.Laws

variable {s t : State}

/-- Settles O9, by the laws of the cells at one address and at any other. -/
theorem writtenBytesReadBack : Obligations.WrittenBytesReadBack := fun _ _ _ _ wf =>
  ⟨readBytes_write wf, fun _ _ => readByte_write_out wf, writeBytes_wf wf⟩

theorem ringOf_modRing {r q : Nat} {g : Ring → Ring} (wf : smWf {} s.hif.rings = true) :
    ringOf (modRing r g s) q = if q = r then g (ringOf s r) else ringOf s q := smGet_set wf q

/-- Settles O10: one lemma says what every ring reads after the change. -/
theorem ringTableReadsBack : Obligations.RingTableReadsBack := fun _ _ _ wf =>
  ⟨(ringOf_modRing wf).trans (if_pos rfl), fun _ other => (ringOf_modRing wf).trans (if_neg other), smWf_set wf⟩

end Sys2Proof

/-! The command rings: doorbells, ring operations, negotiation and acceptance (05_command_rings R177 to R214; O11 to O16). -/

namespace Sys2Proof
open Sys2Proof.Machine Sys2Proof.Laws

variable {s t : State}

theorem doorbell_of_inUse {submission : Bool} {f off w v r i : Nat} (here : doorbellOf s f off w v = some (r, i))
    (used : (ringOf s r).state ≠ .disabled) (typ : decide ((ringOf s r).typ = 0) = submission)
    (below : i < ringSize (ringOf s r)) : doorbell submission f off w v s =
      modRing r (fun g => { g with hostIndex := i }) (modRing r (fun g => { g with doorbell := i }) s) := by
  simp only [doorbell, here, if_neg used, if_pos typ, ringDoorbell, if_neg (Nat.not_le.2 below), noteDoorbell]

/-- Settles O11. Rings in use go by `doorbell_of_inUse`; the rings of binds and of the verdict stream have rows of their own. -/
theorem doorbellsMoveTheHostIndex : Obligations.DoorbellsMoveTheHostIndex := by
  refine ⟨?_, ?_, ?_, ?_⟩
  · intro s f off v r i here used typ below
    exact congrArg Host.Outcome.next (doorbell_of_inUse here used (decide_eq_true typ) below)
  · intro s f off v r i here used typ below
    exact congrArg Host.Outcome.next (doorbell_of_inUse here used (decide_eq_false typ) below)
  · intro s f off v r i b here holds below
    change execFrameRingDoorbell f off 8 v s = _
    simp only [execFrameRingDoorbell, here, holds, if_neg (Nat.not_le.2 below), noteDoorbell, ok_eq]
  · intro s f off v i here configured host below
    subst host
    change execVerdictRingDoorbell s.saf.safetyFunc off 8 v s = _
    simp [execVerdictRingDoorbell, here, configured, if_neg (Nat.not_le.2 below), noteDoorbell]

theorem enableRing_of_ready {f r : Nat} (ready : (ringOf s r).state = .stopped ∨ ((ringOf s r).state = .disabled ∧
      r ∉ heldRings s ∧ configOk s f r = true ∧ ((ringOf s r).typ = 0 → classOk s f (ringOf s r).cls = true) ∧
      activeVersion s f ≠ 0)) : enableRing f r s = activate r s := by
  unfold enableRing
  obtain stopped | ⟨disabled, free, config, permitted, version⟩ := ready
  · simp only [stopped]
  · have classFits : ((ringOf s r).typ == 0 && !classOk s f (ringOf s r).cls) = false := by
      by_cases h : (ringOf s r).typ = 0 <;> simp [h, permitted]
    simp [disabled, free, config, classFits, version]

theorem enableRing_of_inUse {f r : Nat} (notDisabled : (ringOf s r).state ≠ .disabled) (notStopped : (ringOf s r).state ≠ .stopped) :
    enableRing f r s = setErr r 6 s := by
  cases state : (ringOf s r).state with
  | disabled => exact absurd state notDisabled
  | stopped => exact absurd state notStopped
  | active | draining | aborting | error => simp only [enableRing, state]

theorem enableRing_of_noVersion {f r : Nat} (disabled : (ringOf s r).state = .disabled) (free : r ∉ heldRings s) (config : configOk s f r = true)
    (permitted : (ringOf s r).typ = 0 → classOk s f (ringOf s r).cls = true) (none : activeVersion s f = 0) :
    enableRing f r s = setErr r 4 s := by
  have classFits : ((ringOf s r).typ == 0 && !classOk s f (ringOf s r).cls) = false := by
    by_cases h : (ringOf s r).typ = 0 <;> simp [h, permitted]
  simp [enableRing, disabled, free, config, classFits, none]

theorem abortRing_of_active {r : Nat} (going : (ringOf s r).state = .active ∨ (ringOf s r).state = .draining) :
    abortRing r s = if (ringOf s r).typ ≠ 0 then leaveActive r .aborting s else
      settleDispatch (((s.hif.cmds.filter (fun c => c.ring == r && c.alive && !c.begun)).map (fun c => c.id)).foldl
        (fun t id => leavePasses id (failCmd id { status := stAborted, result := 0 } t)) (leaveActive r .aborting s)) :=
  if_pos going

theorem disableRing_of_idle {r : Nat} (still : (ringOf s r).state = .stopped ∨ (ringOf s r).state = .error)
    (none : (ringOf s r).outstanding = 0) (unbound : (ringOf s r).typ = 1 → boundRings s r = []) :
    disableRing r s = modRing r (fun g => { g with state := .disabled }) s :=
  if_pos ⟨still, none, Decidable.or_iff_not_imp_left.2 fun h => List.isEmpty_iff.2 (unbound (Decidable.not_not.1 h))⟩

theorem disableRing_of_busy {r : Nat} (busy : ((ringOf s r).state ≠ .stopped ∧ (ringOf s r).state ≠ .error) ∨ (ringOf s r).outstanding ≠ 0 ∨
        ((ringOf s r).typ = 1 ∧ boundRings s r ≠ [])) : disableRing r s = setErr r 6 s := by
  refine if_neg ?_
  rintro ⟨still, none, unbound⟩
  obtain ⟨notStopped, notError⟩ | waiting | ⟨typ, bound⟩ := busy
  · exact still.elim notStopped notError
  · exact waiting none
  · exact unbound.elim (fun h => h typ) fun h => bound (List.isEmpty_iff.1 h)

/-- Settles O12: each operation in the state that the table lists for it. -/
theorem ringOperationsMoveTheRing : Obligations.RingOperationsMoveTheRing := by
  refine ⟨?_, ?_, ?_, ?_, ?_⟩
  · intro s f r selected ready
    exact (ringOp_eq selected (.inl rfl)).trans (congrArg _ (enableRing_of_ready ready))
  · intro s f r selected free active
    exact (ringOp_eq selected (.inr free)).trans (congrArg _ (if_pos active))
  · intro s f r selected free going typ
    exact (ringOp_eq selected (.inr free)).trans (congrArg _ ((abortRing_of_active going).trans (if_pos typ)))
  · intro s f r selected free going typ
    exact (ringOp_eq selected (.inr free)).trans (congrArg _ ((abortRing_of_active going).trans (if_neg (not_not_intro typ))))
  · intro s f r selected free still none unbound
    exact (ringOp_eq selected (.inr free)).trans (congrArg _ (disableRing_of_idle still none unbound))

/-- Settles O13: each operation falls through its table to BAD_OP. -/
theorem ringOperationsOutOfStateSetBadOp : Obligations.RingOperationsOutOfStateSetBadOp := by
  intro s f r selected free
  refine ⟨fun notDisabled notStopped => ?_, fun notActive => ?_, fun notActive notDraining => ?_, fun busy => ?_⟩
  · exact (ringOp_eq selected (.inl rfl)).trans (congrArg _ (enableRing_of_inUse notDisabled notStopped))
  · exact (ringOp_eq selected (.inr free)).trans (congrArg _ (if_neg notActive))
  · exact (ringOp_eq selected (.inr free)).trans (congrArg _ (if_neg (not_or.2 ⟨notActive, notDraining⟩)))
  · exact (ringOp_eq selected (.inr free)).trans (congrArg _ (disableRing_of_busy busy))

/-- Settles O15. An ENABLE without a version in use goes by `enableRing_of_noVersion`. -/
theorem negotiationAndRingRanges : Obligations.NegotiationAndRingRanges := by
  refine ⟨?_, ?_, ?_, ?_⟩
  · intro s f v hf there ready off
    change execHifVersionWrite f v s = _
    simp [execHifVersionWrite, unit_eq hf, there, ready, off]
  · intro s f n v hf served phys hn fits off
    change execHifFuncRingsWrite f n v s = _
    simp [execHifFuncRingsWrite, unit_eq hf, served, phys, hn, fits, off]
  · intro s f served
    unfold activeVersion
    rw [if_pos served]
    split <;> omega
  · intro s f r selected disabled free config permitted none
    exact (ringOp_eq selected (.inl rfl)).trans (congrArg _ (enableRing_of_noVersion disabled free config permitted none))

/-- Settles O16: both clauses are `acceptCmd` on the descriptor fetched, by the outcome of its validation. -/
theorem descriptorsAreAcceptedInOrder : Obligations.DescriptorsAreAcceptedInOrder := by
  have accepts {s : State} {r f : Nat} {d : Bytes} (owner : ringOwner s r = some f) (may : mayAccept s r f = true)
      (fetched : fetchDescriptor s r f = some d) : exec (.descriptorAccept r) s = .next (acceptCmd r f d s) := by
    change execDescriptorAccept r s = _
    simp [execDescriptorAccept, owner, may, fetched]
  refine ⟨?_, ?_⟩
  · intro s r f d c owner may fetched valid
    rw [accepts owner may fetched]
    simp only [acceptCmd, valid]
  · intro s r f d e owner may fetched invalid
    rw [accepts owner may fetched]
    simp only [acceptCmd, invalid]

end Sys2Proof

/-! Commands that the rings carry, and how they fail and complete (O17 to O20). A row of a ready command answers what its
operation does on it (`next_runReady`), and a register's row what its write does (`next_regWrite`). -/

namespace Sys2Proof
open Sys2Proof.Machine Sys2Proof.Laws

variable {s t : State}

theorem next_runReady {id op : Nat} {c : Cmd} {f : Cmd → State → State} (ready : ReadyAs s id op c) (runs : f c s = t) :
    ok (runReady id op f s) = .next t := congrArg Host.Outcome.next ((runReady_eq ready).trans runs)

theorem next_regWrite {u : State} {f b : Nat} (writable : Writable s f b) (h : u = t) : regWrite f b s (ok u) = .next t :=
  (regWrite_eq writable).trans (congrArg Host.Outcome.next h)

theorem ringError_of_going {r err : Nat} (going : (ringOf s r).state = .active ∨ (ringOf s r).state = .draining)
    (typ : (ringOf s r).typ ≠ 1) : ringError r err s =
      postBoth 0x0060 err 0 r (modRing r (fun g => { g with state := .error, err := err }) s) := by
  unfold ringError
  rw [if_neg fun ⟨notActive, notDraining⟩ => going.elim notActive notDraining, if_neg typ]

/-- Settles O17: a failed fetch and a failed write each go by the ring's kind and by who holds it. -/
theorem ringFailuresInterruptsAndLostRecords : Obligations.RingFailuresInterruptsAndLostRecords := by
  refine ⟨?_, ?_, ?_, ?_, ?_, ?_⟩
  · intro s r f typ owner going
    change execDescriptorFetchError r s = _
    rw [execDescriptorFetchError, if_pos typ, requestFailed, owner]
    simp only [typ, if_true, ok_eq]
    exact congrArg _ (ringError_of_going (s := logAer (portOf f) 2 s) going (typ ▸ Nat.zero_ne_one))
  · intro s r f owner unbound other
    have notVerdict : (safConfigured s && cfRing s.saf.config == r) = false := by
      rcases other with off | other <;> simp [*]
    change execRecordWriteError r s = _
    simp [execRecordWriteError, owner, unbound, notVerdict]
  · intro s r f b owner bound
    change execRecordWriteError r s = _
    simp only [execRecordWriteError, owner, bound, ok_eq]
  · intro s r f owner unbound configured verdict
    change execRecordWriteError r s = _
    simp [execRecordWriteError, owner, unbound, configured, verdict, setErr]
  · intro s r f owner enabled counted
    change execInterruptCoalesceTimeout r s = _
    simp [execInterruptCoalesceTimeout, owner, enabled, counted]
  · intro s f r hf ring dropped space
    change execEventLostRecord f s = _
    simp [execEventLostRecord, unit_eq hf, flushLost, ring, Nat.ne_of_gt dropped, Nat.ne_of_gt space]

/-- Settles O18: each row of a ready command by `next_runReady`, and the start of a held one by its condition. -/
theorem controlCommandsFinish : Obligations.ControlCommandsFinish := by
  refine ⟨?_, ?_, ?_, ?_, ?_⟩
  · exact fun s id c ready => next_runReady ready rfl
  · exact fun s id c ready => next_runReady ready rfl
  · exact fun s id c ready => next_runReady ready (by simp only [runBarrier, List.all_eq_true, Option.isNone_iff_eq_none])
  · exact fun s id c l ready translates => next_runReady ready (by simp only [runFenceSignal, translates])
  · intro s id c here held done
    change execFencedCommandStart id s = _
    have allDone : (c.waits.all fun w => (cmdOf s w).isNone) = true := by simpa using done
    simp only [execFencedCommandStart, here, held, allDone, and_self, if_true, ok_eq]

/-- Settles O19: with the source read and the destination staged, the row only stages. -/
theorem copyAndFillStageTheirBytes : Obligations.CopyAndFillStageTheirBytes := by
  refine ⟨?_, ?_⟩
  · exact fun s id c bs l ready apart reads stages => next_runReady ready (by simp [runCopy, apart, reads, stages])
  · exact fun s id c l ready stages => next_runReady ready (by simp only [runFill, stages])

/-- Settles O20: a strike is decided by the phase of the command it meets. -/
theorem completionCommitsThenRetires : Obligations.CompletionCommitsThenRetires := by
  refine ⟨?_, ?_, ?_, ?_, ?_, ?_⟩
  · intro s t id c here done may commits
    change execCommandComplete id .none s = _
    simp [execCommandComplete, here, done, may, finishDone, commits]
  · intro s id st r c b here failed
    change execCommandComplete id b s = _
    simp only [execCommandComplete, here, failed, finishFailed, ok_eq]
  · intro s id c here done may
    change execCommandComplete id .commit s = _
    simp [execCommandComplete, here, done, may, finishDone, struckCommit, finishFailed, drawNat, drawn]
  · intro s id loc c here alive started fresh
    change execCommandComplete id (.ddr loc) s = _
    cases phase : c.phase with
    | held => exact absurd phase started
    | failed st r => simp [Cmd.alive, phase] at alive
    | ready | running | done => simp [execCommandComplete, here, phase, struckBy, fresh, finishFailed, satAdd, stDdrUnc]
  · intro s id c here alive started fresh
    change execCommandComplete id .internal s = _
    cases phase : c.phase with
    | held => exact absurd phase started
    | failed st r => simp [Cmd.alive, phase] at alive
    | ready | running | done => simp [execCommandComplete, here, phase, struckBy, fresh, finishFailed, stInternal]
  · intro s id c here begun
    change execCommandComplete id .internal s = _
    cases phase : c.phase with
    | held | ready | failed => simp [Cmd.begun, phase] at begun
    | running | done => simp [execCommandComplete, here, phase, struckBy, begun, struckCommit, finishFailed]

end Sys2Proof

/-! Operators, passes and reads of the store (O21 to O25). -/

namespace Sys2Proof
open Sys2Proof.Machine Sys2Proof.Laws

variable {s t : State}

section Operators

variable {f : State → Cmd → Stage → Option Bytes → Except Fail OpOut} {row : Nat → Instr} {op : Nat} {c : Cmd}

/-- The state in which an operator has started, once its results and the places of its writes are had (10_scheduling_sharing). -/
def operatorStart (c : Cmd) (o : OpOut) (l : List Seg) (s : State) : State :=
  dispatch (settleStream (startWork c (l ++ o.cache) 0 o.work
    (modCmd c.id (fun c => { c with aux := o.kv, barriers := o.barriers }) (drawn o.draws (bindStage c (stageOf c) s)))))

theorem bowOnly_operatorStart {o : OpOut} {l : List Seg} : BowOnly s (operatorStart c o l s) :=
  ((bowOnly_bindStage.trans bowOnly_drawn).trans bowOnly_modCmd).trans (bowOnly_startWork.trans bowOnly_settleDispatch)

theorem runStage_of_ok {o : OpOut} {l : List Seg} (computes : f s c (stageOf c) none = .ok o)
    (stages : stageOut s c (stageOf c) o = .ok l) : runStage f c s = operatorStart c o l s := by
  simp only [runStage, computes, stages, operatorStart]

theorem runStage_of_error {e : Fail} (fails : f s c (stageOf c) none = .error e) : runStage f c s = failCmd c.id e s := by
  simp only [runStage, fails]

theorem operatorRuns_of_row (meaning : ∀ id s, exec (row id) s = ok (runReady id op (runStage f) s)) :
    OperatorRuns row op f := by
  refine ⟨fun s id c o l ready computes stages => ?_, fun s id c e ready fails => ?_⟩
  · exact ⟨_, (meaning id s).trans (next_runReady ready (runStage_of_ok computes stages)), bowOnly_operatorStart, rfl⟩
  · exact (meaning id s).trans (next_runReady ready (runStage_of_error fails))

theorem runOrdered_of_waiting {run : Cmd → State → State} (waits : mustWait s (withLens s c) = true) :
    runOrdered run c s = modCmd c.id (fun _ => withLens s c) s := if_pos waits

theorem runOrdered_of_free {run : Cmd → State → State} (free : mustWait s (withLens s c) = false) :
    runOrdered run c s = run (withLens s c) (modCmd c.id (fun _ => withLens s c) s) := if_neg (Bool.eq_false_iff.1 free)

theorem orderedRuns_of_row (meaning : ∀ id s, exec (row id) s = ok (runReady id op (runOrdered (runStage f)) s)) :
    OrderedRuns row op f := by
  intro s id c ready
  refine ⟨fun waits => ?_, fun free => ⟨fun o l computes stages => ?_, fun e fails => ?_⟩⟩
  · exact (meaning id s).trans (next_runReady ready (runOrdered_of_waiting waits))
  · exact ⟨_, (meaning id s).trans (next_runReady ready ((runOrdered_of_free free).trans (runStage_of_ok computes stages))),
      BowOnly.trans bowOnly_modCmd bowOnly_operatorStart, rfl⟩
  · exact (meaning id s).trans (next_runReady ready ((runOrdered_of_free free).trans (runStage_of_error fails)))

end Operators

/-- Settles O21: the eight rows differ in the stage that they run, and in whether the lengths of their sessions are read first. -/
theorem operatorsStartTheirWork : Obligations.OperatorsStartTheirWork :=
  ⟨operatorRuns_of_row fun _ _ => rfl, orderedRuns_of_row fun _ _ => rfl, operatorRuns_of_row fun _ _ => rfl,
    operatorRuns_of_row fun _ _ => rfl, operatorRuns_of_row fun _ _ => rfl, operatorRuns_of_row fun _ _ => rfl,
    operatorRuns_of_row fun _ _ => rfl, operatorRuns_of_row fun _ _ => rfl⟩

/-- Settles O22: the order of the sessions comes first (`runOrdered`), then what the stages or the image give. -/
theorem groupsAndProgramsStart : Obligations.GroupsAndProgramsStart := by
  refine ⟨?_, ?_⟩
  · intro s id c ready
    refine ⟨fun waits => next_runReady ready (runOrdered_of_waiting waits), fun u a free runs => ?_⟩
    exact next_runReady ready ((runOrdered_of_free free).trans (by simp only [runFusedGroup, runs]))
  · intro s id c code ready fits reads
    exact next_runReady ready (by simp only [runGcoreRun, if_neg (Nat.not_lt.2 fits), reads])

/-- Settles O23. -/
theorem streamPassesRun : Obligations.StreamPassesRun := by
  refine ⟨?_, ?_, ?_, ?_, ?_⟩
  · intro s id c m ready installed layers
    exact next_runReady ready (by simp only [runStreamModel, installed, if_neg (Nat.not_le.2 layers)])
  · intro s p l first
    constructor
    · intro few
      change execPassStart p.id s = _
      simp only [execPassStart, first, few, and_self, if_true, ok_eq]
    · intro q other
      change execPassStart q s = _
      simp only [execPassStart, first, other.symm, false_and, if_false, ok_eq]
  · intro s p i x u pass next unit may accepted clean
    change execUnitFetchIssue p s = _
    simp [execUnitFetchIssue, pass, next, unit, may, accepted, clean]
  · exact fun s p i b => rfl
  · exact fun s p i waits => congrArg Host.Outcome.next (if_pos waits)

theorem chooseReplica_of_stream {b : Nat} {u : ReadFor} {x : Super} {p : Nat × Nat} {l : List (Nat × Nat)}
    (super : superOf s b = some x) (stream : streamRead u = true) (turn : replicasInTurn s x b = p :: l) :
    chooseReplica b u s = (takeTurn x p.1 s, p.2, l.map Prod.snd) := by
  simp [chooseReplica, super, stream, turn]

theorem rerunUsers_of_unused {handle version : Nat} {uses : Nat × Nat → Bool}
    (unused : (runningSlices s).all (fun r => match cmdOf s r.cmd with
      | none => true
      | some c => !(c.bound.usesWeights && c.bound.places.any (fun p => p.handle == handle && p.version == version) &&
          c.bound.tensors.any uses)) = true) : rerunUsers handle version uses s = s := by
  unfold rerunUsers
  dsimp only
  rw [List.filter_eq_nil_iff.2]
  · rfl
  · intro r hr
    have spared := List.all_eq_true.1 unused r hr
    cases user : cmdOf s r.cmd with
    | none => exact Bool.false_ne_true
    | some c =>
      rw [user] at spared
      exact Bool.eq_false_iff.1 (Bool.not_eq_eq_eq_not.1 spared)

/-- Settles O24: a read goes by its outcome, a chunk by its decoding, a reread copy by what it holds. -/
theorem storeReadsAndDecodedChunks : Obligations.StoreReadsAndDecodedChunks := by
  refine ⟨?_, ?_, ?_, ?_, ?_, ?_, ?_, ?_⟩
  · intro s b g u o hb
    refine ⟨fun l outcome => ?_, fun outcome => ?_, fun outcome => ?_, fun outcome => ?_⟩ <;>
    · refine (unit_eq hb).trans (congrArg Host.Outcome.next ?_)
      simp only [outcome]
      rfl
  · exact fun s b u x p l super stream turn => chooseReplica_of_stream super stream turn
  · intro s b g n l inService
    simp only [trueOutcome, inService, Bool.false_eq_true, if_false, reduceCtorEq, false_and]
  · intro s b g l lost
    simp [trueOutcome, lost]
  · intro s p u j base chunk o r hj decodes fits
    change execChunkDecodeDone p u j base chunk r s = _
    simp only [execChunkDecodeDone, unit_eq hj, decodes, if_pos fits, ok_eq]
  · intro s p u j base chunk hj broken
    constructor
    · change execChunkDecodeDone p u j base chunk false s = _
      simp only [execChunkDecodeDone, unit_eq hj, broken, Bool.false_eq_true, if_false, ok_eq]
    · change execChunkDecodeDone p u j base chunk true s = _
      simp only [execChunkDecodeDone, unit_eq hj, broken, if_true, ok_eq, stFlashUnc]
  · intro s a d
    refine ⟨fun w held => ?_, fun x m held slot image => ?_, fun held slot => ?_⟩
    · change execDdrCopyRereadDone a d s = _
      simp only [execDdrCopyRereadDone, held, ok_eq]
      rfl
    · change execDdrCopyRereadDone a d s = _
      simp only [execDdrCopyRereadDone, held, slot, image, ok_eq]
      rfl
    · change execDdrCopyRereadDone a d s = _
      simp only [execDdrCopyRereadDone, held, slot, ok_eq]
  · intro s a d w held unused
    change execDdrCopyRereadDone a d s = _
    simp only [execDdrCopyRereadDone, held, ok_eq]
    exact congrArg (fun t => Host.Outcome.next (settleDispatch t)) (rerunUsers_of_unused unused)

/-- The table of halves, without the regions whose half is 0 (02_memory_tiers R77). -/
def halved (m : SMap Nat) : SMap Nat := (m.map (fun p => (p.1, p.2 / 2))).filter (fun p => decide (p.2 ≠ 0))

theorem smGet_halved {m : SMap Nat} {lo : Nat} (rising : smRising lo m = true) (k : Nat) :
    smGet 0 (halved m) k = smGet 0 m k / 2 := by
  induction m generalizing lo with
  | nil => exact (Nat.zero_div 2).symm
  | cons p m ih =>
    obtain ⟨j, v⟩ := p
    simp only [smRising, Bool.and_eq_true, decide_eq_true_eq] at rising
    have tail := ih rising.2
    by_cases zero : v / 2 = 0
    · have dropped : halved ((j, v) :: m) = halved m := by simp [halved, zero]
      rw [dropped, tail, smGet]
      split
      · next here => rw [smGet_below rising.2 (by omega), zero]
      · rfl
    · have listed : halved ((j, v) :: m) = (j, v / 2) :: halved m := by simp [halved, zero]
      rw [listed, smGet, smGet, tail]
      split <;> rfl

/-- Settles O25: the new table is `halved`, whose entries read half of the old ones. -/
theorem epochHalvesEveryCounter : Obligations.EpochHalvesEveryCounter := by
  intro s wf
  have rising : smRising 0 s.stream.mig.counters = true := by
    simp only [smWf, Bool.and_eq_true] at wf
    exact wf.1
  exact ⟨_, rfl, smGet_halved rising, rfl⟩

end Sys2Proof

/-! Migration, placement, slices, buffer errors and the split of the frets (O26 to O31). -/

namespace Sys2Proof
open Sys2Proof.Machine Sys2Proof.Laws

variable {s t : State}

/-- Settles O26: a promotion by what the cache has free, and each later event by the state of its slot. -/
theorem migrationMovesRegions : Obligations.MigrationMovesRegions := by
  refine ⟨?_, ?_, ?_, ?_, ?_, ?_, ?_⟩
  · intro s r n runs hot absent allowed free
    change execMigrationPromote r s = _
    simp [execMigrationPromote, runs, hot, absent, allowed, free]
  · intro s r n x runs hot absent allowed full victim holds
    change execMigrationPromote r s = _
    simp [execMigrationPromote, runs, hot, absent, allowed, full, victim, drainSlot, holds, setSlot]
  · intro s n x holds stays invalid accepted
    change execMigrationCopyDone n s = _
    simp [execMigrationCopyDone, holds, stays, invalid, accepted]
  · intro s n x holds drains unread
    change execMigrationSlotReuse n s = _
    simp [execMigrationSlotReuse, holds, drains, unread]
  · intro s f v writable phys variant enable
    change execDdrMigCtrlWrite f v s = _
    unfold execDdrMigCtrlWrite
    rw [regWrite_eq writable]
    simp [phys, variant, enable]
  · exact fun s runs => congrArg Host.Outcome.next (if_pos runs)
  · exact fun s rests => congrArg Host.Outcome.next (if_neg (Bool.eq_false_iff.1 rests))

section Entries

variable {c : Cmd} {m : Image} {bs : Bytes} {n i : Nat}

/-- The raw entries of a list of `n` (02_memory_tiers R55). -/
def rawEntries (bs : Bytes) (n : Nat) : List Bytes := (List.range n).map (fun i => slice bs (8 * i) 8)

theorem getD_rawEntries (h : i < n) : (rawEntries bs n).getD i [] = slice bs (8 * i) 8 := by
  simp [rawEntries, List.getD, h]

theorem firstEntryFault_eq_none {layers : Nat} (sound : ∀ i < n, entryFault s layers (slice bs (8 * i) 8) = none) :
    (List.range n).findSome? (fun i => (entryFault s layers ((rawEntries bs n).getD i [])).map (fun o => (i, o))) = none :=
  List.findSome?_eq_none_iff.2 fun i hi => by
    rw [getD_rawEntries (List.mem_range.1 hi), sound i (List.mem_range.1 hi), Option.map_none]

theorem map_entryOf_rawEntries : (rawEntries bs n).map entryOf = (List.range n).map (fun i => entryOf (slice bs (8 * i) 8)) :=
  List.map_map

theorem runModelPlace_of_sound (installed : imageVersion s c.model c.bound.version = some m)
    (reads : vaRead s c.func c.domain (leAt c.desc 16 8) (8 * leAt c.desc 24 2) (locator 0 0 16) = .ok bs)
    (sound : ∀ i < leAt c.desc 24 2, entryFault s (infoOf m).layers (slice bs (8 * i) 8) = none)
    (fits : placeQuota s c m ((rawEntries bs (leAt c.desc 24 2)).map entryOf) = none) :
    runModelPlace c s = placeStart c m ((rawEntries bs (leAt c.desc 24 2)).map entryOf)
      (modCmd c.id (fun c => { c with params := bs }) s) := by
  have noFault := firstEntryFault_eq_none sound
  unfold rawEntries at noFault fits ⊢
  simp only [runModelPlace, installed, reads, noFault, fits]

theorem runModelPlace_of_quota {q : Nat} (installed : imageVersion s c.model c.bound.version = some m)
    (reads : vaRead s c.func c.domain (leAt c.desc 16 8) (8 * leAt c.desc 24 2) (locator 0 0 16) = .ok bs)
    (sound : ∀ i < leAt c.desc 24 2, entryFault s (infoOf m).layers (slice bs (8 * i) 8) = none)
    (full : placeQuota s c m ((rawEntries bs (leAt c.desc 24 2)).map entryOf) = some q) :
    runModelPlace c s = failCmd c.id (quotaFail q) s := by
  have noFault := firstEntryFault_eq_none sound
  unfold rawEntries at noFault full
  simp only [runModelPlace, installed, reads, noFault, full]

theorem runModelPlace_of_fault {o : Nat} (installed : imageVersion s c.model c.bound.version = some m)
    (reads : vaRead s c.func c.domain (leAt c.desc 16 8) (8 * leAt c.desc 24 2) (locator 0 0 16) = .ok bs)
    (one : leAt c.desc 24 2 = 1) (broken : entryFault s (infoOf m).layers (slice bs 0 8) = some o) :
    runModelPlace c s = failCmd c.id (bad (locator 2 0 o)) s := by
  have first : (List.range 1).findSome? (fun i => (entryFault s (infoOf m).layers
      (((List.range 1).map (fun i => slice bs (8 * i) 8)).getD i [])).map (fun o => (i, o))) = some (0, o) := by
    simp [broken]
  rw [one] at reads
  simp only [runModelPlace, installed, one, reads, first]

end Entries

/-- Settles O27, by what the first broken entry is and what the quotas say. -/
theorem modelPlaceChecksThenReserves : Obligations.ModelPlaceChecksThenReserves := by
  refine ⟨?_, ?_, ?_⟩
  · intro s id c m bs ready installed reads sound fits
    rw [← map_entryOf_rawEntries] at fits ⊢
    exact next_runReady ready (runModelPlace_of_sound installed reads sound fits)
  · exact fun s id o c m bs ready installed reads one broken =>
      next_runReady ready (runModelPlace_of_fault installed reads one broken)
  · intro s id q c m bs ready installed reads sound full
    rw [← map_entryOf_rawEntries] at full
    exact next_runReady ready (runModelPlace_of_quota installed reads sound full)

/-- Settles O28. A slice that completes changes the bow alone, as `endSlice` and the dispatch after it do. -/
theorem slicesEndFaultAndAreKilled : Obligations.SlicesEndFaultAndAreKilled := by
  refine ⟨?_, ?_, ?_, ?_, ?_⟩
  · intro s p n r hp runs ended
    refine ⟨_, ?_, rfl, bowOnly_endSlice.trans bowOnly_settleDispatch⟩
    change execSliceComplete p n s = _
    simp [execSliceComplete, unit_eq hp, runs, ended]
  · intro s id v w p u before waits may victim
    change execPreemptGraceExpiry id s = _
    change cmdOf ((List.range 48).foldl unqueue s) id = some w at waits
    simp only [execPreemptGraceExpiry, before, waits, may, if_true, ok_eq, preempt]
    change chooseVictim ((List.range 48).foldl unqueue s) w = some p at victim
    simp only [victim]
    rfl
  · intro s i hi busy
    constructor
    · change execSliceWatchdogExpiry ⟨i, false⟩ s = _
      simp [execSliceWatchdogExpiry, unit_eq hi, busy, when_eq]
    · change execFretFault i .clockOrPower s = _
      simp [execFretFault, unit_eq hi, busy, when_eq]
  · intro s i hi edge
    change execSliceWatchdogExpiry ⟨i, true⟩ s = _
    simp [execSliceWatchdogExpiry, unit_eq hi, partRun, edge, when_eq]
  · exact fun s i b x hi => ⟨unit_eq hi, unit_eq hi⟩

theorem padTo_of_length {n : Nat} {w : Bytes} (h : w.length = n) : padTo n w = w := by
  simp [padTo, zeros, h, List.take_of_length_le]

/-- The bytes of a unit's corrected word read back and no other byte changes, whatever of the bow is counted beside. -/
theorem corrected_word_reads {a : Nat} {w : Bytes} (wf : s.mem.wf = true) (h : w.length = 8) (mem : t.mem = (writeBytes .dev a (padTo 8 w) s).mem) :
    readBytes t .dev a 8 = w ∧ ∀ (sp : Space) (b : Nat), (sp ≠ .dev ∨ b < a ∨ a + 8 ≤ b) → readByte t sp b = readByte s sp b := by
  rw [padTo_of_length h] at mem
  simp only [readBytes, readByte, mem]
  exact ⟨h ▸ readBytes_write wf, fun sp b out => readByte_write_out wf (h.symm ▸ out)⟩

/-- Settles O29: the word lies at its unit's base, and `modAt` counts it at that unit. -/
theorem correctedWordsAreWrittenBack : Obligations.CorrectedWordsAreWrittenBack := by
  refine ⟨?_, ?_⟩
  · intro s n off w ⟨wf, _, shaped⟩ hn hoff hw
    obtain ⟨back, others⟩ := corrected_word_reads (a := fretBase n + off / 8 * 8) wf hw rfl
    exact ⟨_, (unit_eq hn).trans (unit_eq hoff), back, others,
      congrArg Fret.corrected (getD_modAt (by rw [writeBytes_bow, shaped.frets]; exact hn)), rfl⟩
  · intro s n off w ⟨wf, _, shaped⟩ hn hoff hw
    obtain ⟨back, others⟩ := corrected_word_reads (a := stringBufBase n + off / 8 * 8) wf hw rfl
    exact ⟨_, (unit_eq hn).trans (unit_eq hoff), back, others,
      congrArg StringSt.corrected (getD_modAt (by rw [writeBytes_bow, shaped.strings]; exact hn)), rfl⟩

/-- Settles O30, by how long ago the string's last error was and by what holds the line. -/
theorem bufferErrorsRefetch : Obligations.BufferErrorsRefetch := by
  refine ⟨?_, ?_, ?_, ?_, ?_⟩
  · intro s j off hj late
    change execStringBufferDoubleError j off s = _
    cases last : (stringOf s j).lastBufError with
    | none => simp [execStringBufferDoubleError, unit_eq hj, last]
    | some x => simp [execStringBufferDoubleError, unit_eq hj, last, Nat.not_le.2 (late x last)]
  · intro s j off x hj last soon
    change execStringBufferDoubleError j off s = _
    simp [execStringBufferDoubleError, unit_eq hj, last, soon]
  · intro s j off unheld
    simp only [refetchLine, unheld]
  · intro s j off p u b held
    simp only [refetchLine, held]
  · exact fun s j off hj => unit_eq hj

theorem phys_cases {f : Nat} (phys : isPhys f = true) : f = 0 ∨ f = 8 := by simpa [isPhys] using phys

theorem portOf_lt_two_of_phys {f : Nat} (phys : isPhys f = true) : portOf f < 2 := by
  obtain rfl | rfl := phys_cases phys <;> decide

theorem bf_four_zero {v : Nat} (hv : v ≤ 16) : bf v 4 0 = v := by
  simp only [bf, Nat.shiftRight_zero]
  omega

/-- Both proposals are equal after one port has proposed `v` exactly when the other port's is `v`. -/
theorem proposals_agree_iff {p v : Nat} {prop : List Nat} (two : prop.length = 2) (hp : p < 2) :
    (setAt p v prop).getD 0 0 = (setAt p v prop).getD 1 0 ↔ prop.getD (1 - p) 0 = v := by
  match prop, two with
  | [a, b], _ =>
    obtain rfl | rfl : p = 0 ∨ p = 1 := by omega
    · exact eq_comm
    · exact Iff.rfl

theorem exec_bowPortSplitWrite_of_new {f v : Nat} (writable : Writable s f 0) (phys : isPhys f = true) (hv : v ≤ 16)
    (new : s.bow.prop.getD (portOf f) 0 ≠ v) : exec (.bowPortSplitWrite f v) s = .next (propose (portOf f) v s) := by
  refine (regWrite_eq writable).trans (congrArg Host.Outcome.next ?_)
  simp only [bf_four_zero hv, phys, hv, new, ne_eq, not_false_eq_true, decide_true, Bool.and_self, if_true]

/-- Settles O31, by what the other port proposes and whether both ports fit. -/
theorem portSplitTakesEffectWhenAgreed : Obligations.PortSplitTakesEffectWhenAgreed := by
  intro s f v shaped writable phys hv new
  have agree := proposals_agree_iff (v := v) shaped.proposals (portOf_lt_two_of_phys phys)
  rw [exec_bowPortSplitWrite_of_new writable phys hv new, propose]
  simp only [agree]
  refine ⟨fun differs => ?_, fun same other fitsA fitsB => ?_, fun same other broken => ?_⟩
  · simp only [differs, false_and, if_false]
  · simp only [same, other, fitsA, fitsB, ne_eq, not_false_eq_true, and_self, Bool.and_self, if_true]
  · have unfit : (portFits s v 0 && portFits s v 1) = false := by rcases broken with h | h <;> simp [h]
    simp only [same, other, unfit, ne_eq, not_false_eq_true, and_self, if_true, Bool.false_eq_true, if_false]

end Sys2Proof

/-! The hot set, programs of the general cores, power hints and session commands (O32 to O36). -/

namespace Sys2Proof
open Sys2Proof.Machine Sys2Proof.Laws

variable {s t : State}

theorem bowOnly_hotLoaded {e : Nat} : BowOnly s (hotLoaded e s) :=
  BowOnly.trans (t := { s with bow := _ }) rfl bowOnly_pinMore

/-- Settles O32: the registers store first and the bow acts; a switch goes by what the firewalls answer. -/
theorem hotSetFollowsItsRegisters : Obligations.HotSetFollowsItsRegisters := by
  refine ⟨?_, ?_, ?_, ?_, ?_⟩
  · intro s f v writable phys few fits
    refine next_regWrite writable ?_
    simp only [phys, Nat.not_lt.2 few, fits, Bool.not_true, Bool.false_eq_true, if_false, if_true]
  · intro s n next still
    change execHotsetResize s = _
    simp [execHotsetResize, next, still]
  · intro s f n v writable phys hn
    refine (regWrite_eq writable).trans ((unit_eq hn).trans ?_)
    simp [phys]
  · intro s e h entry switching accepted
    refine ⟨_, ?_, rfl, bowOnly_hotLoaded.trans bowOnly_dispatch⟩
    change execHotSwitchDone e s = _
    simp [execHotSwitchDone, entry, switching, accepted]
  · intro s e h x entry switching refused
    change execHotSwitchDone e s = _
    simp [execHotSwitchDone, entry, switching, refused]

section Programs

variable {i k : Nat} {g : GThread} {c : Cmd} {op : GThread → Cmd → State → State} {th : ThreadId}

/-- The state in which the thread whose turn it is has passed its turn and goes on at `n` (R220). -/
def turnPassed (g : GThread) (n : Nat) (s : State) : State := goOn (idOf g) n (passTurn (idOf g) s)

theorem issueFrom_of_turn {n : Option Nat} (turn : nextThread s i k = some g) (mine : cmdOf s g.cmd = some c) :
    issueFrom s i k n op = op g c (turnPassed g (n.getD (g.pc + 4)) s) := by
  simp only [issueFrom, turn, mine, turnPassed]

theorem issueZh_of_turn (turn : nextThread s th.fret th.core = some g) (same : sameThread th g = true)
    (mine : cmdOf s g.cmd = some c) : issueZh s th op = op g c (turnPassed g (g.pc + 4) s) := by
  have here : (nextThread s th.fret th.core).any (sameThread th) = true := by rw [turn]; exact same
  exact (if_pos here).trans (issueFrom_of_turn turn mine)

end Programs

/-- Settles O33: the thread's turn passes first, and its instruction acts in the state after it. -/
theorem programInstructionsAct : Obligations.ProgramInstructionsAct := by
  refine ⟨?_, ?_⟩
  · intro s i k n g c hi hk turn mine
    have issues (o : GOp) : exec (.gcoreInstruction i k ⟨o, n⟩) s = .next (issueOp c g o (turnPassed g n s)) :=
      (unit_eq hi).trans ((unit_eq hk).trans (congrArg Host.Outcome.next (issueFrom_of_turn turn mine)))
    refine ⟨fun rd a m bs reads => ?_, fun a bs v writes => ?_, fun rd v => issues _, fun w => issues _⟩
    · refine (issues _).trans (congrArg Host.Outcome.next ?_)
      change programRead (turnPassed g n s) c g a m = .ok bs at reads
      simp only [issueOp, reads]
      rfl
    · refine (issues _).trans (congrArg Host.Outcome.next ?_)
      change programWrite (turnPassed g n s) c g false a bs = .ok v at writes
      simp only [issueOp, writes]
  · intro s th rd r g c turn same mine
    refine ⟨fun low high few => ?_, fun k ticket => ?_, fun item => ?_⟩
    · refine congrArg Host.Outcome.next ((issueZh_of_turn turn same mine).trans ?_)
      have room : heldTickets (turnPassed g (g.pc + 4) s) th < 16 := few
      simp [zhDmaq, low, high, room]
      rfl
    · refine congrArg Host.Outcome.next ((issueZh_of_turn turn same mine).trans ?_)
      have held : (turnPassed g (g.pc + 4) s).gcore.tickets.find? (fun k => k.num == regOf g r && k.fret == th.fret && k.core == th.core && k.thread == th.thread) = some k := ticket
      simp only [zhDmaw, held]
      cases k.ended <;> rfl
    · refine congrArg Host.Outcome.next ((issueZh_of_turn turn same mine).trans ?_)
      unfold zhInfo
      obtain value | value | value | value : regOf g r = 0 ∨ regOf g r = 1 ∨ regOf g r = 2 ∨ regOf g r = 3 := by omega
      all_goals
        rw [value]
        rfl

/-- Settles O34: an exit by its code, a budget by the time it ran, a request by the thread that made it. -/
theorem programsEndAndFail : Obligations.ProgramsEndAndFail := by
  refine ⟨?_, ?_, ?_, ?_⟩
  · intro s th r g c turn same mine
    refine ⟨fun zero => ?_, fun code => ?_⟩
    · refine congrArg Host.Outcome.next ((issueZh_of_turn turn same mine).trans ?_)
      exact if_neg (not_not_intro zero)
    · refine congrArg Host.Outcome.next ((issueZh_of_turn turn same mine).trans ?_)
      exact if_pos code
  · intro s id c here op running left late
    change execGcoreBudgetExpiry id s = _
    simp only [execGcoreBudgetExpiry, here, op, running, left, late, and_self, if_true, ok_eq]
    rfl
  · intro s i n k g c hi ticket thread mine left
    change execFretDmaDone i n s = _
    simp only [execFretDmaDone, unit_eq hi, ticket, thread, mine, left, ok_eq]
    rfl
  · exact fun s k g c touches => if_pos touches

/-- Settles O35: `settleHints` follows each stage. -/
theorem hintsRaiseThenRestore : Obligations.HintsRaiseThenRestore := by
  refine ⟨?_, ?_, ?_⟩
  · intro s n h hint pending
    change execPowerHintPrepare n s = _
    simp only [execPowerHintPrepare, hint, pending, if_true, ok_eq]
  · intro s n h hint
    constructor
    · change execPowerHintPhaseStart n s = _
      simp only [execPowerHintPhaseStart, hint, ok_eq]
    · change execPowerHintRestore n s = _
      simp only [execPowerHintRestore, hint, ok_eq]
  · exact fun s => rfl

/-- Settles O36: each row by the outcome of its check. -/
theorem sessionCommandsPassTheirChecks : Obligations.SessionCommandsPassTheirChecks := by
  refine ⟨?_, ?_, ?_, ?_, ?_, ?_⟩
  · exact fun s id c ready pass => next_runReady ready (by simp only [runSessionOpen, pass])
  · exact fun s id c x ready isOpen before => by
      have opened : (sessionOf s c.func c.session).filter (fun x => decide (x.opened < c.id)) = some x := by
        simp [isOpen, Option.filter, before]
      exact next_runReady ready (by simp only [runSessionClose, opened])
  · exact fun s id c x ready own fits => next_runReady ready (by simp only [runSessionTruncate, own, if_pos fits])
  · exact fun s id c x bs l ready own fits reads stages =>
      next_runReady ready (by simp only [runPrefixPublish, own, if_neg (Nat.not_lt.2 fits), reads, stages])
  · exact fun s id c x h m l ready own empty chain stages =>
      next_runReady ready (by simp [runPrefixAttach, own, empty, chain, stages])
  · exact fun s id c bs ready reads => next_runReady ready (by simp only [runPrefixDrop, reads])

end Sys2Proof

/-! Invalidations of the KV MMU and the keys of share groups (07_attention_kv R280; O38). -/

namespace Sys2Proof
open Sys2Proof.Machine Sys2Proof.Laws

variable {s t : State}

theorem startInval_of_target {f w g : Nat} {va : Option Nat} (target : mmuTarget f w = some g) : startInval f w va s =
    modMmu g (fun m => { m with busy := true, inFlight := (m.inFlight ++
      (s.hif.cmds.filter (fun c => c.func == g && c.staged.any (inScope va))).map (fun c => c.id)).eraseDups }) s := by
  simp only [startInval, target]

/-- Settles O38. Removing the entries of a group changes them, the key and the owners of pages alone. -/
theorem mmuInvalidationsAndShareKeys : Obligations.MmuInvalidationsAndShareKeys := by
  refine ⟨?_, ?_, ?_, ?_⟩
  · exact fun s f w va g writable target =>
      ⟨next_regWrite writable (startInval_of_target target), next_regWrite writable (startInval_of_target target)⟩
  · intro s g hg
    refine (unit_eq hg).trans (congrArg Host.Outcome.next ?_)
    simp only [List.all_eq_true, Option.isNone_iff_eq_none]
  · intro s f g k writable phys hg keyed
    have writes : exec (.atnKeyWrite f g k) s = .next (removePrefixes (fun e => e.group == f + g)
        { s with atn := { s.atn with keys := setAt (f + g) (k % hashMod) s.atn.keys } }) := by
      refine (regWrite_eq writable).trans ((unit_eq hg).trans (congrArg Host.Outcome.next (if_neg ?_)))
      simp [phys, keyed]
    exact ⟨_, writes, rfl, rfl, rfl⟩
  · intro s f g writable hg
    refine (regWrite_eq writable).trans ((unit_eq hg).trans (congrArg Host.Outcome.next (if_pos ?_)))
    simp

end Sys2Proof

/-! The weight store's blocks: relocations, the journal, programs, erases and the patrol (03_weight_store; O39 to O41). -/

namespace Sys2Proof
open Sys2Proof.Machine Sys2Proof.Laws

variable {s t : State} {b d : Nat}

/-- Settles O39: each event acts when the condition that its row tests holds. -/
theorem relocationsAgeClockAndDies : Obligations.RelocationsAgeClockAndDies := by
  refine ⟨?_, ?_, ?_, ?_, ?_, ?_, ?_⟩
  · intro s b data read
    exact congrArg Host.Outcome.next (if_pos (by simp [data, read]))
  · exact fun s b near => congrArg Host.Outcome.next (if_pos near)
  · intro s b data inService read
    exact congrArg Host.Outcome.next (if_pos (by rcases data with data | data <;> simp [data, inService, read]))
  · intro s b d r reloc dest c fresh
    change execRelocationCopyDone b s = _
    have unwritten : s.wst.pending.contains (.remap (dieOf b) (blockOf s b).lblock (d % 1024) (blockOf s b).pslc (some b)) = false := by
      simpa using fresh
    simp only [execRelocationCopyDone, reloc, dest, unwritten, Bool.false_eq_true, if_false, ok_eq]
    rfl
  · exact fun s => rfl
  · intro s d hd inService
    exact (unit_eq hd).trans (congrArg Host.Outcome.next (if_neg (by simpa using inService)))
  · exact fun s d hd => unit_eq hd

theorem startCompaction_eq : startCompaction s = if bit s.wst.running 7 = true then s
    else if fwWrites s = true then { s with wstMore := { s.wstMore with compactionDue := true } }
    else journal .checkpoint { s with wst := { s.wst with running := putBit s.wst.running 7 true },
                                      wstMore := { s.wstMore with compactionDue := false } } := rfl

theorem grantAppend_eq : grantAppend s = if s.wst.pending ≠ [] ∧ s.wstMore.appending = false ∧ budgetFree s 0 = true
    then { s with wstMore := { s.wstMore with appending := true } } else s := by
  simp [grantAppend, and_assoc]

/-- Settles O40: the oldest record waits for its append, and `startCompaction_eq` gives the two ways to start. -/
theorem journalTakesEffectInOrder : Obligations.JournalTakesEffectInOrder := by
  refine ⟨?_, ?_, ?_, ?_, ?_, ?_⟩
  · intro s c l oldest appending
    change execJournalRecordDurable s = _
    simp only [execJournalRecordDurable, oldest, appending, Bool.not_true, Bool.false_eq_true, if_false, ok_eq, recorded]
  · intro s idle
    change execJournalRecordDurable s = _
    cases waiting : s.wst.pending with
    | nil => simp only [execJournalRecordDurable, waiting, ok_eq]
    | cons c l => simp only [execJournalRecordDurable, waiting, idle, Bool.not_false, if_true, ok_eq]
  · exact fun s f writable phys => next_regWrite writable ((when_eq phys).trans startCompaction_eq)
  · exact fun s => congrArg Host.Outcome.next startCompaction_eq
  · exact fun s => rfl
  · exact fun s => grantAppend_eq

/-- Settles O41. The end of an erase goes by `exec_blockEraseDone_of_erasing`, as the wear of O42 does. -/
theorem blocksAreProgrammedErasedAndPatrolled : Obligations.BlocksAreProgrammedErasedAndPatrolled := by
  refine ⟨?_, ?_, ?_, ?_, ?_, ?_, ?_⟩
  · exact fun s b hb => unit_eq hb
  · intro s b hb used
    exact (unit_eq hb).trans (congrArg Host.Outcome.next (if_neg (by
      simpa [Decidable.or_iff_not_imp_left] using used)))
  · intro s b hb state noDip noHold
    exact (unit_eq hb).trans (congrArg Host.Outcome.next (when_eq (by simp [state, noDip, noHold])))
  · exact fun s b good hb erasing => exec_blockEraseDone_of_erasing hb erasing
  · intro s b hb other erased
    refine (unit_eq hb).trans (congrArg Host.Outcome.next ((if_pos (by simpa using other)).trans (if_pos ?_)))
    simp [erased]
  · intro s b ber hb due unheld
    refine (unit_eq hb).trans (congrArg Host.Outcome.next ((if_neg (by simp [due])).trans (if_neg ?_)))
    simpa using unheld
  · exact fun s f writable phys =>
      ⟨next_regWrite writable (when_eq phys), next_regWrite writable (when_eq phys)⟩

end Sys2Proof

/-! The camera: passes, binds, packets and the pipeline's lines (12_camera_pipeline; O43, O44). -/

namespace Sys2Proof
open Sys2Proof.Machine Sys2Proof.Laws

variable {s t : State} {p : Nat}

theorem pipelineLineBoundary_of_memory (runs : pipelineRuns s = true) (none : inlineWaiting s = none) :
    exec .pipelineLineBoundary s = .next (memoryLine s) := by
  change execPipelineLineBoundary s = _
  simp [execPipelineLineBoundary, runs, none]

/-- The last line of a running pass ends it (R414). -/
theorem memoryLine_of_last {id n : Nat} {c : Cmd} (running : s.cam.running = some (id, n)) (here : cmdOf s id = some c)
    (phase : c.phase = .running) (last : vpHeight c.params ≤ n + 1) : memoryLine s = finishPass c { s with cam := { s.cam with
      running := some (id, n + 1), pixels := s.cam.pixels + vpWidth c.params } } := by
  simp only [memoryLine, running, here, phase, last, ne_eq, not_true_eq_false, if_false, if_true]

/-- Settles O43: at a line boundary an in-line frame that waits comes first, and `memoryLine` takes a line of the running
pass otherwise. -/
theorem cameraCommandsTakeTheirPlace : Obligations.CameraCommandsTakeTheirPlace := by
  refine ⟨?_, ?_, ?_, ?_, ?_, ?_, ?_, ?_, ?_, ?_, ?_, ?_⟩
  · intro s id c ready
    refine next_runReady ready ?_
    simp only [runVisionPass, ← Nat.not_lt, ite_not]
  · intro s id c ready
    refine next_runReady ready ?_
    unfold runCameraBind
    cases bindCheck s c <;> rfl
  · exact fun s id c ready => next_runReady ready rfl
  · intro s c free on next u
    have starts : exec .memoryPassStart s = .next (match readRows u c (vpHeight c.params) with
        | .error e => failCmd c.id e u
        | .ok _ => { u with cam := { u.cam with running := some (c.id, 0) } }) := by
      change execMemoryPassStart s = _
      simp only [execMemoryPassStart, free, on, next, Option.isSome_none, Bool.not_true, Bool.or_self, Bool.false_eq_true,
        if_false, ok_eq]
      rfl
    rw [starts]
    cases readRows u c (vpHeight c.params) <;> rfl
  · intro s idle
    change execMemoryPassStart s = _
    rcases idle with running | off | none
    · simp [execMemoryPassStart, running]
    · simp [execMemoryPassStart, off]
    · simp [execMemoryPassStart, none]
  · intro s stopped
    change execPipelineLineBoundary s = _
    simp [execPipelineLineBoundary, stopped]
  · intro s b f ended runs waits
    change execPipelineLineBoundary s = _
    simp [execPipelineLineBoundary, runs, waits]
  · intro s id n c runs none running here phase more
    rw [pipelineLineBoundary_of_memory runs none]
    simp [memoryLine, running, here, phase, Nat.not_le.2 more]
  · intro s id n c runs none running here phase last
    refine (pipelineLineBoundary_of_memory runs none).trans (congrArg Host.Outcome.next ?_)
    exact (memoryLine_of_last running here phase last).trans rfl
  · intro s id n runs none running gone
    rw [pipelineLineBoundary_of_memory runs none]
    simp only [memoryLine, running]
    cases here : cmdOf s id with
    | none => rfl
    | some c => simp only [gone c here, ne_eq, not_false_eq_true, if_true]
  · intro s none idle
    by_cases runs : pipelineRuns s = true
    · rw [pipelineLineBoundary_of_memory runs none]
      simp only [memoryLine, idle]
    · change execPipelineLineBoundary s = _
      simp [execPipelineLineBoundary, runs]
  · intro s b f waits bound ended
    change execInlineOutputsComplete s = _
    simp only [execInlineOutputsComplete, waits, settleInline, bound, ended, ok_eq]

theorem receive_of_deskewed {f : State → State} (listens : listening s p = true) (level : deskewed (camPort s p) = true) :
    receive p f s = f s := by
  simp [receive, listens, level]

theorem receive_of_closed {f : State → State} (closed : listening s p = false ∨ deskewed (camPort s p) = false) :
    receive p f s = if listening s p then camStatus p 1 s else s := by
  cases listens : listening s p with
  | false => simp [receive, listens]
  | true => simp [receive, listens, closed.resolve_left (by simp [listens])]

theorem exec_linePacket_of_deskewed {l : LinePacket} (hp : p < 8) (listens : listening s p = true)
    (level : deskewed (camPort s p) = true) : exec (.csiLinePacket p l) s = .next (linePacket p l s) :=
  (unit_eq hp).trans (congrArg Host.Outcome.next (receive_of_deskewed listens level))

/-- Settles O44: every packet passes `receive`, which lets it act on a deskewed port that listens. -/
theorem cameraPacketsBuildFrames : Obligations.CameraPacketsBuildFrames := by
  refine ⟨?_, ?_, ?_, ?_, ?_, ?_, ?_, ?_⟩
  · exact fun s p v n hp listens level =>
      (unit_eq hp).trans (congrArg Host.Outcome.next (receive_of_deskewed listens level))
  · intro s p l hp listens level broken
    rw [exec_linePacket_of_deskewed hp listens level, linePacket, if_pos broken]
    rfl
  · intro s p l hp listens level sound u
    have same : bindsOn u p l.vc = bindsOn s p l.vc := by
      unfold u
      split <;> rfl
    rw [exec_linePacket_of_deskewed hp listens level, linePacket, if_neg (by simp [sound]), ← same]
    change Host.Outcome.next (if l.dtype = 0x12 then
      if ((bindsOn u p l.vc).filter (fun b => cbEmbedded b.block)).isEmpty then camStatus p 16 u
        else embeddedLines p l ((bindsOn u p l.vc).filter (fun b => cbEmbedded b.block)) u
      else match (bindsOn u p l.vc).find? (fun b => cbDtype b.block == l.dtype) with
        | none => camStatus p 16 u
        | some b => imageLine l u b) = _
    cases (bindsOn u p l.vc).filter (fun b => cbEmbedded b.block) <;> rfl
  · exact fun s p v n l hp closed => ⟨(unit_eq hp).trans (congrArg Host.Outcome.next (receive_of_closed closed)),
      (unit_eq hp).trans (congrArg Host.Outcome.next (receive_of_closed closed)),
      (unit_eq hp).trans (congrArg Host.Outcome.next (receive_of_closed closed))⟩
  · intro s p v n hp listens level
    refine (unit_eq hp).trans (congrArg Host.Outcome.next ((receive_of_deskewed listens level).trans ?_))
    dsimp only
    cases (bindsOn s p v).filter (fun b => b.frame.isSome) <;> rfl
  · exact fun s i hi => unit_eq hi
  · intro s p hp
    refine (unit_eq hp).trans (congrArg Host.Outcome.next ?_)
    simp only [when, Bool.and_eq_true]
  · exact fun s p n hp hn => (unit_eq hp).trans (unit_eq hn)

end Sys2Proof

/-! The drone: configurations, wake plans, replays, the detector and the sensors (11_listening_wake; O45 to O47). -/

namespace Sys2Proof
open Sys2Proof.Machine Sys2Proof.Laws

variable {s t : State}

theorem runDroneConfig_of_noImage {c : Cmd} (owner : c.func = droneOwner s) (noImage : leAt c.params 8 8 = 0) :
    runDroneConfig c s = queueConfig c s := by
  simp only [runDroneConfig, owner, noImage, ne_eq, not_true_eq_false, if_false, if_true]

theorem takeEffect_of_waiting {id n : Nat} {c : Cmd} {l : List (Nat × Bool)} (waits : s.drone.waitingCfg = (id, false) :: l)
    (here : cmdOf s id = some c) (alive : c.alive = true) : takeEffect (n + 1) s = takeEffect n (
      if c.aux.headD 0 = 1 then stageDone id [] ((s.now - c.accepted) / 384000000 % 65536)
        (drnEvent 16 (applyConfig c (modDrone (fun d => { d with waitingCfg := l }) s)))
      else stageDone id [] 0 (applyConfig c (modDrone (fun d => { d with waitingCfg := l }) s))) := by
  have still : cmdOf (modDrone (fun d => { d with waitingCfg := l }) s) id = some c := here
  simp only [takeEffect, waits, still, alive, Bool.not_true, Bool.false_eq_true, if_false]

/-- Settles O45: a configuration takes effect or waits by `queueConfig`, and a plan or replay by its own checks. -/
theorem droneCommandsTakeEffect : Obligations.DroneCommandsTakeEffect := by
  refine ⟨?_, ?_, ?_, ?_, ?_, ?_⟩
  · exact fun s id c ready owner noImage same =>
      next_runReady ready ((runDroneConfig_of_noImage owner noImage).trans (if_pos (by rw [same]; rfl)))
  · exact fun s id c ready owner noImage changes =>
      next_runReady ready ((runDroneConfig_of_noImage owner noImage).trans (if_neg (by simp [changes])))
  · exact fun s => rfl
  · exact fun s id n c l waits here alive => takeEffect_of_waiting waits here alive
  · intro s id c ready verifier preload owner
    refine next_runReady ready ?_
    simp only [runWakePlanSet, verifier, preload, Bool.not_true, Bool.false_eq_true, if_false]
    exact if_neg (not_not_intro owner)
  · intro s id c ready allowed source r out fits
    have source' : ite (16 ≤ rpSource c) (micReplay c r) (beamReplay s c r) = out := by
      simp only [out, ← Nat.not_lt, ite_not]
    have runs : runPrerollReplay c s = if !replayReady s c r.start then openReplays s else
        match vaStage s c.func droneDomain (leAt c.params 0 8) out.1 (locator 2 0 0) with
        | .error e => failCmd c.id e s
        | .ok l => stageDone c.id l (r.short + ceilDiv out.2 16)
            (if r.short + ceilDiv out.2 16 = 0 then s else drnEvent 8 s) := by
      simp only [runPrerollReplay, allowed, source, Bool.not_true, Bool.false_eq_true, if_false]
      rw [if_neg (Nat.not_lt.2 fits)]
      simp only [← source']
      rfl
    refine ⟨fun open_ => next_runReady ready ?_, fun l captured stages => next_runReady ready ?_⟩
    · rw [runs, open_]; rfl
    · have staged : vaStage s c.func droneDomain (leAt c.params 0 8) out.1 (locator 2 0 0) = .ok l := stages
      simp only [runs, captured, staged, Bool.not_true, Bool.false_eq_true, if_false]

theorem capturing_eq_true (clocked : s.clk.aonFailed = false) : capturing s = true := congrArg not clocked

/-- The detector's step on the scores of a frame, by its state and the top score together. -/
theorem scoreFrame_eq {scores : List BeamScores} {vib : List Int} :
    scoreFrame scores vib s = (
      let l := frameScores s scores
      let ov := if s.drone.cfg.vibMode = 1 then decide (s.drone.cfg.ovLevel ≤ Config.vibEnergy vib) :: s.drone.det.ovFrames.take 4 else []
      let score := ((topScore s l).map (fun e => e.2.2)).getD 0
      let u := modDet (fun d => { d with
        runs := trackRuns s l, score := score, ovFrames := ov, lowest := min d.lowest score,
        ovLast := if ownVoice ov then nowUs s + 1 else d.ovLast }) s
      match s.drone.det.state, topScore s l with
      | .idle, some (b, c, x) =>
        if preLevel s c ≤ x ∧ s.drone.det.lowest < preLevel s c then enterCandidate b c u else u
      | .idle, none => u
      | .candidate, _ => candidateFrame l u
      | .holdoff, _ => u) := by
  unfold scoreFrame
  dsimp only
  cases topScore s (frameScores s scores) <;> cases s.drone.det.state <;> rfl

/-- Settles O46: everything but the faults waits for a clock that has not failed, and then the row's body is the
statement's. -/
theorem detectorAndSensorsAct : Obligations.DetectorAndSensorsAct := by
  refine ⟨?_, ?_, ?_, ?_, ?_, ?_, ?_, ?_, ?_, ?_⟩
  · intro r heard tdm clocked
    refine congrArg Host.Outcome.next ((if_neg (by simp [capturing_eq_true clocked])).trans ?_)
    rw [scoreFrame_eq]
    rfl
  · intro s us
    simp [lateFrame, and_assoc]
  · intro s candidate
    exact ⟨fun quiet => congrArg Host.Outcome.next (when_eq (by simp [candidate, quiet])),
      congrArg Host.Outcome.next (when_eq (decide_eq_true candidate))⟩
  · exact fun s holdoff => congrArg Host.Outcome.next (when_eq (decide_eq_true holdoff))
  · exact fun r balls clocked => congrArg Host.Outcome.next (if_neg (by simp [capturing_eq_true clocked]))
  · intro s miso clocked mode
    refine congrArg Host.Outcome.next ((if_neg (by simp [capturing_eq_true clocked, mode])).trans ?_)
    unfold takeVibration spiSamples
    rw [List.map_map]
    rfl
  · intro s bits clocked periodic unpowered
    exact congrArg Host.Outcome.next (if_neg (by simp [capturing_eq_true clocked, periodic, unpowered]))
  · exact fun s f periodic => congrArg Host.Outcome.next (if_neg periodic)
  · exact fun s => ⟨rfl, rfl⟩
  · intro s m hm enabled
    exact (unit_eq hm).trans (congrArg Host.Outcome.next (if_neg (by simp [enabled])))

/-- Settles O47: a score counts in a plan that verifies with its entry loaded, and nowhere else. -/
theorem plansFireAreVerifiedAndEnd : Obligations.PlansFireAreVerifiedAndEnd := by
  refine ⟨?_, ?_, ?_, ?_, ?_, ?_⟩
  · exact fun s f v writable owner =>
      ⟨next_regWrite writable (if_neg (not_not_intro owner)), next_regWrite writable (if_neg (not_not_intro owner))⟩
  · exact fun s n hn accepted => (unit_eq hn).trans (congrArg Host.Outcome.next (if_neg (not_not_intro accepted)))
  · intro s n x hn verifying ready high
    exact (unit_eq hn).trans (congrArg Host.Outcome.next ((if_neg (by simp [verifying, ready])).trans (if_pos high)))
  · intro s n x hn verifying ready low
    exact (unit_eq hn).trans (congrArg Host.Outcome.next ((if_neg (by simp [verifying, ready])).trans (if_neg (Nat.not_le.2 low))))
  · exact fun s n x hn before => (unit_eq hn).trans (congrArg Host.Outcome.next (if_pos before))
  · intro s n d m hn busy fresh ddr flash low high named on installed
    have strings : [7, 8, 9, 10].any (fun d => bit (planDomains (planOf s n).block) d && domOn s d) = true := by
      refine List.any_eq_true.2 ⟨d, ?_, by simp [named, on]⟩
      obtain rfl | rfl | rfl | rfl : d = 7 ∨ d = 8 ∨ d = 9 ∨ d = 10 := by omega
      all_goals decide
    change execPreloadStart n s = _
    simp only [execPreloadStart, unit_eq hn, busy, fresh, ddr, flash, strings, installed, Option.isSome_none, Bool.not_true,
      Bool.or_self, Bool.false_eq_true, if_false, ok_eq]

end Sys2Proof

/-! Installs and the firmware's slots (17_firmware_reset, 03_weight_store R130; O48, O49). -/

namespace Sys2Proof
open Sys2Proof.Machine Sys2Proof.Laws

variable {s t u : State}

theorem granuleFits {i : Install} {j : Nat} (whole : granuleWhole i j = true) (fresh : j ∉ i.durable) (below : j < i.granules) :
    (!granuleWhole i j || i.durable.contains j || decide (i.granules ≤ j)) = false := by
  simp [whole, fresh, below]

theorem programGranule_of_super {n j : Nat} {i : Install} {x : Super} (here : installOf s n = some i)
    (whole : granuleWhole i j = true) (fresh : j ∉ i.durable) (below : j < i.granules) (super : superFor i j s = (u, some x)) :
    programGranule n j s = if superFull (storeGranule i j) x
      then closeSupers [x] (recorded (.installExtent n j (some (x.die, x.lblock, x.cls))) (modInstall n (fun i => storeGranule i j) u))
      else recorded (.installExtent n j none) (modInstall n (fun i => storeGranule i j) u) := by
  simp only [programGranule, here, granuleFits whole fresh below, Bool.false_eq_true, if_false, super]

/-- Settles O48: a granule that its superblock takes is stored by `programGranule_of_super`. -/
theorem installCommandsRun : Obligations.InstallCommandsRun := by
  refine ⟨?_, ?_, ?_, ?_, ?_, ?_, ?_, ?_, ?_⟩
  · exact fun s id c ready pass => next_runReady ready (by simp only [runInstallBegin, pass])
  · exact fun s id c ready pass => next_runReady ready (by simp only [runModelRelease, pass])
  · intro s id c i bs ready pass here reads crc fits
    refine next_runReady ready ?_
    simp only [runInstallData, pass, here, reads, crc, ne_eq, not_true_eq_false, if_false, if_neg (Nat.not_lt.2 fits)]
  · intro s c op pass
    simp only [commitState, op, commitInstallData, pass]
  · intro s id c i ready here durable genuine
    have digest : (i.envelope && decide (installDigest s i ≠ i.manifest)) = false := by
      cases envelope : i.envelope <;> simp [envelope, genuine]
    refine next_runReady ready ?_
    simp only [runInstallCommit, here, if_neg (Nat.not_lt.2 durable), digest, Bool.false_eq_true, if_false]
  · intro s id c i ready here durable envelope forged
    refine next_runReady ready ?_
    simp [runInstallCommit, here, if_neg (Nat.not_lt.2 durable), envelope, forged]
  · exact fun s id c i ready here => next_runReady ready (by simp only [runInstallCancel, here])
  · intro s u n j i x flash noGap admitted here whole fresh below super
    refine congrArg Host.Outcome.next ((when_eq (by simp [flash, noGap, admitted])).trans ?_)
    exact congrArg grantPrograms (programGranule_of_super (s := dropPrograms (fun g => g == (n, j)) s) here whole fresh below super)
  · intro s n j shut
    refine congrArg Host.Outcome.next (if_neg ?_)
    rcases shut with off | gap | absent
    · simp [off]
    · simp [gap]
    · simp [absent]

/-- Settles O49: the slot's registers act when their guards hold, and the hand-over goes by the phase in which it is. -/
theorem firmwareLoadsAndHandsOver : Obligations.FirmwareLoadsAndHandsOver := by
  refine ⟨?_, ?_, ?_, ?_, ?_, ?_, ?_, ?_, ?_, ?_, ?_, ?_, ?_⟩
  · intro s f v writable may open_ large small none
    exact next_regWrite writable (if_pos (by simp [may, open_, large, small, none]))
  · intro s f writable may loading mine
    exact next_regWrite writable (if_pos (by simp [may, loading, mine]))
  · exact fun s f writable phys => next_regWrite writable (when_eq phys)
  · intro s erases rests
    refine congrArg Host.Outcome.next ((when_eq (by simp [erases, compacts, rests])).trans ?_)
    simp [settleCompaction]
  · exact fun s runs => congrArg Host.Outcome.next (if_neg (by simp [compacts, runs]))
  · intro s id c bs ready pass reads crc
    refine next_runReady ready ?_
    simp [runFwWrite, pass, reads, crc, compacts, or_assoc]
  · intro s c op pass
    simp only [commitState, op, commitFwWrite, pass]
    rfl
  · intro s id c ready may loaded
    refine next_runReady ready ?_
    simp only [runFwActivate, may, loaded, Bool.not_true, Bool.false_eq_true, if_false, ne_eq, not_true_eq_false]
  · intro s id checks alive sound
    change execHandoverBootCheckDone none s = _
    simp only [execHandoverBootCheckDone, checks, alive, sound, Bool.not_true, Bool.false_eq_true, if_false, reduceCtorEq, ok_eq]
  · intro s id e checks alive fails
    change execHandoverBootCheckDone none s = _
    simp only [execHandoverBootCheckDone, checks, alive, fails, Bool.not_true, Bool.false_eq_true, if_false, reduceCtorEq, ok_eq]
  · intro s id checks alive
    change execHandoverBootCheckDone (some 8) s = _
    simp only [execHandoverBootCheckDone, checks, alive, Bool.not_true, Bool.false_eq_true, if_false, if_true, ok_eq]
  · intro s id starts alive
    change execHandoverFirmwareReady s = _
    simp only [execHandoverFirmwareReady, starts, alive, Bool.not_true, Bool.false_eq_true, if_false, ok_eq]
  · intro s id since gap
    refine ⟨?_, ?_, ?_⟩
    · change execHandoverTakeover true s = _
      simp only [execHandoverTakeover, gap, if_true, ok_eq]
    · change execHandoverTakeover false s = _
      simp only [execHandoverTakeover, gap, Bool.false_eq_true, if_false, ok_eq]
    · change execHandoverTimeout s = _
      simp only [execHandoverTimeout, gap, ok_eq]

end Sys2Proof

/-! Debug unlock, the SPDM mailbox and confidential mode (16_security; O50 to O52). -/

namespace Sys2Proof
open Sys2Proof.Machine Sys2Proof.Laws

variable {s t : State} {f : Nat}

/-- Settles O50: what a check that verifies erases is `unlock`'s, and `unlock_frame` says what stands. -/
theorem debugUnlockErasesItsSecrets : Obligations.DebugUnlockErasesItsSecrets := by
  refine ⟨?_, ?_, ?_, ?_, ?_, ?_⟩
  · intro s f v writable phys few idle provisioned
    exact next_regWrite writable ((if_neg (by simp [phys])).trans (if_pos ⟨few, idle, provisioned⟩))
  · exact fun s f writable phys waits => next_regWrite writable (when_eq (by simp [phys, waits]))
  · exact fun s waits => congrArg Host.Outcome.next (when_eq (by simp [waits]))
  · intro s checks verified
    obtain ⟨slots, keys, rings, pins⟩ := unlock_frame (s := s)
    have unlocks : exec .debugCheckDone s = .next (unlock s) :=
      congrArg Host.Outcome.next ((if_neg (not_not_intro checks)).trans (if_pos verified))
    exact ⟨_, unlocks, rfl, rfl, rfl, slots, keys, rfl, rfl, rings, pins⟩
  · intro s checks failed
    exact congrArg Host.Outcome.next ((if_neg (not_not_intro checks)).trans (if_neg (by simp [failed])))
  · intro s
    refine ⟨_, rfl, ?_⟩
    dsimp only
    split <;> rfl

/-- Settles O51: each request by the negotiation and the session that it needs. -/
theorem mailboxRequestsAreAnswered : Obligations.MailboxRequestsAreAnswered := by
  refine ⟨?_, ?_, ?_, ?_, ?_⟩
  · exact fun s f hf => unit_eq hf
  · intro s f n hf negotiated
    refine ⟨?_, ?_, ?_, fun i low high => ?_⟩ <;> refine (unit_eq hf).trans ?_
    · simp only [negotiated, beq_self_eq_true, Bool.and_self, if_true]
      rfl
    · simp only [negotiated, beq_self_eq_true, Bool.and_self, if_true]
      rfl
    · simp only [negotiated, Bool.not_true, Bool.false_eq_true, if_false, if_true]
      rfl
    · have notZero : i ≠ 0 := by omega
      have notAll : i ≠ 0xFF := by omega
      simp only [negotiated, Bool.not_true, Bool.false_eq_true, notZero, notAll, high, if_false, if_true]
      rfl
  · intro s f e hf negotiated few
    exact (unit_eq hf).trans (congrArg Host.Outcome.next (if_pos (by simp [negotiated, few])))
  · exact fun s f n hf => unit_eq hf
  · exact fun s f n hf held => ⟨(unit_eq hf).trans (congrArg Host.Outcome.next (when_eq held)),
      (unit_eq hf).trans (congrArg Host.Outcome.next (when_eq held)),
      (unit_eq hf).trans (congrArg Host.Outcome.next (when_eq held))⟩

/-- The state in which the work of function `f` has ended and its pool is zeroed, before its keys go (R521). -/
def confEnded (f : Nat) (s : State) : State :=
  let u := closeSessions f (killCommands f (errorRings f 7 s))
  zeroDev (65536 * (mmuOf u f).poolBase) (poolBytes u f) u

theorem confEnded_shaped (shaped : Shaped s) : Shaped (confEnded f s) :=
  (zeroDev_kept (closeSessions_kept (killCommands_kept (errorRings_kept (Kept.refl s))))).shape shaped

theorem confOf_leaveConf_self (on : (confOf s f).on = true) (shaped : Shaped s) (hf : f < 16) :
    confOf (leaveConf f s) f = { confOf (confEnded f s) f with
      on := false, keyH2d := [], keyD2h := [], keyRingIn := [], keyRingOut := [], winSize := 0 } := by
  have listed : f < (confEnded f s).sec.conf.length := (confEnded_shaped shaped).conf.symm ▸ hf
  have leaves : leaveConf f s = modConf f (fun c => { c with
      on := false, keyH2d := [], keyD2h := [], keyRingIn := [], keyRingOut := [], winSize := 0 }) (confEnded f s) :=
    if_neg (by simp [on])
  rw [leaves]
  exact getD_modAt listed

/-- Settles O52: leaving the mode ends the function's work first, which loses no function's entry (`confEnded_shaped`). -/
theorem confidentialModeIsEnteredAndLeft : Obligations.ConfidentialModeIsEnteredAndLeft := by
  refine ⟨?_, ?_, ?_, ?_⟩
  · intro s f n r x hf held allowed
    change execConfSet f n r s = _
    simp only [execConfSet, unit_eq hf, held, allowed, Bool.false_eq_true, if_false, ok_eq]
    rfl
  · intro s f n r x hf held refused
    change execConfSet f n r s = _
    simp only [execConfSet, unit_eq hf, held, refused, if_true, ok_eq]
    rfl
  · intro s f n hf held on
    exact (unit_eq hf).trans (congrArg Host.Outcome.next ((if_neg (by simp [held])).trans (if_pos on)))
  · intro s f on shaped hf
    rw [confOf_leaveConf_self on shaped hf]
    exact ⟨rfl, rfl, rfl, rfl, rfl⟩

end Sys2Proof

/-! The safety stream: its commands and its events (15_functional_safety; O53, O54). -/

namespace Sys2Proof
open Sys2Proof.Machine Sys2Proof.Laws

variable {s t : State}

theorem next_runConfig {id op : Nat} {c : Cmd} {f : Cmd → State → State} (ready : ReadyAs s id 0x70 c)
    (action : byteAt c.params 0 = op) (runs : f c s = t) : ok (runConfig id op f s) = .next t :=
  next_runReady ready ((if_pos action).trans runs)

/-- Settles O53: each command by the state of the stream that it needs. -/
theorem safetyCommandsMoveTheStream : Obligations.SafetyCommandsMoveTheStream := by
  refine ⟨?_, ?_, ?_, ?_, ?_, ?_, ?_⟩
  · exact fun s id c ready action pass => next_runConfig ready action (by simp only [runConfigure, pass])
  · intro s id forms still
    change execPartitionFormed s = _
    simp only [execPartitionFormed, forms, ok_eq]
    exact congrArg Host.Outcome.next (when_eq (by simp [still]))
  · intro s id c ready action tested goldens
    refine ⟨_, next_runConfig ready action (if_neg ?_), rfl, rfl, rfl, rfl, rfl, rfl, rfl⟩
    simp [tested, goldens]
  · intro s id r c ready action running run
    refine ⟨_, next_runConfig ready action ((if_neg (not_not_intro running)).trans ?_), rfl, rfl, rfl, rfl, rfl⟩
    simp only [run]
  · exact fun s id c ready action latched => next_runConfig ready action (if_neg (not_not_intro latched))
  · intro s id c l ready idle bound reads
    refine next_runReady ready ((if_neg (by simp [idle])).trans ((if_neg ?_).trans (by simp only [reads])))
    simpa [Option.isSome_iff_ne_none] using bound
  · intro s id c r ready configured
    refine ⟨fun passes => ?_, fun b fails => ?_⟩
    · exact next_runReady ready ((if_neg (not_not_intro configured)).trans (by simp only [passes]))
    · exact next_runReady ready ((if_neg (not_not_intro configured)).trans (by simp only [fails, stSafety]))

/-- The end of a job leaves its frame with the job's vector, also where the job frees its fret. -/
theorem frames_endJob {no i : Nat} {j : SafetyJob} {v : List Nat} {f : SafFrame} (here : s.saf.frames[i]? = some f) :
    (endJob no j (modFrameAt i (setJob j v) s)).saf.frames[i]? = some (setJob j v f) := by
  unfold endJob
  split <;> exact getElem?_modAt here

theorem setJob_decided {j : SafetyJob} {v : List Nat} {f : SafFrame} : (setJob j v f).decided = f.decided := by
  unfold setJob
  split <;> rfl

/-- Settles O54: the job's vector stays in its frame (`frames_endJob`), and `latch` acts on a RUNNING stream alone. -/
theorem safetyEventsDecideAndLatch : Obligations.SafetyEventsDecideAndLatch := by
  refine ⟨?_, ?_, ?_, ?_, ?_, ?_⟩
  · intro s j v i f frame here
    change execSafetyJobEnd j v s = _
    simp only [execSafetyJobEnd, frame, here, Option.map_some, Option.getD_some, frames_endJob here, setJob_decided, ok_eq]
    rfl
  · intro s i ended
    change execFrameDeadlineExpiry s = _
    simp only [execFrameDeadlineExpiry, ended, ok_eq]
  · intro s runs
    exact ⟨_, congrArg Host.Outcome.next (if_neg (by simp [runs])), rfl, rfl⟩
  · exact fun s p a hp ha => ⟨unit_eq hp, unit_eq ha, rfl⟩
  · exact fun s k running => latch_running running
  · exact fun s k other => latch_else other

end Sys2Proof

/-! What a commit changes (05_command_rings R211; O55). -/

namespace Sys2Proof
open Sys2Proof.Machine Sys2Proof.Laws

variable {s t : State} {c : Cmd}

theorem commitPowerHint_of_room (few : hintsHeld s c.func < 8) : commitPowerHint c s =
    { s with hints := { s.hints with next := s.hints.next + 1, list := s.hints.list ++
      [{ id := s.hints.next, func := c.func, start := c.accepted, leadUs := leAt c.desc 16 4, durationUs := leAt c.desc 20 4,
         powerDw := leAt c.desc 24 2, strings := bf (byteAt c.desc 26) 3 0 }] } } := if_neg (Nat.not_le.2 few)

theorem fills_of_mem_modSession {f sid n : Nat} {y : Session}
    (listed : y ∈ (modSession f sid (fun x => { x with fills := x.fills.map (fun _ => n) }) s).atn.sessions)
    (func : y.func = f) (own : y.sid = sid) : ∀ v ∈ y.fills, v = n := by
  obtain ⟨x, -, changed⟩ := List.mem_map.1 listed
  dsimp only at changed
  split at changed
  · subst changed
    simp
  · next other => exact absurd ⟨changed ▸ func, changed ▸ own⟩ other

theorem bindOf_releaseBind_self {b : Bind} : bindOf (releaseBind b s) b.id = none := by
  refine List.find?_eq_none.2 fun x listed => ?_
  have differs := (List.mem_filter.1 listed).2
  simpa using differs

theorem fillCopies_placements {m : Image} {es : List PlaceEntry} {l : List WCopy} :
    (l.foldl (fillCopy m es) s).stream.placements = s.stream.placements := by
  induction l generalizing s with
  | nil => rfl
  | cons w l ih => rw [List.foldl_cons, ih, fillCopy_stream]

theorem commitModelPlace_placements {m : Image} (installed : imageVersion s c.model c.bound.version = some m)
    (inForce : m.inForce = true) (held : m.released = false) : (commitModelPlace c s).stream.placements =
      s.stream.placements.filter (fun p => !(p.func == c.func && p.handle == c.model)) ++
        [{ func := c.func, handle := c.model, version := c.bound.version, entries := placeEntries c }] := by
  simp only [commitModelPlace, installed, inForce, held, Bool.not_true, Bool.or_self, Bool.false_eq_true, if_false,
    settlePins_placements, fillCopies_placements]

theorem commitInstallBegin_installs {r : Request} (pass : beginFail s c = none) (request : beginRequest s c = some r) :
    ∃ t, commitInstallBegin c s = .ok t ∧ ∃ i ∈ t.wst.installs, i.xfer = s.wst.nextXfer ∧ i.handle = c.model ∧
      i.port = portOf c.func ∧ i.state = .open ∧ i.len = leAt c.params 0 8 ∧ i.manifest = r.manifest ∧ i.durable = [] ∧
      i.buffer = [] := by
  refine ⟨_, by simp only [commitInstallBegin, pass, request]; rfl, _, List.mem_append_right _ (List.mem_singleton.2 rfl), ?_⟩
  exact ⟨rfl, rfl, rfl, rfl, rfl, rfl, rfl, rfl⟩

/-- What the commit of an install leaves: the other installs, and the images with the new one alone in force of its handle. -/
theorem commitInstallCommit_images {i : Install} (here : installFor s c.model (portOf c.func) = some i) :
    ∃ m : Image, (m.id = i.image ∧ m.handle = i.handle ∧ m.inForce = true ∧ m.len = i.len ∧ m.cells = i.cells) ∧ ∃ u : State,
      (commitInstallCommit c s).wst.installs = u.wst.installs.filter (fun x => x.xfer != i.xfer) ∧
      (commitInstallCommit c s).wst.images =
        u.wst.images.map (fun o => if o.handle = i.handle then { o with inForce := false } else o) ++ [m] := by
  simp only [commitInstallCommit, here]
  refine ⟨_, ?_, _, (sameImages_foldl fun _ _ => reloadPinned_sameImages).1.trans checkpointed_sameImages.1,
    (sameImages_foldl fun _ _ => reloadPinned_sameImages).2.trans checkpointed_sameImages.2⟩
  exact ⟨rfl, rfl, rfl, rfl, rfl⟩

theorem commitModelRelease_images {m : Image} (pass : releaseFail s c = none)
    (installed : imageVersion s c.model c.bound.version = some m) : ∃ t u : State, commitModelRelease c s = .ok t ∧
      t.wst.images = u.wst.images.map (fun x => if x.id = m.id then { x with released := true, heldKey := keyOf s m.id } else x) := by
  refine ⟨_, _, by simp only [commitModelRelease, pass, installed]; rfl, checkpointed_sameImages.2⟩

/-- Settles O55: each opcode has its commit, and what follows the change in it keeps what was changed. -/
theorem commitsChangeTheirUnits : Obligations.CommitsChangeTheirUnits := by
  refine ⟨?_, ?_, ?_, ?_, ?_, ?_, ?_, ?_, ?_, ?_, ?_, ?_, ?_⟩
  · intro s c op few
    simp only [commitState, op, commitPowerHint_of_room few]
  · intro s c x l m op held chain
    refine ⟨_, by simp only [commitState, op, commitPrefixAttach, held, chain]; rfl, ?_⟩
    exact fun y listed func own => fills_of_mem_modSession listed func own
  · intro s c op
    exact ⟨_, by simp only [commitState, op]; rfl, rfl⟩
  · intro s c p op pass
    refine ⟨_, by simp only [commitState, op, commitCameraBind, pass]; rfl, ?_⟩
    split <;> rfl
  · intro s c b op bound
    exact ⟨_, by simp only [commitState, op, commitCameraUnbind, bound]; rfl, bindOf_releaseBind_self⟩
  · intro s c m op installed inForce held
    refine ⟨_, by simp only [commitState, op]; rfl, { func := c.func, handle := c.model, version := c.bound.version, entries := placeEntries c }, ?_, rfl, rfl, rfl, rfl⟩
    rw [commitModelPlace_placements installed inForce held]
    exact List.mem_append_right _ (List.mem_singleton.2 rfl)
  · intro s c r op pass request
    simp only [commitState, op]
    exact commitInstallBegin_installs pass request
  · intro s c i op here
    obtain ⟨m, fields, u, installs, images⟩ := commitInstallCommit_images here
    refine ⟨_, by simp only [commitState, op]; rfl, ?_, ⟨m, ?_, fields⟩, ?_⟩
    · rw [installs]
      exact fun k listed => by simpa using (List.mem_filter.1 listed).2
    · rw [images]
      exact List.mem_append_right _ (List.mem_singleton.2 rfl)
    · rw [images]
      intro x listed handle inForce
      obtain old | new := List.mem_append.1 listed
      · obtain ⟨o, -, rfl⟩ := List.mem_map.1 old
        by_cases same : o.handle = i.handle
        · rw [if_pos same] at inForce
          exact absurd inForce Bool.false_ne_true
        · rw [if_neg same] at handle
          exact absurd handle same
      · rw [List.mem_singleton.1 new]
        exact fields.1
  · intro s c i op here
    refine ⟨_, by simp only [commitState, op, commitInstallCancel, here]; rfl, fun k listed => ?_⟩
    have differs := (List.mem_filter.1 listed).2
    simpa using differs
  · intro s c m op pass installed
    obtain ⟨t, u, commits, images⟩ := commitModelRelease_images pass installed
    refine ⟨t, by simp only [commitState, op, commits], ?_⟩
    rw [images]
    intro x listed same
    obtain ⟨o, -, rfl⟩ := List.mem_map.1 listed
    by_cases mine : o.id = m.id
    · rw [if_pos mine]
    · rw [if_neg mine] at same
      exact absurd same mine
  · intro s c op form idle
    exact ⟨_, by simp only [commitState, op, form, idle, ne_eq, not_true_eq_false, if_false, if_true]; rfl, rfl, rfl, rfl, rfl, rfl⟩
  · intro s c l op idle reads
    refine ⟨_, by simp only [commitState, op, idle, if_true, commitGoldenSet, reads]; rfl, rfl, rfl, rfl, ?_⟩
    dsimp only
    split
    · simp
    · assumption
  · intro s c op configured
    simp only [commitState, op, commitSelftest, configured, if_true]

end Sys2Proof

/-! Power domains (13_power_domains, 19_clocks_startup; O56). -/

namespace Sys2Proof
open Sys2Proof.Machine Sys2Proof.Laws

variable {s t : State}

/-- The enables that a power-good lets follow in domain `d`, with `good` the power-goods now in (R434). -/
def followedEnables (s : State) (good d : Nat) : Nat :=
  if inPhase s d .regulator then
    ofBits ((enablesOf d).filter (fun e => e == (enablesOf d).headD 0 || bit good ((enablesOf d).headD 0))) else 0

theorem assertEnables_of_phase {d : Nat} (follows : d = 2 ∨ d = 3) : (if inPhase s d .regulator then assertEnables d s else s) =
    { s with pwr := { s.pwr with railEnable := s.pwr.railEnable ||| followedEnables s s.pwr.railGood d } } := by
  unfold followedEnables
  split
  · simp only [assertEnables, if_pos follows]
  · rw [Nat.or_zero]

/-- Settles O56: each phase ends by its own event, when the domain is in it. -/
theorem domainsComeUpAndGoDown : Obligations.DomainsComeUpAndGoDown := by
  refine ⟨?_, ?_, ?_, ?_, ?_, ?_, ?_, ?_, ?_, ?_, ?_, ?_, ?_, ?_, ?_⟩
  · exact fun s id c ready pass => next_runReady ready (by simp only [runDomainSet, pass])
  · exact fun s id c e ready fails => next_runReady ready (by simp only [runDomainSet, fails])
  · intro s r hr enabled
    refine ⟨_, (unit_eq hr).trans (congrArg Host.Outcome.next (if_neg (by simp [enabled]))), ?_⟩
    simp only [List.foldl_cons, List.foldl_nil, assertEnables_of_phase (.inl rfl), assertEnables_of_phase (.inr rfl)]
    rfl
  · exact fun s r hr off => (unit_eq hr).trans (congrArg Host.Outcome.next (if_pos (by simp [off])))
  · intro s r hr enabled missing started early
    exact (unit_eq hr).trans (congrArg Host.Outcome.next (if_pos (by simp [enabled, missing, started, early])))
  · exact fun s d hd phase good => (unit_eq hd).trans (congrArg Host.Outcome.next (when_eq (by simp [phase, good])))
  · exact fun s d hd phase => (unit_eq hd).trans (congrArg Host.Outcome.next (when_eq phase))
  · intro s d m hd phase required
    exact (unit_eq hd).trans (congrArg Host.Outcome.next (if_neg (by simp only [phase, required]; decide)))
  · exact fun s d b hd phase cold => (unit_eq hd).trans (congrArg Host.Outcome.next (if_neg (by simp [phase, cold])))
  · exact fun s d b hd phase hot => (unit_eq hd).trans (congrArg Host.Outcome.next (if_pos (by simp [hot])))
  · intro s d hd leaving resting done noGap free
    have may : ¬ (domSt s d ≠ .leaving ∨ (domainOf s d).goingDown = true ∨ workDone s d = false ∨ fwGap s = true ∨
        (decide (lowState s d = 1) = true ∧ savesRegisters s d = true ∧ saveAreaBusy s = true)) := by
      rintro (h | h | h | h | ⟨low, saves, busy⟩)
      · exact h leaving
      · exact Bool.false_ne_true (resting.symm.trans h)
      · exact Bool.false_ne_true (h.symm.trans done)
      · exact Bool.false_ne_true (noGap.symm.trans h)
      · exact Bool.false_ne_true ((free (of_decide_eq_true low) saves).symm.trans busy)
    refine (unit_eq hd).trans (congrArg Host.Outcome.next ((if_neg may).trans ?_))
    simp only [decide_eq_true_eq]
  · intro s d hd leaving down
    exact (unit_eq hd).trans (congrArg Host.Outcome.next (if_neg (by simp [leaving, down])))
  · intro s d hd on auto runs low idle unwanted
    refine (unit_eq hd).trans (congrArg Host.Outcome.next (if_pos ?_))
    simp [on, auto, runs, low, idle, unwanted, -List.contains_eq_mem]
  · exact fun s f writable phys => next_regWrite writable (when_eq phys)
  · intro s l started before late mounted up
    refine congrArg Host.Outcome.next (if_neg ?_)
    simp [started, Nat.not_le.2 before, Nat.not_lt.2 late, mounted, up]

end Sys2Proof

/-! Power, temperature and supplies (14_capo_thermal_supply, 21_package_electrical; O57). -/

namespace Sys2Proof
open Sys2Proof.Machine Sys2Proof.Laws

variable {s t : State}

theorem eventOnly_postBoth {a b c d : Nat} : EventOnly s (postBoth a b c d s) :=
  EventOnly.trans eventOnly_postTo eventOnly_postTo

theorem Laws.EventOnly.capo (h : EventOnly s t) : t.capo = s.capo ∧ t.capoMore = s.capoMore := by
  unfold EventOnly at h
  rw [h]
  exact ⟨rfl, rfl⟩

theorem capBubble_le {p c d : Nat} : capBubble s p c d ≤ bubbleMax := by
  unfold capBubble clampInt
  split
  · exact Nat.le_of_lt_succ (Nat.mod_lt _ (Nat.succ_pos _))
  · omega

section Marks

variable {drew capped : Prop} [Decidable drew] [Decidable capped]

/-- A tick's draw and its event leave the power state as its arithmetic made it. -/
theorem capo_marked : (if capped then capoEvent 1 (if drew then drawn 1 s else s) else if drew then drawn 1 s else s).capo = s.capo := by
  split <;> split <;> rfl

theorem marked_frame : (if capped then capoEvent 1 (if drew then drawn 1 s else s) else if drew then drawn 1 s else s) = { s with
    capoMore := { s.capoMore with
      events := (if capped then capoEvent 1 (if drew then drawn 1 s else s) else if drew then drawn 1 s else s).capoMore.events }
    free := (if capped then capoEvent 1 (if drew then drawn 1 s else s) else if drew then drawn 1 s else s).free } := by
  split <;> split <;> rfl

end Marks

theorem bubbleString_ge {b clamp ramp : Nat} {live : Bool} {x : CapoString} {est : StringPower} :
    b ≤ (bubbleString b clamp ramp live x est).bubble ∧ clamp ≤ (bubbleString b clamp ramp live x est).bubble :=
  ⟨Nat.le_max_left _ _, Nat.le_trans (Nat.le_max_right _ _) (Nat.le_max_right _ _)⟩

theorem bubbles_of_mem {b ramp : Nat} {x : CapoString} {est : Nat → StringPower}
    (listed : x ∈ s.capo.strings.mapIdx (fun j x => bubbleString b s.capo.bClamp ramp (stringIn s j) x (est j))) :
    b ≤ x.bubble ∧ s.capo.bClamp ≤ x.bubble := by
  obtain ⟨j, hj, rfl⟩ := List.mem_mapIdx.1 listed
  exact bubbleString_ge

theorem Laws.GrantsOnly.wst (h : GrantsOnly s t) : t.wst.pgmDiesEff = s.wst.pgmDiesEff ∧ t.wst.journal = s.wst.journal ∧
    t.wst.images = s.wst.images ∧ t.wstMore.suspended = s.wstMore.suspended ∧ t.capo = s.capo ∧
    t = { s with wst := t.wst, wstMore := t.wstMore } := by
  unfold GrantsOnly at h
  rw [h]
  exact ⟨rfl, rfl, rfl, rfl, rfl, rfl⟩

theorem programBudget_le : programBudget s ≤ s.wst.pgmDies := by
  unfold programBudget
  split
  · exact Nat.zero_le _
  · exact Nat.min_le_left _ _

theorem programBudget_of_dip (held : (s.capo.dip || s.capo.holdoff) = true) : programBudget s = 0 := if_pos held

theorem setBudget_frame : (setBudget s).wst.pgmDiesEff = programBudget s ∧ (setBudget s).wst.journal = s.wst.journal ∧
    (setBudget s).wst.images = s.wst.images ∧ (setBudget s).wstMore.suspended = s.wstMore.suspended ∧
    (setBudget s).capo = s.capo ∧ setBudget s = { s with wst := (setBudget s).wst, wstMore := (setBudget s).wstMore } :=
  grantsOnly_programs.wst

/-- The state of a dip's start (R458), before the program budget follows it. -/
def dipEntered (s : State) : State :=
  let u := if s.capo.dip || s.capo.holdoff then s else beginDip s
  capoEvent 4 { u with capo := { u.capo with dip := true, holdoff := false, bClamp := dipClamp } }

theorem enterDip_eq : enterDip s = setBudget (dipEntered s) := rfl

/-- Settles O57: bounds of the bubble and of the program budget, and for each crossing the state it makes. -/
theorem powerThermalAndSupplyAct : Obligations.PowerThermalAndSupplyAct := by
  refine ⟨?_, ?_, ?_, ?_, ?_, ?_, ?_, ?_, ?_, ?_, ?_, ?_, ?_, ?_, ?_, ?_, ?_, ?_, ?_, ?_, ?_⟩
  · intro s l o
    refine ⟨_, rfl, ?_, ?_, ?_, ?_⟩ <;> dsimp only
    · rw [capo_marked]
      split
      · exact Nat.le_refl _
      · exact capBubble_le
    · rw [capo_marked]
      exact fun x listed => bubbles_of_mem listed
    · rw [capo_marked]
      exact ⟨_, _, rfl⟩
    · rw [capo_marked]
      exact marked_frame
  · intro s
    obtain ⟨eff, journal, images, -, -, frame⟩ := setBudget_frame (s := s)
    exact ⟨_, rfl, eff ▸ programBudget_le, fun held => eff.trans (programBudget_of_dip held), rfl, journal, images, frame⟩
  · intro s m kept spent
    exact ⟨_, congrArg Host.Outcome.next (if_neg (not_or.2 ⟨kept, spent⟩)), Nat.le_max_left _ _, rfl⟩
  · exact fun s j d hj hd => (unit_eq hj).trans (unit_eq hd)
  · exact fun s j d hj hd => (unit_eq hj).trans (unit_eq hd)
  · exact fun s j hj => unit_eq hj
  · exact fun s j d hj hd stuck => (unit_eq hj).trans ((unit_eq hd).trans (congrArg Host.Outcome.next (if_pos stuck)))
  · intro s j d hj hd
    change execDroopSelfCheck [(j, d)] s = _
    simp [execDroopSelfCheck, hj, hd, stuckDetector]
  · exact fun s l => rfl
  · exact fun s n v hn => unit_eq hn
  · intro s critical
    change execThermalCapStep s = _
    simp only [execThermalCapStep, critical, if_true, ok_eq]
  · intro s calm throttled
    change execThermalCapStep s = _
    simp only [execThermalCapStep, calm, throttled, Bool.false_eq_true, if_false, if_true, ok_eq]
  · intro s n calm free capped
    change execThermalCapStep s = _
    simp [execThermalCapStep, calm, free, capped]
  · intro s l on notTrip low high cooled
    refine ⟨_, congrArg Host.Outcome.next (if_neg ?_), congrArg CapoMore.levels eventOnly_postBoth.capo.2, eventOnly_postBoth.capo.1⟩
    simp only [on, cooled, Nat.not_lt.2 low, Nat.not_lt.2 high, beq_eq_false_iff_ne.2 notTrip]
    decide
  · exact fun s => congrArg Host.Outcome.next (if_pos (by simp))
  · intro s r mv hr dips
    refine ⟨_, (unit_eq hr).trans (congrArg Host.Outcome.next (if_pos dips)), ?_⟩
    obtain ⟨eff, -, -, -, capo, -⟩ := setBudget_frame (s := dipEntered (modRail r (fun x => { x with
      below := true, resetHit := x.below && x.resetHit, now := mv, minMv := min x.minMv mv, warnings := satAdd 16 x.warnings 1 }) s))
    rw [enterDip_eq, capo, eff]
    exact ⟨rfl, rfl, rfl, programBudget_of_dip rfl⟩
  · exact fun s r mv hr other => (unit_eq hr).trans (congrArg Host.Outcome.next (if_neg (by simp [other])))
  · intro s r mv m b hr below dips dip none
    refine ⟨_, (unit_eq hr).trans (congrArg Host.Outcome.next (if_neg (by simp [below]))), ?_⟩
    simp only [dips, none, Bool.not_true, Bool.false_eq_true, if_false, eventOnly_postBoth.capo]
    split <;> simp [modRail, dip]
  · intro s holds
    refine ⟨_, congrArg Host.Outcome.next (if_neg (by simp [holds])), ?_⟩
    obtain ⟨eff, -, -, suspended, capo, -⟩ := setBudget_frame (s := { s with
      capo := { s.capo with holdoff := false, bClamp := 0, strings := s.capo.strings.map (fun x => { x with climbing := true }) }
      wstMore := { s.wstMore with suspended := [] } })
    rw [capo, eff, suspended]
    refine ⟨rfl, rfl, ?_, rfl, fun dip => programBudget_of_dip (by simp [dip])⟩
    exact fun x listed => by
      obtain ⟨y, -, rfl⟩ := List.mem_map.1 listed
      rfl
  · exact fun s noDip => congrArg Host.Outcome.next (when_eq (by simp [noDip]))
  · intro s r mv hr
    refine (unit_eq hr).trans (congrArg Host.Outcome.next ?_)
    dsimp only
    generalize modRail r _ s = u
    exact match r, hr with
      | 0, _ | 1, _ | 2, _ | 3, _ | 4, _ | 5, _ | 6, _ | 7, _ | 8, _ | 9, _ | 10, _ | 11, _ | 12, _ | 13, _ | 14, _ | 15, _
      | 16, _ | 17, _ => rfl
      | n + 18, large => absurd large (by omega)

end Sys2Proof

/-! Clocks and resets (17_firmware_reset, 19_clocks_startup; O58). -/

namespace Sys2Proof
open Sys2Proof.Machine Sys2Proof.Laws

variable {s t : State}

/-- A reset keeps the lowest security version and the commands that wait, as every command does. -/
theorem answers_of_reset {i : Instr} (resets : exec i s = .next t) :
    Answers i s (fun u => s.fwu.minSecVer ≤ u.fwu.minSecVer ∧ u.pending = s.pending ∧ u = t) :=
  have kept : Kept s t := exec_keptR t resets
  ⟨t, resets, kept.secVer, kept.pending, rfl⟩

theorem clockFaults_string {k : Nat} (string : k ≤ 3) : clockFaults [k] s = settleDispatch (quarantineString k 3 (noteFault k s)) := by
  have notRoot : ¬ 4 ≤ k := by omega
  simp [clockFaults, clockFault, string, notRoot]

/-- Settles O58: a reset answers its state, and `answers_of_reset` adds what every command keeps. -/
theorem clocksFailAndResetsStart : Obligations.ClocksFailAndResetsStart := by
  refine ⟨?_, ?_, ?_, ?_, ?_, ?_, ?_, ?_, ?_, ?_, ?_, ?_, ?_, ?_, ?_, ?_, ?_, ?_, ?_, ?_⟩
  · exact fun s l => rfl
  · exact fun s k string runs => clockFaults_string string
  · intro s runs
    have own : (pllClocks .ddr).filter (bit s.clk.running) = [9] := by simp [pllClocks, runs]
    change Host.Outcome.next (clockFaults ((pllClocks .ddr).filter (bit s.clk.running)) s) = _
    rw [own]
    rfl
  · exact fun s p => rfl
  · intro s before clocked
    have fails : exec (.aonRtcMonitorWindow true false) s =
        .next (aonFault { s with clk := { s.clk with offAon := true, offRtc := false } }) := by
      change execAonRtcMonitorWindow true false s = _
      simp [execAonRtcMonitorWindow, before, clocked]
    exact ⟨_, fails, rfl, by simp [aonFault, drnEvent, modDrone, bit], rfl, rfl⟩
  · intro s before clocked
    have fails : exec (.aonRtcMonitorWindow false true) s =
        .next (rtcFault { s with clk := { s.clk with offAon := false, offRtc := true } }) := by
      change execAonRtcMonitorWindow false true s = _
      simp [execAonRtcMonitorWindow, before, clocked]
    exact ⟨_, fails, rfl, rfl, rfl, rfl⟩
  · exact fun s => rfl
  · exact fun s dead => answers_of_reset (congrArg Host.Outcome.next (if_neg (by simp [dead])))
  · exact fun s supplied => answers_of_reset (congrArg Host.Outcome.next (if_pos supplied))
  · intro s f v writable phys warm key allowed supplied
    exact answers_of_reset (next_regWrite writable ((when_eq (by simp [phys, warm, key, allowed])).trans (if_pos supplied)))
  · exact fun s supplied noGap =>
      answers_of_reset (congrArg Host.Outcome.next ((when_eq (by simp [noGap])).trans (if_pos supplied)))
  · exact fun s p hp free => (unit_eq hp).trans (congrArg Host.Outcome.next (if_neg (by simp [free])))
  · exact fun s p hp held => (unit_eq hp).trans (congrArg Host.Outcome.next (if_neg (by simp [held])))
  · exact fun s p hp free => (unit_eq hp).trans (congrArg Host.Outcome.next (when_eq (by simp [free])))
  · exact fun s f hf there => (unit_eq hf).trans (congrArg Host.Outcome.next (if_neg (by simp [there])))
  · intro s p n e hp
    refine (unit_eq hp).trans ?_
    simp only [List.isEmpty_iff]
    rfl
  · intro s f v writable phys keep start free
    refine next_regWrite writable ?_
    simp only [phys, keep, start, free, Bool.not_true, Bool.false_eq_true, if_false]
  · intro s f v writable phys keep start refused
    refine next_regWrite writable ?_
    simp only [phys, keep, start, refused, Bool.not_true, Bool.false_eq_true, if_false, if_true]
  · intro s e engine fret
    change execEngineResetDone true s = _
    simp [execEngineResetDone, engine, fret, engineFrets, zeroEngine]
  · intro s e b engine string
    change execEngineResetDone b s = _
    simp only [execEngineResetDone, engine, string, Bool.or_true, if_true, ok_eq]

end Sys2Proof

/-! Links, errors, function controls and the host window (18_host_ports; O59). -/

namespace Sys2Proof
open Sys2Proof.Machine Sys2Proof.Laws

variable {s t : State} {f v : Nat}

/-- A vector that ends unmasked is none at its reset value, so it reads back from any table. -/
theorem vectorOf_modVector_self {g : Vector → Vector} (unmasked : (g (vectorOf s f v)).masked = false) :
    vectorOf (modVector f v g s) f v = g (vectorOf s f v) := by
  have listed : g (smGet {} s.irq.vecs (vecKey f v)) ≠ {} := fun reset =>
    Bool.false_ne_true (unmasked.symm.trans (congrArg Vector.masked reset))
  simp only [vectorOf, modVector, smMod, smSet, if_neg listed, smGet_put, if_true]

/-- The state in which vector `v` of function `f` is unmasked, before its pending message is sent (R559). -/
def unmasked (f v : Nat) (s : State) : State := modVector f v (fun w => { w with masked := false }) s

theorem vectorOf_unmasked : vectorOf (unmasked f v s) f v = { vectorOf s f v with masked := false } :=
  vectorOf_modVector_self rfl

theorem exec_msixUnmask (hf : f < 16) (hv : v < vectorCount f) :
    exec (.msixUnmask f v) s = .next (sendPending f (unmasked f v s) v) := (unit_eq hf).trans (unit_eq hv)

/-- The state in which the message that vector `v` held back has been sent. -/
def messageSent (f v : Nat) (s : State) : State :=
  sendMsg f v (modVector f v (fun w => { w with pending := false }) (unmasked f v s))

theorem vectorOf_messageSent : vectorOf (messageSent f v s) f v = { vectorOf s f v with masked := false, pending := false } := by
  refine (vectorOf_modVector_self (s := unmasked f v s) (g := fun w => { w with pending := false }) ?_).trans ?_ <;>
    rw [vectorOf_unmasked]

theorem sent_messageSent : (messageSent f v s).irq.sent =
    { func := f, vector := v, addr := (vectorOf s f v).addr, data := (vectorOf s f v).data } :: s.irq.sent := by
  have same : vectorOf (modVector f v (fun w => { w with pending := false }) (unmasked f v s)) f v =
      { vectorOf s f v with masked := false, pending := false } := vectorOf_messageSent
  simp only [messageSent, sendMsg, same]
  rfl

theorem sendPending_unmasked_of_pending (pending : (vectorOf s f v).pending = true) (unmaskedAll : (funcCfg s f).msixMask = false)
    (enabled : (funcCfg s f).msixEn = true) (may : canMaster s f = true) :
    sendPending f (unmasked f v s) v = messageSent f v s := by
  have cfg : funcCfg (unmasked f v s) f = funcCfg s f := rfl
  have master : canMaster (unmasked f v s) f = true := may
  refine if_pos ?_
  rw [vectorOf_unmasked, cfg, unmaskedAll, enabled, master]
  simp only [pending]
  decide

theorem sendPending_unmasked_of_idle (idle : (vectorOf s f v).pending = false) :
    sendPending f (unmasked f v s) v = unmasked f v s := by
  refine if_neg ?_
  rw [vectorOf_unmasked]
  simp [idle]

theorem dataReadFailed_of_going {id code : Nat} {c : Cmd} (here : cmdOf s id = some c)
    (going : c.phase = .ready ∨ c.phase = .running) : dataReadFailed id code s =
      failCmd id { status := 0x7F, result := 6 * 2 ^ 28 + code } (logAer (portOf c.func) 2 s) := by
  obtain ready | running := going
  · simp only [dataReadFailed, here, ready, stInternal]
  · simp only [dataReadFailed, here, running, stInternal]

theorem exec_completionError {r f k : Nat} (low : 1 ≤ k) (high : k ≤ 4) (owner : ringOwner s r = some f) :
    exec (.completionError (.ring r) k) s = .next (ringError r (if (ringOf s r).typ = 0 then 2 else 3) (logAer (portOf f) 2 s)) := by
  refine congrArg Host.Outcome.next ((if_neg (by omega)).trans ?_)
  simp only [requestFailed, owner]

/-- Settles O59: each event of a link, a function or the window by its guard. -/
theorem linksErrorsAndTheHostWindowAct : Obligations.LinksErrorsAndTheHostWindowAct := by
  refine ⟨?_, ?_, ?_, ?_, ?_, ?_, ?_, ?_, ?_, ?_, ?_, ?_, ?_, ?_, ?_, ?_, ?_, ?_, ?_, ?_, ?_, ?_, ?_, ?_, ?_⟩
  · intro s p v w hp free on slow fast width
    have named : [1, 2, 4].contains w = true := by simpa using width
    refine (unit_eq hp).trans (congrArg Host.Outcome.next (if_neg ?_))
    simp only [free, on, Nat.not_lt.2 slow, Nat.not_lt.2 fast, named]
    decide
  · exact fun s p hp up => (unit_eq hp).trans (congrArg Host.Outcome.next (when_eq up))
  · exact fun s p hp up allowed => (unit_eq hp).trans (congrArg Host.Outcome.next (when_eq (by simp [up, allowed])))
  · exact fun s p hp low => (unit_eq hp).trans (congrArg Host.Outcome.next (if_neg (by simp [low])))
  · exact fun s p hp => unit_eq hp
  · exact fun s p hp => unit_eq hp
  · exact fun s f b o hf => unit_eq hf
  · intro s r f k low high owner going typ
    rw [exec_completionError low high owner]
    exact congrArg Host.Outcome.next (ringError_of_going (s := logAer (portOf f) 2 s) going typ)
  · intro s r f k low high owner typ
    rw [exec_completionError low high owner, typ]
    rfl
  · intro s id k c low high here going
    refine congrArg Host.Outcome.next ((if_neg (by omega)).trans ?_)
    exact congrArg settleDispatch (dataReadFailed_of_going here going)
  · exact fun s p hp => unit_eq hp
  · exact fun s f hf master => (unit_eq hf).trans (congrArg (fun t => Host.Outcome.next (settleDispatch t)) (if_neg (by simp [master])))
  · intro s f hf awake
    refine (unit_eq hf).trans (congrArg (fun t => Host.Outcome.next (settleDispatch t)) ((if_neg (by simp [awake])).trans ?_))
    simp only [stoppedWith, Bool.true_and]
  · intro s f v hf hv pending unmaskedAll enabled may
    refine ⟨_, (exec_msixUnmask hf hv).trans
      (congrArg Host.Outcome.next (sendPending_unmasked_of_pending pending unmaskedAll enabled may)), sent_messageSent, ?_, ?_, rfl⟩ <;>
      rw [vectorOf_messageSent]
  · intro s f v hf hv idle
    refine ⟨_, (exec_msixUnmask hf hv).trans (congrArg Host.Outcome.next (sendPending_unmasked_of_idle idle)), rfl, ?_, ?_, rfl⟩ <;>
      rw [vectorOf_unmasked]
    exact idle
  · exact fun s f w hf early => (unit_eq hf).trans (congrArg Host.Outcome.next (if_pos (by simp [early])))
  · intro s f w hf ready absent
    exact (unit_eq hf).trans (congrArg Host.Outcome.next ((if_neg (by simp [ready])).trans (if_pos (by simp [absent]))))
  · intro s f w hf ready there
    exact (unit_eq hf).trans (congrArg Host.Outcome.next ((if_neg (by simp [ready])).trans (if_neg (by simp [there]))))
  · exact fun s p hp enabled => (unit_eq hp).trans (congrArg Host.Outcome.next (if_neg (by simp [enabled])))
  · intro s p h hp two enabled
    have port : portSt (modPort p (ptmSuccess h s) s) p = ptmSuccess h s (portSt s p) := getD_modAt (two.symm ▸ hp)
    have counts : exec (.ptmDialogue p (some h)) s = .next (drawn 1 (modPort p (ptmSuccess h s) s)) :=
      (unit_eq hp).trans (congrArg Host.Outcome.next (if_neg (by simp [enabled])))
    have read : portSt (drawn 1 (modPort p (ptmSuccess h s) s)) p = ptmSuccess h s (portSt s p) := port
    refine ⟨_, counts, ?_, ?_, ?_, ?_, rfl⟩ <;> rw [read] <;> rfl
  · exact fun s f hf => unit_eq hf
  · intro s f o n b hf opened inside reads
    change execBar4WindowRead f o n s = _
    simp [execBar4WindowRead, unit_eq hf, opened, inside, reads]
  · intro s f o n e hf opened inside fails
    change execBar4WindowRead f o n s = _
    simp [execBar4WindowRead, unit_eq hf, opened, inside, fails]
  · intro s f o b l hf opened inside outside stages
    change execBar4WindowWrite f o b s = _
    simp [execBar4WindowWrite, unit_eq hf, opened, inside, outside, stages]
  · intro s f o b hf shut
    refine (unit_eq hf).trans (congrArg Host.Outcome.next (if_pos ?_))
    rcases shut with h | h | h <;> simp [h]

end Sys2Proof

/-! Register writes (20_register_map, 18_host_ports R553; O60). -/

namespace Sys2Proof
open Sys2Proof.Machine Sys2Proof.Laws

variable {s t : State} {f b o w v n hi lo i : Nat} {a : Access}

/-- The access of a naturally aligned write of 4 or 8 bytes (R553). -/
def alignedAccess (o w v : Nat) : Access := { reg := o / 8 * 8, wide := w == 8, high := o % 8 == 4, value := v % 2 ^ (8 * w) }

theorem accessOf_of_aligned (size : w = 4 ∨ w = 8) (aligned : o % w = 0) : accessOf o w v = some (alignedAccess o w v) := by
  obtain rfl | rfl := size
  · simp only [accessOf, aligned]
    rfl
  · have whole : o / 8 * 8 = o := by omega
    have low : (o % 8 == 4) = false := by simp [aligned]
    simp only [accessOf, alignedAccess, aligned, whole]
    rfl

theorem accessOf_of_unaligned (broken : w ≠ 4 ∧ w ≠ 8 ∨ o % w ≠ 0) : accessOf o w v = none := by
  unfold accessOf
  rw [if_neg, if_neg]
  · rintro ⟨rfl, aligned⟩
    exact broken.elim (fun size => size.1 rfl) (fun h => h aligned)
  · rintro ⟨rfl, aligned⟩
    exact broken.elim (fun size => size.2 rfl) (fun h => h aligned)

theorem physWrite_of_block (block : a.reg / 0x10000 = b + 1) (hb : b ≤ 12) :
    physWrite f a s = if regServed s f b && !regGuarded s f b then blockWrite f b a s else s := by
  have above : ¬ a.reg < 0x10000 := by omega
  have below : a.reg < 0xE0000 := by omega
  have same : a.reg / 0x10000 - 1 = b := by omega
  simp only [physWrite, if_neg above, if_pos below, same]

theorem virtWrite_of_block (block : 0x10000 ≤ a.reg) : virtWrite f a s = s := by
  unfold virtWrite
  rw [if_neg (by omega), if_neg (by omega), if_neg (by omega)]

/-- What a physical function's aligned write of a block's register does, when the block is served and unguarded. -/
theorem exec_registerWrite_of_block (phys : isPhys f = true) (writable : Writable s f b) (hb : b ≤ 12) (block : o / 0x10000 = b + 1)
    (size : w = 4 ∨ w = 8) (aligned : o % w = 0) :
    exec (.registerWrite f o w v) s = .next (blockWrite f b (alignedAccess o w v) s) := by
  obtain ⟨hf, served, unguarded⟩ := writable
  have inBlock : (alignedAccess o w v).reg / 0x10000 = b + 1 := by
    change o / 8 * 8 / 0x10000 = b + 1
    omega
  change execRegisterWrite f o w v s = _
  simp [execRegisterWrite, unit_eq hf, accessOf_of_aligned size aligned, phys, physWrite_of_block inBlock hb, served, unguarded]

theorem bf_mod (field : hi < n) (order : lo ≤ hi) : bf (v % 2 ^ n) hi lo = bf v hi lo := by
  refine Nat.eq_of_testBit_eq fun j => ?_
  simp only [bf, Nat.testBit_mod_two_pow, Nat.testBit_shiftRight]
  by_cases inside : j < hi + 1 - lo
  · have below : lo + j < n := by omega
    simp [below]
  · simp [inside]

theorem bit_mod (h : i < n) : bit (v % 2 ^ n) i = bit v i := by
  simp [bit, Nat.testBit_mod_two_pow, h]

/-- A 32-bit register takes the low half of either width's value at its low half's offset. -/
theorem write32_of_low {g : Nat → State → State} (size : w = 4 ∨ w = 8) (low : o % 8 = 0) :
    write32 (alignedAccess o w v) g s = g (v % 2 ^ 32) s := by
  have value : v % 2 ^ (8 * w) % 2 ^ 32 = v % 2 ^ 32 := by
    obtain rfl | rfl := size
    · exact Nat.mod_mod _ _
    · exact Nat.mod_mod_of_dvd v (by decide)
  exact (if_neg (by simp [alignedAccess, low])).trans (congrArg (g · s) value)

theorem bowWrite_slice (phys : isPhys f = true) (size : w = 4 ∨ w = 8) : bowWrite f (alignedAccess 0x10008 w v) s =
    { s with bow := { s.bow with sliceUs := ranged 50 2000 s.bow.sliceUs (bf v 15 0) } } := by
  have reg : (alignedAccess 0x10008 w v).reg % 0x10000 = 0x08 := by simp [alignedAccess]
  simp only [bowWrite, phys, reg, Bool.not_true, Bool.false_eq_true, if_false, if_true]
  rw [write32_of_low size rfl, bf_mod (by decide) (by decide)]

theorem safWrite_ctrl (phys : isPhys f = true) (size : w = 4 ∨ w = 8) : safWrite f (alignedAccess 0xA0008 w v) s =
    if s.saf.lock then s else { s with saf := { s.saf with
      lock := bit v 16, enable := bit v 8, safetyFunc := ranged 0 15 s.saf.safetyFunc (bf v 7 0) } } := by
  have reg : (alignedAccess 0xA0008 w v).reg % 0x10000 = 0x08 := by simp [alignedAccess]
  simp only [safWrite, phys, reg, Bool.not_true, Bool.false_eq_true, if_false]
  rw [write32_of_low size rfl, bf_mod (by decide) (by decide), bit_mod (by decide), bit_mod (by decide)]

theorem capoWrite_events (phys : isPhys f = true) (size : w = 4 ∨ w = 8) : capoWrite f (alignedAccess 0x900A0 w v) s =
    { s with capoMore := { s.capoMore with events := clearBits s.capoMore.events (bf v 5 0) } } := by
  have reg : (alignedAccess 0x900A0 w v).reg % 0x10000 = 0xA0 := by simp [alignedAccess]
  simp only [capoWrite, phys, reg, Bool.not_true, Bool.false_eq_true, if_false]
  rw [write32_of_low size rfl, bf_mod (by decide) (by decide)]

theorem pegWrite_fault (phys : isPhys f = true) : pegWrite f (alignedAccess 0x80208 w v) s =
    if w == 8 then { s with clk := { s.clk with fault := clearBits s.clk.fault (bf (v % 2 ^ (8 * w)) 24 0) } } else s := by
  have reg : (alignedAccess 0x80208 w v).reg % 0x10000 = 0x208 := by simp [alignedAccess]
  simp only [pegWrite, phys, reg, Bool.not_true, Bool.false_eq_true, if_false]
  rfl

/-- Settles O60: the two frames of a register write are laws of the model, the rest goes by the access and its block. -/
theorem registerWritesObeyTheirAccess : Obligations.RegisterWritesObeyTheirAccess := by
  refine ⟨?_, ?_, ?_, ?_, ?_, ?_, ?_, ?_, ?_, ?_⟩
  · exact fun s f o w v hf other => registerOnly_registerWrite hf other
  · exact fun s f o w v hf store => storeOnly_registerWrite hf store
  · intro s f o w v hf broken
    change execRegisterWrite f o w v s = _
    simp only [execRegisterWrite, unit_eq hf, accessOf_of_unaligned broken, ok_eq]
  · intro s f b o w v phys writable hb ho size aligned
    have inBlock : (0x10000 * (b + 1) + o) / 0x10000 = b + 1 := by omega
    have alignedAll : (0x10000 * (b + 1) + o) % w = 0 := by
      obtain rfl | rfl := size <;> omega
    have reg : (0x10000 * (b + 1) + o) / 8 * 8 = 0x10000 * (b + 1) + o / 8 * 8 := by omega
    have half : (0x10000 * (b + 1) + o) % 8 = o % 8 := by omega
    rw [exec_registerWrite_of_block phys writable hb inBlock size alignedAll, alignedAccess, reg, half]
  · intro s f b o w v hf phys hb ho shut
    change execRegisterWrite f (0x10000 * (b + 1) + o) w v s = _
    rw [execRegisterWrite, unit_eq hf, ok_eq]
    cases access : accessOf (0x10000 * (b + 1) + o) w v with
    | none => rfl
    | some a =>
      have inBlock : a.reg / 0x10000 = b + 1 := by
        rw [accessOf_reg access]
        omega
      have refused : (regServed s f b && !regGuarded s f b) = false := by rcases shut with h | h <;> simp [h]
      simp only [phys, if_true, physWrite_of_block inBlock hb, refused, Bool.false_eq_true, if_false]
  · intro s f o w v hf virt ho
    change execRegisterWrite f o w v s = _
    rw [execRegisterWrite, unit_eq hf, ok_eq]
    cases access : accessOf o w v with
    | none => rfl
    | some a =>
      have above : 0x10000 ≤ a.reg := by
        rw [accessOf_reg access]
        omega
      simp only [virt, Bool.false_eq_true, if_false, virtWrite_of_block above]
  · intro s f w v phys writable size
    have aligned : 0x10008 % w = 0 := by obtain rfl | rfl := size <;> rfl
    rw [exec_registerWrite_of_block phys writable (by decide) (by decide) size aligned]
    refine congrArg Host.Outcome.next ((bowWrite_slice phys size).trans ?_)
    unfold ranged
    split <;> rfl
  · intro s f w v phys writable size
    have aligned : 0xA0008 % w = 0 := by obtain rfl | rfl := size <;> rfl
    rw [exec_registerWrite_of_block phys writable (by decide) (by decide) size aligned]
    refine congrArg Host.Outcome.next ((safWrite_ctrl phys size).trans ?_)
    simp only [ranged, Nat.zero_le, true_and]
  · intro s f w v phys writable size
    have aligned : 0x900A0 % w = 0 := by obtain rfl | rfl := size <;> rfl
    rw [exec_registerWrite_of_block phys writable (by decide) (by decide) size aligned]
    exact congrArg Host.Outcome.next (capoWrite_events phys size)
  · intro s f v phys writable
    refine ⟨?_, ?_⟩
    · rw [exec_registerWrite_of_block phys writable (by decide) (by decide) (.inl rfl) rfl]
      exact congrArg Host.Outcome.next (pegWrite_fault phys)
    · rw [exec_registerWrite_of_block phys writable (by decide) (by decide) (.inr rfl) rfl]
      refine congrArg Host.Outcome.next ((pegWrite_fault phys).trans ?_)
      rw [bf_mod (by decide) (by decide)]
      rfl

end Sys2Proof
